-- ==== Sys2Proof/Word.lean ====
section
/-! DEFINITION. The word types of the ZC-4 cluster and their plainest arithmetic (spec/00_scope.md, R7, R8). -/

namespace Sys2Proof

/-- One byte of storage (R7). -/
abbrev Byte := BitVec 8

/-- A 32-bit CSR word, FP32 or INT32 element (R12, R160). -/
abbrev Word := BitVec 32

/-- A 64-bit scalar register or 64-bit CSR value (Table 0-3, R12). -/
abbrev DWord := BitVec 64

/-- A 128-bit instruction word (R137). -/
abbrev IWord := BitVec 128

/-- A vector register: 2,048 bytes (R159, R160). -/
abbrev VReg := BitVec 16384

/-- A mask register: 512 bits (R159). -/
abbrev Mask := BitVec 512

/-- An aligned 64-byte granule (Table 0-5). -/
abbrev Granule := BitVec 512

/-- `ceil(a / b)` on naturals (00_scope.md, pseudocode). -/
def ceilDiv (a b : Nat) : Nat := (a + b - 1) / b

/-- The value 1 or 0 of a flag in a register field. -/
def bit (b : Bool) : Nat := if b then 1 else 0

end Sys2Proof
end

