-- ==== Sys2Proof/Machine/Bits.lean ====
section
/-! DEFINITION. Bit fields, little-endian bytes (R7), packed elements (03, R47), and sorted association lists in canonical
form, for memory and the other sparse stores. -/

namespace Sys2Proof.Machine

open Sys2Proof

/-- `len` bits of `x` from bit `pos`, as a number. -/
def bvGet {w : Nat} (x : BitVec w) (pos len : Nat) : Nat := x.toNat / 2 ^ pos % 2 ^ len

/-- `x` with the `len` bits from bit `pos` replaced by the low `len` bits of `v`. -/
def bvPut {w : Nat} (x : BitVec w) (pos len v : Nat) : BitVec w :=
  (x &&& ~~~(BitVec.ofNat w ((2 ^ len - 1) * 2 ^ pos))) ||| BitVec.ofNat w (v % 2 ^ len * 2 ^ pos)

/-- Bit `i` of `x` set to `b`. -/
def bvSet {w : Nat} (x : BitVec w) (i : Nat) (b : Bool) : BitVec w := bvPut x i 1 (bit b)

/-- A number as `n` little-endian bytes (R7). -/
def natBytes : Nat → Nat → List Byte
  | 0, _ => []
  | n + 1, v => BitVec.ofNat 8 v :: natBytes n (v / 256)

/-- Little-endian bytes as a number (R7). -/
def leNat : List Byte → Nat
  | [] => 0
  | b :: bs => b.toNat + 256 * leNat bs

/-- `n` elements of `bits` bits packed from bit 0 of `v` upward (R47). -/
def unpack (bits : Nat) : Nat → Nat → List Nat
  | 0, _ => []
  | n + 1, v => v % 2 ^ bits :: unpack bits n (v / 2 ^ bits)

/-- Elements of `bits` bits packed upward from bit 0 (R47). -/
def pack (bits : Nat) : List Nat → Nat
  | [] => 0
  | c :: cs => c % 2 ^ bits + 2 ^ bits * pack bits cs

/-- The signed value of the low `n` bits of `v`. -/
def sext (n v : Nat) : Int := if v % 2 ^ n < 2 ^ (n - 1) then (v % 2 ^ n : Nat) else (v % 2 ^ n : Nat) - (2 ^ n : Int)

/-- A field at byte offset `off` of a byte string held as a bit vector, `n` bytes wide. -/
def byteField {w : Nat} (x : BitVec w) (off n : Nat) : Nat := bvGet x (8 * off) (8 * n)

/-- The `n` bytes of a list from offset `off`, as a number; bytes beyond its end are 0. -/
def leAt (bs : List Byte) (off n : Nat) : Nat := leNat ((bs.drop off).take n)

/-- The list from 0 to `n - 1` under a function (structural, for lanes and rows). -/
def tabulate {α : Type} (n : Nat) (f : Nat → α) : List α := (List.range n).map f

/-! ## Sorted association lists -/

/-- The value at key `k`. -/
def kGet {α : Type} : List (Nat × α) → Nat → Option α
  | [], _ => none
  | (j, x) :: m, k => if j = k then some x else kGet m k

/-- The list with key `k` at value `v`, or without `k` when `v` is none; keys stay strictly rising. -/
def kSet {α : Type} : List (Nat × α) → Nat → Option α → List (Nat × α)
  | [], k, v => match v with
    | some x => [(k, x)]
    | none => []
  | (j, y) :: m, k, v =>
    if k < j then
      match v with
      | some x => (k, x) :: (j, y) :: m
      | none => (j, y) :: m
    else if k = j then
      match v with
      | some x => (k, x) :: m
      | none => m
    else (j, y) :: kSet m k v

/-- Keys strictly above `lo` and strictly rising. -/
def kSortedFrom {α : Type} : Nat → List (Nat × α) → Bool
  | _, [] => true
  | lo, (j, _) :: m => decide (lo ≤ j) && kSortedFrom (j + 1) m

/-- Keys strictly rising. -/
def kSorted {α : Type} (m : List (Nat × α)) : Bool := kSortedFrom 0 m

/-! ## Byte memory: unlisted bytes read 0 -/

/-- One byte of a byte memory. -/
def memGet (m : List Host.Cell) (a : Nat) : Byte := (kGet m a).getD 0

/-- A byte memory with one byte written; a byte of value 0 is not listed. -/
def memPut (m : List Host.Cell) (a : Nat) (b : Byte) : List Host.Cell :=
  kSet m a (if b = 0 then none else some b)

/-- The canonical form: strictly rising addresses, no listed byte of value 0, nothing beyond `size`. -/
def memWf (size : Nat) (m : List Host.Cell) : Bool :=
  kSorted m && m.all (fun c => decide (c.2 ≠ 0) && decide (c.1 < size))

end Sys2Proof.Machine
end

