-- ==== Sys2Proof/Syntax.lean ====
section
/-! DEFINITION. The commands of the cluster: one constructor of `Instr` per row of spec/opcode_table.json. Program
instructions carry the fields of their 128-bit words (spec/06 to spec/13); events carry what arrives from outside. -/

namespace Sys2Proof

/-! ## Fields of program instructions -/

/-- MMA word 1, the store clause (06 Table 6-2). -/
structure StoreWord where
  sh   : BitVec 6
  sor  : Bool
  ssr  : Bool
  soff : BitVec 25
  sstr : BitVec 26
  ofmt : BitVec 3
  sat  : Bool
  scl  : Bool
  sa   : BitVec 5
  sb   : BitVec 5
  dest : Bool
deriving DecidableEq, Repr, Inhabited

/-- MMA word 0 with its store clause when ST is 1 (06 Table 6-1). -/
structure MmaWord where
  ovw   : Bool
  src   : Bool
  ta    : BitVec 4
  shape : BitVec 3
  afmt  : BitVec 3
  wfmt  : BitVec 3
  narr  : BitVec 2
  frb   : BitVec 11
  wh    : BitVec 6
  wor   : Bool
  wsr   : Bool
  woff  : BitVec 25
  wstr  : BitVec 26
  store : Option StoreWord
deriving DecidableEq, Repr, Inhabited

/-- The MMV word (06 Table 6-3). -/
structure MmvWord where
  ovw   : Bool
  dv    : Bool
  ta    : BitVec 4
  shape : BitVec 3
  fmt   : BitVec 3
  mm    : BitVec 3
  ns    : BitVec 2
  dst   : BitVec 11
  wh    : BitVec 6
  wor   : Bool
  wsr   : Bool
  woff  : BitVec 25
  wstr  : BitVec 26
  srow  : BitVec 6
  kb    : BitVec 3
deriving DecidableEq, Repr, Inhabited

/-- The fields [47:12] of a vector instruction word (07 Table 7-2); OPC and FN are the constructor. -/
structure VecWord where
  t   : BitVec 4
  t2  : BitVec 4
  vd  : BitVec 5
  va  : BitVec 5
  vb  : BitVec 5
  vc  : BitVec 5
  km  : BitVec 3
  mz  : Bool
  rm  : BitVec 2
  sat : Bool
deriving DecidableEq, Repr, Inhabited

/-- The operand extension of VLD and VST (07 Table 7-3). -/
structure VecMem where
  h   : BitVec 6
  or_ : Bool
  sr  : Bool
  off : BitVec 25
  str : BitVec 26
deriving DecidableEq, Repr, Inhabited

/-- The operand extension of VLDT and VSTT (07 Table 7-3). -/
structure VecTile where
  tt : BitVec 4
  lp : BitVec 5
deriving DecidableEq, Repr, Inhabited

/-- A row operand: immediate, or from a scalar register when `rr` (07 Table 7-3, 08 Table 8-2). -/
structure RowOp where
  row : BitVec 11
  rr  : Bool
deriving DecidableEq, Repr, Inhabited

/-- The operand extension of SETVL (07 Table 7-3). -/
structure SetVlExt where
  imm : BitVec 10
  vs  : Bool
  ss  : BitVec 5
  sd  : BitVec 5
deriving DecidableEq, Repr, Inhabited

/-- The operand extension of VOUT (08 Table 8-2). -/
structure VoutExt where
  dk  : BitVec 2
  h   : BitVec 6
  tt  : BitVec 4
  or_ : Bool
  off : BitVec 25
deriving DecidableEq, Repr, Inhabited

/-- The operand extension of VSRD beyond its row (08 Table 8-2). -/
structure VsrdExt where
  fin : Bool
  nb  : BitVec 8
deriving DecidableEq, Repr, Inhabited

/-- The operand extension of VSMRG beyond its row (08 Table 8-2). -/
structure VsmrgExt where
  mode : BitVec 3
  wi   : BitVec 2
  inc  : Bool
deriving DecidableEq, Repr, Inhabited

/-- The operand extension of VSCLF beyond its row (08 Table 8-2). -/
structure VsclfExt where
  nr : BitVec 11
  ws : BitVec 2
  am : BitVec 4
deriving DecidableEq, Repr, Inhabited

/-- The SALU word (09 Table 9-14). -/
structure SaluWord where
  fn  : BitVec 4
  sd  : BitVec 5
  sa  : BitVec 5
  sb  : BitVec 5
  i   : Bool
  imm : BitVec 64
deriving DecidableEq, Repr, Inhabited

/-- The BR word (09 Table 9-14). -/
structure BrWord where
  cond : BitVec 3
  sa   : BitVec 5
  sb   : BitVec 5
  rt   : Bool
  st   : BitVec 5
  tgt  : BitVec 32
deriving DecidableEq, Repr, Inhabited

/-- The fields that TLD and TST share (09 Table 9-14). -/
structure TileMem where
  tt  : BitVec 4
  h   : BitVec 6
  or_ : Bool
  sr  : Bool
  off : BitVec 25
  str : BitVec 26
deriving DecidableEq, Repr, Inhabited

/-- A DSTR patch PTn: enable, field index, scalar register (10 Table 10-1). -/
structure Patch where
  en  : Bool
  idx : BitVec 3
  reg : BitVec 5
deriving DecidableEq, Repr, Inhabited

/-- The four patches of a DSTR word (10 Table 10-1). -/
structure Patches where
  pt0 : Patch
  pt1 : Patch
  pt2 : Patch
  pt3 : Patch
deriving DecidableEq, Repr, Inhabited

/-- The ATOM word (12 Table 12-2). -/
structure AtomWord where
  sa  : BitVec 5
  sv  : BitVec 5
  sc  : BitVec 5
  sd  : BitVec 5
  aop : BitVec 4
  sz  : Bool
  rls : Bool
deriving DecidableEq, Repr, Inhabited

/-- The CLAIM word (12 Table 12-2). -/
structure ClaimWord where
  sa    : BitVec 5
  se    : BitVec 5
  sn    : BitVec 5
  sd    : BitVec 5
  lease : BitVec 8
deriving DecidableEq, Repr, Inhabited

/-- The ACQ word (12 Table 12-2). -/
structure AcqWord where
  fa   : BitVec 5
  fv   : BitVec 5
  cond : BitVec 2
  sd   : BitVec 5
  rb   : BitVec 5
  rn   : BitVec 5
deriving DecidableEq, Repr, Inhabited

/-- The REL word (12 Table 12-2). -/
structure RelWord where
  fa  : BitVec 5
  fv  : BitVec 5
  add : Bool
  sd  : BitVec 5
deriving DecidableEq, Repr, Inhabited

/-- The RROUTE word (11 Table 11-4). -/
structure RouteWord where
  mr   : BitVec 5
  fr   : BitVec 5
  txch : BitVec 2
  rxch : BitVec 2
deriving DecidableEq, Repr, Inhabited

/-- The RRED word (11 Table 11-5). -/
structure RredWord where
  op   : BitVec 2
  sf   : Bool
  df   : Bool
  sh   : BitVec 6
  dh   : BitVec 6
  rid  : BitVec 8
  soff : BitVec 25
  doff : BitVec 25
  lr   : Bool
  len  : BitVec 24
deriving DecidableEq, Repr, Inhabited

/-- The UPD word (13 Table 13-1). -/
structure UpdWord where
  h   : BitVec 6
  or_ : Bool
  off : BitVec 25
  sd  : BitVec 5
deriving DecidableEq, Repr, Inhabited

/-! ## What events bring from outside -/

/-- The boot tie-offs (16 Table 16-2). -/
structure TieOffs where
  dieId        : BitVec 6
  clusterId    : BitVec 6
  apertureBase : BitVec 11
  fpGen        : Bool
  imgBase      : BitVec 34
  imgCopies    : BitVec 2
deriving DecidableEq, Repr, Inhabited

/-- The two ports of the ring stop (11, R275). -/
inductive Side where
  | west
  | east
deriving DecidableEq, Repr, Inhabited

/-- The two mailboxes (15, R371). -/
inductive Mbx where
  | mgmt
  | user
deriving DecidableEq, Repr, Inhabited

/-- A Revolve flit: header of Table 11-2 and 256 data bytes (11, R275). -/
structure Flit where
  hdr  : BitVec 160
  data : BitVec 2048
deriving DecidableEq, Repr, Inhabited

/-- A flit as it arrives on a link, with its sequence number and CRC (17 Table 17-6, R428, R430). `flit` is what its first
beat carries and `data2` is FI_D of its second beat, which a link of generation 2 does not have (R429). -/
structure LinkFlit where
  flit : Flit
  data2 : BitVec 2048
  seq  : BitVec 5
  crc  : BitVec 32
deriving DecidableEq, Repr, Inhabited

/-- How a Stage Door flit arrives on a link: at which port, with which sequence number, and whether its CRC passes (11, R297;
17, R430). -/
structure Arrival where
  side : Side
  seq  : BitVec 5
  ok   : Bool
deriving DecidableEq, Repr, Inhabited

/-- Where a Stage Door message comes from: how its flit arrives, and the cluster that the message names as its sender (11, Table
11-6). -/
structure StageFrom where
  at_     : Arrival
  cluster : BitVec 6
deriving DecidableEq, Repr, Inhabited

/-- A RING_DOWN message as it arrives: whom it comes from, and the side of the sender's stop whose link is down (11, R301). -/
structure RingCut where
  sender : StageFrom
  east   : Bool
deriving DecidableEq, Repr, Inhabited

/-- What one stop reports in the TRAIN message (11, R278). -/
structure TrainId where
  cluster : BitVec 6
  gen     : BitVec 2
  die     : BitVec 6
  vc0     : BitVec 8
  vc1     : BitVec 8
  vc2     : BitVec 8
  vc3     : BitVec 8
deriving DecidableEq, Repr, Inhabited

/-- A TRAIN message: the collecting round, or the outcome round (11, R278). -/
inductive TrainMsg where
  | collect (ids : List TrainId)
  | outcome (status : BitVec 3) (n : BitVec 7) (gen : BitVec 2) (ids : List TrainId)
deriving DecidableEq, Repr, Inhabited

/-- A TRAIN message as it arrives (11, R278). -/
structure TrainFlit where
  at_ : Arrival
  msg : TrainMsg
deriving DecidableEq, Repr, Inhabited

/-- A target-side request to the aperture (17 Table 17-2, Table 17-4). -/
structure TargetReq where
  tid  : BitVec 12
  addr : BitVec 52
  op   : BitVec 4
  len  : BitVec 2
  aop  : BitVec 4
  sz   : Bool
  mask : BitVec 256
  data : BitVec 2048
  rs   : BitVec 2
deriving DecidableEq, Repr, Inhabited

/-! ## The commands -/

/-- The commands of the cluster, in the order of spec/opcode_table.json. -/
inductive Instr where
  -- matrix instructions and the matrix engine's own steps (05, 06)
  | mma (w : MmaWord)
  | storeClause
  | mmv (w : MmvWord)
  | swap
  -- vector instructions (07)
  | vadd (w : VecWord)
  | vsub (w : VecWord)
  | vmul (w : VecWord)
  | vdiv (w : VecWord)
  | vmin (w : VecWord)
  | vmax (w : VecWord)
  | vfma (w : VecWord)
  | vfms (w : VecWord)
  | vfnma (w : VecWord)
  | vfnms (w : VecWord)
  | vsqrt (w : VecWord)
  | vabs (w : VecWord)
  | vneg (w : VecWord)
  | vcpys (w : VecWord)
  | vand (w : VecWord)
  | vor (w : VecWord)
  | vxor (w : VecWord)
  | vsll (w : VecWord)
  | vsrl (w : VecWord)
  | vsra (w : VecWord)
  | vexp2 (w : VecWord)
  | vlog2 (w : VecWord)
  | vrcp (w : VecWord)
  | vrsqrt (w : VecWord)
  | vtanh (w : VecWord)
  | vsigm (w : VecWord)
  | vcmp (pred : BitVec 4) (w : VecWord)
  | vsel (w : VecWord)
  | vperm (w : VecWord)
  | vbcast (w : VecWord)
  | vext (w : VecWord)
  | vredsum (w : VecWord)
  | vredprod (w : VecWord)
  | vredmax (w : VecWord)
  | vredmin (w : VecWord)
  | vredargmax (w : VecWord)
  | vredargmin (w : VecWord)
  | vcvt (w : VecWord)
  | kand (w : VecWord)
  | kor (w : VecWord)
  | kxor (w : VecWord)
  | kandn (w : VecWord)
  | knot (w : VecWord)
  | kpop (w : VecWord)
  | vld (w : VecWord) (m : VecMem)
  | vst (w : VecWord) (m : VecMem)
  | vldt (w : VecWord) (x : VecTile)
  | vstt (w : VecWord) (x : VecTile)
  | vrdf (w : VecWord) (r : RowOp)
  | vwrf (w : VecWord) (r : RowOp)
  | setvl (w : VecWord) (x : SetVlExt)
  -- prologue and epilogue instructions (08)
  | vout (w : VecWord) (x : VoutExt)
  | vsrd (w : VecWord) (r : RowOp) (x : VsrdExt)
  | vswr (w : VecWord) (r : RowOp)
  | vsmrg (w : VecWord) (r : RowOp) (x : VsmrgExt)
  | vsclf (w : VecWord) (r : RowOp) (x : VsclfExt)
  -- scalar, branch and tile instructions (09, 04)
  | salu (w : SaluWord)
  | sread (sel : BitVec 8) (sd : BitVec 5)
  | br (w : BrWord)
  | sceneEnd
  | tcfg (tt : BitVec 4) (shape : BitVec 3) (fmt : BitVec 3)
  | trel (tt : BitVec 4)
  | tld (m : TileMem)
  | tst (m : TileMem) (dfmt : BitVec 3) (sat : Bool)
  -- streams and synchronization (10, 12)
  | dstr (slot : BitVec 6) (pts : Patches) (image : BitVec 512)
  | aside (pts : Patches) (image : BitVec 128)
  | cue (slot : BitVec 6) (pr : Bool) (p : BitVec 25)
  | cueSatisfied (slot : BitVec 6)
  | waitq (slot : BitVec 6) (hold : BitVec 3)
  | acq (w : AcqWord)
  | acqPoll (tag : BitVec 6)
  | rel (w : RelWord)
  | atom (w : AtomWord)
  | claim (w : ClaimWord)
  -- ring instructions (11)
  | rroute (w : RouteWord)
  | rsend (ta : BitVec 4)
  | rred (w : RredWord)
  -- update engine (13)
  | upd (w : UpdWord)
  | updComplete
  | updCommit
  -- stream and fabric events (10, 12, 15, 17)
  | streamReadRequest (slot : BitVec 6)
  | streamWriteRequest (slot : BitVec 6)
  | sorterIssue
  | instructionFill (line : BitVec 32)
  | fabricResponse (tag : BitVec 13) (resp : BitVec 2) (rs : BitVec 2) (data : BitVec 2048)
  | windowAccess (r : TargetReq)
  | windowAtomic (r : TargetReq)
  | userMailboxAccess (r : TargetReq)
  -- checking and withdrawal (14)
  | replayPendingEntry
  | lockstepDivergence (loc : BitVec 32) (taken : Bool)
  | controlRestart
  | withdrawal
  | withdrawalTimeout
  | returnRecord
  -- ticks and scheduling (09, 16)
  | tick (num : BitVec 64) (cap : BitVec 8)
  | sceneStart
  | replayStart
  | sceneLate (pos : BitVec 8)
  | leaseExpiry (idx : BitVec 6)
  | sceneRelease (pos : BitVec 8)
  | missingTick
  | idleEntry
  -- sensors, the Curtain, resets and boot (16, 17)
  | throttle (level : Bool)
  | tempIn (v : BitVec 10)
  | currIn (v : BitVec 12)
  | curtainIn (level : Bool)
  | curtainPulseEnd
  | stopEventEnd
  | poresetNFall
  | poresetNRise (ties : TieOffs)
  | clresetNFall
  | clresetNRise
  | powerDown
  | cclkChange (khz : BitVec 32)
  | fuseLoad (bits : BitVec 1024)
  | copyExamine (n : BitVec 2) (first : BitVec 4)
  | configChoose
  | release
  -- the ring stop (11, 17)
  | train (m : TrainFlit)
  | trainingTimeout
  | vc0Flit (f : LinkFlit)
  | vc0FlitUsed (ch : BitVec 2)
  | vc1Flit (side : Side) (f : LinkFlit)
  | vc2Message (side : Side) (f : LinkFlit)
  | flitSend (side : Side) (vc : BitVec 2) (ch : BitVec 2)
  | creditReturn (side : Side) (vc : BitVec 2) (ch : BitVec 2)
  | linkAck (side : Side) (seq : BitVec 5)
  | linkNak (side : Side) (seq : BitVec 5)
  | curtain (orig : StageFrom)
  | groupEnd (gtag : BitVec 16) (run : BitVec 4) (sender : StageFrom)
  | groupReplay (gtag : BitVec 16) (run : BitVec 4) (sender : StageFrom)
  | groupAbandon (gtag : BitVec 16) (run : BitVec 4) (status : BitVec 16) (sender : StageFrom)
  | fence (sender : StageFrom)
  | rejoin (sender : StageFrom)
  | rejoinComplete
  | ringDown (cut : RingCut)
  -- mailbox commands as firmware takes them (15)
  | negotiate (m : Mbx) (slot : BitVec 3)
  | query (m : Mbx) (slot : BitVec 3)
  | load (m : Mbx) (slot : BitVec 3) (first : BitVec 4)
  | unload (m : Mbx) (slot : BitVec 3)
  | enqueue (m : Mbx) (slot : BitVec 3)
  | abort (m : Mbx) (slot : BitVec 3)
  | clearfault (m : Mbx) (slot : BitVec 3)
  | xltResume (m : Mbx) (slot : BitVec 3)
  | xltAbort (m : Mbx) (slot : BitVec 3)
  | tenant (m : Mbx) (slot : BitVec 3)
  | wipeComplete
  | curtainCommand (m : Mbx) (slot : BitVec 3)
  | withdraw (m : Mbx) (slot : BitVec 3)
  | fenceCommand (m : Mbx) (slot : BitVec 3)
  | rejoinCommand (m : Mbx) (slot : BitVec 3)
  -- register writes and reads (15, 18)
  | mbxDoorbell (v : Word)
  | mbxAck (v : Word)
  | mbxSlotWrite (off : BitVec 10) (v : Word)
  | mbxNtcTail (v : Word)
  | xltInval (v : Word)
  | xltInvalComplete
  | perfClear (v : Word)
  | dbgMemcmd (v : Word)
  | csrWrite (off : BitVec 24) (v : Word)
  -- test access port and debug instrument (17)
  | trstN
  | bypass (code : BitVec 8)
  | samplePreload (cells : BitVec 102)
  | extest (cells : BitVec 102)
  | access
  | debugCsrAccess (wr : Bool) (off : BitVec 24) (v : Word)
  | csrRead (off : BitVec 24)
  | controlSramUncorrectable (word : BitVec 16) (taken : Bool)
  | testLogicReset
deriving DecidableEq, Repr, Inhabited

end Sys2Proof
end

