-- ==== Sys2Proof/WellFormed.lean ====
section
/-! DEFINITION. Well-formed instruction words: the checks of row 3 of 09 Table 9-10, which reject a word with E_BADVAL
(06 R138 to R140; 07 R166; 08 R194; 09 R459; 10 R244, R245, Table 10-4; 11 Tables 11-4, 11-5; 12 R319; 13 Table 13-1).
Commands that are no instruction of a tile program are always well formed. -/

namespace Sys2Proof

/-- A 25-bit field that may name a scalar register: then only its low five bits are used (R138). -/
def offFieldOk (reg : Bool) (off : BitVec 25) : Bool := !reg || decide (off.toNat < 32)

/-- A 26-bit stride field that may name a scalar register (R138). -/
def strFieldOk (reg : Bool) (str : BitVec 26) : Bool := !reg || decide (str.toNat < 32)

/-- A stride field of a tile instruction or of VLD and VST: an immediate lies from -2^25 + 32 to 2^25 - 32 (R82,
07 Table 7-3). -/
def strRangeOk (reg : Bool) (str : BitVec 26) : Bool :=
  strFieldOk reg str && (reg || (decide (-(2 ^ 25 : Int) + 32 ≤ str.toInt) && decide (str.toInt ≤ 2 ^ 25 - 32)))

/-- A SAT option: clear only for a destination E4M3 or E5M2 (R84, R139, 07 Table 7-2). -/
def satOk (sat : Bool) (fmt : Nat) : Bool := sat || fmt == 4 || fmt == 5

/-- The store clause (06, R139). -/
def StoreWord.wf (w : StoreWord) : Bool :=
  offFieldOk w.sor w.soff && strFieldOk w.ssr w.sstr
    && (w.scl || (w.sa == 0 && w.sb == 0))
    && (!w.dest || (w.sh == 0 && !w.sor && !w.ssr && w.soff == 0 && w.sstr == 0))
    && satOk w.sat w.ofmt.toNat

/-- The MMA words (06, R138, R139). -/
def MmaWord.wf (w : MmaWord) : Bool :=
  offFieldOk w.wor w.woff && strFieldOk w.wsr w.wstr && (!w.src || w.ta == 0)
    && match w.store with
       | some st => st.wf
       | none => true

/-- The MMV word (06, R140). -/
def MmvWord.wf (w : MmvWord) : Bool :=
  offFieldOk w.wor w.woff && strFieldOk w.wsr w.wstr && (!w.dv || decide (w.dst.toNat < 32))

/-- Which of VD, VA, VB, VC, KM, MZ and RM an instruction uses; the others are 0 (07, R166). -/
structure VecUse where
  vd : Bool
  va : Bool
  vb : Bool
  vc : Bool
  km : Bool
  mz : Bool
  rm : Bool
deriving DecidableEq, Repr, Inhabited

/-- Unused fields are 0, T lies in a set of codes, T2 and SAT are 0 (07, R166). DESIGN CHOICE (log 47): an INT32 reduction does not
round, so its RM is 0, although Table 7-4 gives SUM and PROD an RM without restriction; an integer VCVT may carry any RM. -/
def VecWord.wf (w : VecWord) (u : VecUse) (ts : List Nat) : Bool :=
  (u.vd || w.vd == 0) && (u.va || w.va == 0) && (u.vb || w.vb == 0) && (u.vc || w.vc == 0) && (u.km || w.km == 0)
    && (u.mz || !w.mz) && (u.rm && w.t != 1 || w.rm == 0) && ts.contains w.t.toNat && w.t2 == 0 && !w.sat

/-- Element-wise with one, two or three sources. -/
def use1 (rm : Bool) : VecUse := ⟨true, true, false, false, true, true, rm⟩
def use2 (rm : Bool) : VecUse := ⟨true, true, true, false, true, true, rm⟩
def use3 : VecUse := ⟨true, true, true, true, true, true, true⟩
/-- Reductions. -/
def useRed (rm : Bool) : VecUse := ⟨true, true, false, false, true, false, rm⟩

def tsFpInt : List Nat := [0, 8, 1]
def tsFp : List Nat := [0, 8]
def tsAny : List Nat := [0, 1, 2, 3, 4, 5, 6, 7, 8]

/-- A mask register in a 5-bit register field. -/
def maskField (f : BitVec 5) : Bool := decide (f.toNat < 8)

/-- A destination mask register: not K0 (R159). -/
def maskDest (f : BitVec 5) : Bool := maskField f && f != 0

/-- The K instructions: T 0, masks in VD, VA, VB (07, Table 7-4). -/
def VecWord.wfMask (w : VecWord) (vb : Bool) : Bool :=
  w.wf ⟨true, true, vb, false, false, false, false⟩ [0] && maskDest w.vd && maskField w.va && maskField w.vb

/-- A row operand (07 Table 7-3). -/
def RowOp.wf (r : RowOp) : Bool := !r.rr || decide (r.row.toNat < 32)

/-- The operand extension of VLD and VST (07 Table 7-3, R182). -/
def VecMem.wf (m : VecMem) (f4 : Bool) : Bool :=
  offFieldOk m.or_ m.off && strRangeOk m.sr m.str && (!f4 || (m.str == 0 && !m.sr))

/-- The operand extension of SETVL (07 Table 7-3, R165). -/
def SetVlExt.wf (x : SetVlExt) : Bool :=
  if x.vs then x.imm == 0 else x.ss == 0 && decide (1 ≤ x.imm.toNat) && decide (x.imm.toNat ≤ 512)

/-- VOUT (08 Table 8-2, R194). -/
def VoutExt.wf (x : VoutExt) : Bool :=
  decide (x.dk.toNat < 2) && offFieldOk x.or_ x.off && (x.dk == 0 || x.h == 0) && (x.dk == 1 || x.tt == 0)
    && (x.dk == 0 || x.or_ || decide (x.off.toNat < 256))

/-- A patch that is not enabled has index and register 0; an Aside image has fields 0 and 1 only (10, R245). -/
def Patch.wf (p : Patch) (aside : Bool) : Bool :=
  if p.en then !aside || decide (p.idx.toNat < 2) else p.idx == 0 && p.reg == 0

def Patches.wf (p : Patches) (aside : Bool) : Bool :=
  p.pt0.wf aside && p.pt1.wf aside && p.pt2.wf aside && p.pt3.wf aside

/-- Some patch is enabled (10, R252). -/
def Patches.any (p : Patches) : Bool := p.pt0.en || p.pt1.en || p.pt2.en || p.pt3.en

/-- The well-formed commands. -/
def Instr.wf : Instr → Bool
  | .mma w => w.wf
  | .mmv w => w.wf
  | .vadd w | .vsub w | .vmul w => w.wf (use2 true) tsFpInt
  | .vdiv w => w.wf (use2 true) tsFp
  | .vmin w | .vmax w => w.wf (use2 false) tsFpInt
  | .vfma w | .vfms w | .vfnma w | .vfnms w => w.wf use3 tsFp
  | .vsqrt w => w.wf (use1 true) tsFp
  | .vabs w | .vneg w => w.wf (use1 false) tsFp
  | .vcpys w => w.wf (use2 false) tsFp
  | .vand w | .vor w | .vxor w | .vsll w | .vsrl w | .vsra w => w.wf (use2 false) [1]
  | .vexp2 w | .vlog2 w | .vrcp w | .vrsqrt w | .vtanh w | .vsigm w => w.wf (use1 false) [0]
  | .vcmp p w => w.wf ⟨true, true, true, false, true, false, false⟩ tsFpInt && decide (p.toNat < 8) && maskDest w.vd
  | .vsel w => w.wf ⟨true, true, true, false, true, false, false⟩ tsAny
  | .vperm w => w.wf (use2 false) tsAny
  | .vbcast w => w.wf (use1 false) tsAny
  | .vext w => w.wf ⟨true, true, false, false, false, false, false⟩ tsAny
  | .vredsum w | .vredprod w => w.wf (useRed true) tsFpInt
  | .vredmax w | .vredmin w | .vredargmax w | .vredargmin w => w.wf (useRed false) tsFpInt
  | .vcvt w =>
    w.vb == 0 && w.vc == 0 && decide (w.t.toNat < 9) && decide (w.t2.toNat < 9) && satOk w.sat w.t2.toNat
  | .kand w | .kor w | .kxor w | .kandn w => w.wfMask true
  | .knot w => w.wfMask false
  | .kpop w => w.wf ⟨true, false, false, false, true, false, false⟩ [0]
  | .vld w m => w.wf ⟨true, false, false, false, true, true, false⟩ tsAny && m.wf (w.t == 6)
  | .vst w m => w.wf ⟨false, true, false, false, true, false, false⟩ tsAny && m.wf (w.t == 6)
  | .vldt w _ => w.wf ⟨true, false, false, false, false, false, false⟩ [0]
  | .vstt w _ => w.wf ⟨false, true, false, false, false, false, false⟩ [0]
  | .vrdf w r => w.wf ⟨true, false, false, false, true, true, false⟩ [0] && r.wf
  | .vwrf w r => w.wf ⟨false, true, false, false, true, false, false⟩ [0, 1] && r.wf
  | .setvl w x => w.wf ⟨false, false, false, false, false, false, false⟩ [0] && x.wf
  | .vout w x =>
    w.vd == 0 && w.vb == 0 && w.vc == 0 && w.rm == 0 && (w.t == 0 || w.t == 1) && decide (w.t2.toNat < 8)
      && satOk w.sat w.t2.toNat && x.wf
  | .vsrd w r x =>
    w.wf ⟨true, false, false, false, false, false, false⟩ [0] && r.wf
      && (if x.fin then decide (1 ≤ x.nb.toNat) else x.nb == 0)
  | .vswr w r => w.wf ⟨false, true, false, false, false, false, false⟩ [0] && r.wf
  | .vsmrg w r x =>
    w.wf ⟨true, true, false, false, false, false, false⟩ [0] && r.wf && decide (x.mode.toNat < 6)
      && (decide (x.mode.toNat < 2) || x.wi == 0)
  | .vsclf w r x =>
    w.wf ⟨false, false, false, false, false, false, false⟩ [0] && r.wf && x.am != 0
      && (r.rr || decide (r.row.toNat + x.nr.toNat ≤ 2047))
  | .salu w => decide (w.fn.toNat < 14) && (w.fn != 13 || w.sa == 0) && (if w.i then w.sb == 0 else w.imm == 0)
  | .sread sel _ => decide (sel.toNat < 5) || (decide (0x20 ≤ sel.toNat) && decide (sel.toNat < 0x40))
  | .br w =>
    decide (w.cond.toNat < 7) && (w.cond != 0 || (w.sa == 0 && w.sb == 0))
      && (if w.rt then w.tgt == 0 else w.st == 0 && decide (w.tgt.toNat % 16 = 0))
  | .tld m => offFieldOk m.or_ m.off && strRangeOk m.sr m.str
  | .tst m dfmt sat => offFieldOk m.or_ m.off && strRangeOk m.sr m.str && satOk sat dfmt.toNat
  | .dstr slot pts _ => decide (slot.toNat < 48) && pts.wf false
  | .aside pts _ => pts.wf true
  | .cue _ pr p => if pr then decide (p.toNat < 32) else decide (p.toNat % 64 = 0)
  | .rel w => w.add || w.sd == 0
  | .atom w => decide (w.aop.toNat < 11) && (w.aop == 9 || w.sc == 0)
  | .claim w => w.lease != 0
  | .rred w =>
    decide (w.op.toNat < 2) && (!w.df || (w.op == 0 && w.dh == 0 && w.doff == 0))
      && (if w.lr then decide (w.len.toNat < 32)
          else w.len != 0 && decide (w.len.toNat ≤ 8388608) && decide (w.len.toNat % 128 = 0))
  | .upd w => offFieldOk w.or_ w.off
  | _ => true

/-- The commands that are instructions of a tile program (09 Table 9-1). -/
def Instr.isProgram : Instr → Bool
  | .mma _ | .mmv _ => true
  | .vadd _ | .vsub _ | .vmul _ | .vdiv _ | .vmin _ | .vmax _ | .vfma _ | .vfms _ | .vfnma _ | .vfnms _ => true
  | .vsqrt _ | .vabs _ | .vneg _ | .vcpys _ | .vand _ | .vor _ | .vxor _ | .vsll _ | .vsrl _ | .vsra _ => true
  | .vexp2 _ | .vlog2 _ | .vrcp _ | .vrsqrt _ | .vtanh _ | .vsigm _ | .vcmp _ _ | .vsel _ | .vperm _ => true
  | .vbcast _ | .vext _ | .vredsum _ | .vredprod _ | .vredmax _ | .vredmin _ | .vredargmax _ => true
  | .vredargmin _ | .vcvt _ | .kand _ | .kor _ | .kxor _ | .kandn _ | .knot _ | .kpop _ | .vld _ _ => true
  | .vst _ _ | .vldt _ _ | .vstt _ _ | .vrdf _ _ | .vwrf _ _ | .setvl _ _ | .vout _ _ | .vsrd _ _ _ => true
  | .vswr _ _ | .vsmrg _ _ _ | .vsclf _ _ _ | .salu _ | .sread _ _ | .br _ | .sceneEnd | .tcfg _ _ _ => true
  | .trel _ | .tld _ | .tst _ _ _ | .dstr _ _ _ | .aside _ _ | .cue _ _ _ | .waitq _ _ | .acq _ | .rel _ => true
  | .atom _ | .claim _ | .rroute _ | .rsend _ | .rred _ | .upd _ => true
  | _ => false

end Sys2Proof
end

