-- ==== Sys2Proof/Decode.lean ====
section
/-! DEFINITION. The 128-bit words of tile-program instructions: decoder and encoder from the word layouts of 06 Tables 6-1
to 6-3, 07 Tables 7-2 to 7-4, 08 Tables 8-1 and 8-2, 09 Tables 9-13 and 9-14, 10 Tables 10-1 and 10-4, 11 Tables 11-4 and
11-5, 12 Table 12-2, 13 Table 13-1. The opcode table gives no row any bits, so `decodeTableWord` answers none. -/

namespace Sys2Proof

open Machine

/-- The fields of a layout in a word, from `(lowest bit, width)` pairs; none when a bit outside them is 1 (R137). -/
def fieldsOf (w : IWord) (lay : List (Nat × Nat)) : Option (List Nat) :=
  if w.toNat = (lay.map fun p => bvGet w p.1 p.2 * 2 ^ p.1).sum then some (lay.map fun p => bvGet w p.1 p.2) else none

/-- A word from the fields of a layout. -/
def wordOf : List (Nat × Nat) → List Nat → Nat
  | p :: ps, v :: vs => v % 2 ^ p.2 * 2 ^ p.1 + wordOf ps vs
  | _, _ => 0

def layMma : List (Nat × Nat) :=
  [(0, 8), (8, 1), (9, 1), (10, 4), (14, 3), (17, 3), (20, 3), (23, 2), (25, 11), (36, 6), (42, 1), (43, 1), (44, 25),
   (69, 26), (95, 1)]

def layStore : List (Nat × Nat) :=
  [(0, 6), (6, 1), (7, 1), (8, 25), (33, 26), (59, 3), (62, 1), (63, 1), (64, 5), (69, 5), (74, 1)]

def layMmv : List (Nat × Nat) :=
  [(0, 8), (8, 1), (9, 1), (10, 4), (14, 3), (17, 3), (20, 3), (23, 2), (25, 11), (36, 6), (42, 1), (43, 1), (44, 25),
   (69, 26), (95, 6), (101, 3)]

def layVec : List (Nat × Nat) :=
  [(0, 8), (8, 4), (12, 4), (16, 4), (20, 5), (25, 5), (30, 5), (35, 5), (40, 3), (43, 1), (44, 2), (46, 1)]

def layVecMem : List (Nat × Nat) := layVec ++ [(48, 6), (54, 1), (55, 1), (56, 25), (81, 26)]
def layVecTile : List (Nat × Nat) := layVec ++ [(48, 4), (52, 5)]
def layRow : List (Nat × Nat) := layVec ++ [(48, 11), (59, 1)]
def laySetvl : List (Nat × Nat) := layVec ++ [(48, 10), (58, 1), (59, 5), (64, 5)]
def layVout : List (Nat × Nat) := layVec ++ [(48, 2), (50, 6), (56, 4), (60, 1), (61, 25)]
def layVsrd : List (Nat × Nat) := layRow ++ [(60, 1), (61, 8)]
def layVsmrg : List (Nat × Nat) := layRow ++ [(60, 3), (63, 2), (65, 1)]
def layVsclf : List (Nat × Nat) := layRow ++ [(60, 11), (71, 2), (73, 4)]
def laySalu : List (Nat × Nat) := [(0, 8), (8, 4), (12, 5), (17, 5), (22, 5), (27, 1), (64, 64)]
def laySread : List (Nat × Nat) := [(0, 8), (8, 8), (16, 5)]
def layBr : List (Nat × Nat) := [(0, 8), (8, 3), (11, 5), (16, 5), (21, 1), (22, 5), (32, 32)]
def layOpc : List (Nat × Nat) := [(0, 8)]
def layTcfg : List (Nat × Nat) := [(0, 8), (8, 4), (12, 3), (15, 3)]
def layTt : List (Nat × Nat) := [(0, 8), (8, 4)]
def layTld : List (Nat × Nat) := [(0, 8), (8, 4), (12, 6), (18, 1), (19, 1), (20, 25), (45, 26)]
def layTst : List (Nat × Nat) := layTld ++ [(71, 3), (74, 1)]
def layDstr : List (Nat × Nat) :=
  [(0, 8), (8, 6), (14, 1), (16, 1), (17, 3), (20, 5), (25, 1), (26, 3), (29, 5), (34, 1), (35, 3), (38, 5), (43, 1),
   (44, 3), (47, 5)]
def layCue : List (Nat × Nat) := [(0, 8), (8, 6), (14, 1), (15, 25)]
def layWaitq : List (Nat × Nat) := [(0, 8), (8, 6), (14, 3)]
def layRred : List (Nat × Nat) :=
  [(0, 8), (8, 2), (10, 1), (11, 1), (12, 6), (18, 6), (24, 8), (32, 25), (57, 25), (82, 1), (83, 24)]
def layRroute : List (Nat × Nat) := [(0, 8), (8, 5), (13, 5), (18, 2), (20, 2)]
def layUpd : List (Nat × Nat) := [(0, 8), (8, 6), (14, 1), (15, 25), (40, 5)]
def layAtom : List (Nat × Nat) := [(0, 8), (8, 5), (13, 5), (18, 5), (23, 5), (28, 4), (32, 1), (33, 1)]
def layClaim : List (Nat × Nat) := [(0, 8), (8, 5), (13, 5), (18, 5), (23, 5), (28, 8)]
def layAcq : List (Nat × Nat) := [(0, 8), (8, 5), (13, 5), (18, 2), (20, 5), (25, 5), (30, 5)]
def layRel : List (Nat × Nat) := [(0, 8), (8, 5), (13, 5), (18, 1), (19, 5)]

/-- A number as a field of `n` bits. -/
abbrev fld (n v : Nat) : BitVec n := BitVec.ofNat n v

/-- A number as a one-bit field. -/
abbrev flg (v : Nat) : Bool := v == 1

/-! ## Decoding -/

/-- The store clause in an MMA's word 1 (Table 6-2). -/
def decStore (w : IWord) : Option StoreWord :=
  match fieldsOf w layStore with
  | some [sh, sor, ssr, soff, sstr, ofmt, sat, scl, sa, sb, dest] =>
    some ⟨fld 6 sh, flg sor, flg ssr, fld 25 soff, fld 26 sstr, fld 3 ofmt, flg sat, flg scl, fld 5 sa, fld 5 sb, flg dest⟩
  | _ => none

/-- MMA, one or two words (Table 6-1). -/
def decMma (w : IWord) (rest : List IWord) : Option (Instr × List IWord) :=
  match fieldsOf w layMma with
  | some [_, ovw, src, ta, shape, afmt, wfmt, narr, frb, wh, wor, wsr, woff, wstr, st] =>
    let mk := fun s => Instr.mma ⟨flg ovw, flg src, fld 4 ta, fld 3 shape, fld 3 afmt, fld 3 wfmt, fld 2 narr,
      fld 11 frb, fld 6 wh, flg wor, flg wsr, fld 25 woff, fld 26 wstr, s⟩
    if st = 0 then some (mk none, rest)
    else
      match rest with
      | w1 :: rest' => (decStore w1).map fun s => (mk (some s), rest')
      | [] => none
  | _ => none

/-- MMV (Table 6-3). -/
def decMmv (w : IWord) : Option Instr :=
  match fieldsOf w layMmv with
  | some [_, ovw, dv, ta, shape, fmt, mm, ns, dst, wh, wor, wsr, woff, wstr, srow, kb] =>
    some (.mmv ⟨flg ovw, flg dv, fld 4 ta, fld 3 shape, fld 3 fmt, fld 3 mm, fld 2 ns, fld 11 dst, fld 6 wh, flg wor,
      flg wsr, fld 25 woff, fld 26 wstr, fld 6 srow, fld 3 kb⟩)
  | _ => none

/-- The common fields of a vector word (Table 7-2), from FN on. -/
def decVecWord : List Nat → Option (VecWord × List Nat)
  | _ :: _ :: t :: t2 :: vd :: va :: vb :: vc :: km :: mz :: rm :: sat :: rest =>
    some (⟨fld 4 t, fld 4 t2, fld 5 vd, fld 5 va, fld 5 vb, fld 5 vc, fld 3 km, flg mz, fld 2 rm, flg sat⟩, rest)
  | _ => none

/-- A vector word of a layout, and its extension's fields. -/
def decVec (w : IWord) (lay : List (Nat × Nat)) : Option (VecWord × List Nat) :=
  (fieldsOf w lay).bind decVecWord

/-- A vector instruction without an extension. -/
def decPlain (w : IWord) (mk : VecWord → Instr) : Option Instr := (decVec w layVec).map fun p => mk p.1

/-- VLD, VST. -/
def decMem (w : IWord) (mk : VecWord → VecMem → Instr) : Option Instr :=
  match decVec w layVecMem with
  | some (v, [h, o, s, off, str]) => some (mk v ⟨fld 6 h, flg o, flg s, fld 25 off, fld 26 str⟩)
  | _ => none

/-- VLDT, VSTT. -/
def decTile (w : IWord) (mk : VecWord → VecTile → Instr) : Option Instr :=
  match decVec w layVecTile with
  | some (v, [tt, lp]) => some (mk v ⟨fld 4 tt, fld 5 lp⟩)
  | _ => none

/-- VRDF, VWRF, VSWR. -/
def decRow (w : IWord) (mk : VecWord → RowOp → Instr) : Option Instr :=
  match decVec w layRow with
  | some (v, [row, rr]) => some (mk v ⟨fld 11 row, flg rr⟩)
  | _ => none

/-- SETVL. -/
def decSetvl (w : IWord) : Option Instr :=
  match decVec w laySetvl with
  | some (v, [imm, vs, ss, sd]) => some (.setvl v ⟨fld 10 imm, flg vs, fld 5 ss, fld 5 sd⟩)
  | _ => none

/-- Group 0x5F (Table 8-2). -/
def decVout (w : IWord) : Option Instr :=
  match decVec w layVout with
  | some (v, [dk, h, tt, o, off]) => some (.vout v ⟨fld 2 dk, fld 6 h, fld 4 tt, flg o, fld 25 off⟩)
  | _ => none

def decVsrd (w : IWord) : Option Instr :=
  match decVec w layVsrd with
  | some (v, [row, rr, fin, nb]) => some (.vsrd v ⟨fld 11 row, flg rr⟩ ⟨flg fin, fld 8 nb⟩)
  | _ => none

def decVsmrg (w : IWord) : Option Instr :=
  match decVec w layVsmrg with
  | some (v, [row, rr, mode, wi, inc]) => some (.vsmrg v ⟨fld 11 row, flg rr⟩ ⟨fld 3 mode, fld 2 wi, flg inc⟩)
  | _ => none

def decVsclf (w : IWord) : Option Instr :=
  match decVec w layVsclf with
  | some (v, [row, rr, nr, ws, am]) => some (.vsclf v ⟨fld 11 row, flg rr⟩ ⟨fld 11 nr, fld 2 ws, fld 4 am⟩)
  | _ => none

/-- The vector groups 0x50 to 0x5F by FN (Tables 7-4 and 8-1). -/
def decGroup (w : IWord) (opc fn : Nat) : Option Instr :=
  match opc, fn with
  | 0x50, 0 => decPlain w .vadd
  | 0x50, 1 => decPlain w .vsub
  | 0x50, 2 => decPlain w .vmul
  | 0x50, 3 => decPlain w .vdiv
  | 0x50, 4 => decPlain w .vmin
  | 0x50, 5 => decPlain w .vmax
  | 0x51, 0 => decPlain w .vfma
  | 0x51, 1 => decPlain w .vfms
  | 0x51, 2 => decPlain w .vfnma
  | 0x51, 3 => decPlain w .vfnms
  | 0x52, 0 => decPlain w .vsqrt
  | 0x52, 1 => decPlain w .vabs
  | 0x52, 2 => decPlain w .vneg
  | 0x52, 3 => decPlain w .vcpys
  | 0x53, 0 => decPlain w .vand
  | 0x53, 1 => decPlain w .vor
  | 0x53, 2 => decPlain w .vxor
  | 0x53, 3 => decPlain w .vsll
  | 0x53, 4 => decPlain w .vsrl
  | 0x53, 5 => decPlain w .vsra
  | 0x54, 0 => decPlain w .vexp2
  | 0x54, 1 => decPlain w .vlog2
  | 0x54, 2 => decPlain w .vrcp
  | 0x54, 3 => decPlain w .vrsqrt
  | 0x54, 4 => decPlain w .vtanh
  | 0x54, 5 => decPlain w .vsigm
  | 0x55, p => decPlain w (.vcmp (fld 4 p))
  | 0x56, 0 => decPlain w .vsel
  | 0x57, 0 => decPlain w .vperm
  | 0x57, 1 => decPlain w .vbcast
  | 0x57, 2 => decPlain w .vext
  | 0x58, 0 => decPlain w .vredsum
  | 0x58, 1 => decPlain w .vredprod
  | 0x58, 2 => decPlain w .vredmax
  | 0x58, 3 => decPlain w .vredmin
  | 0x58, 4 => decPlain w .vredargmax
  | 0x58, 5 => decPlain w .vredargmin
  | 0x59, 0 => decPlain w .vcvt
  | 0x5A, 0 => decPlain w .kand
  | 0x5A, 1 => decPlain w .kor
  | 0x5A, 2 => decPlain w .kxor
  | 0x5A, 3 => decPlain w .kandn
  | 0x5A, 4 => decPlain w .knot
  | 0x5A, 5 => decPlain w .kpop
  | 0x5B, 0 => decMem w .vld
  | 0x5B, 1 => decMem w .vst
  | 0x5C, 0 => decTile w .vldt
  | 0x5C, 1 => decTile w .vstt
  | 0x5D, 0 => decRow w .vrdf
  | 0x5D, 1 => decRow w .vwrf
  | 0x5E, 0 => decSetvl w
  | 0x5F, 0 => decVout w
  | 0x5F, 1 => decVsrd w
  | 0x5F, 2 => decRow w .vswr
  | 0x5F, 3 => decVsmrg w
  | 0x5F, 4 => decVsclf w
  | _, _ => none

/-- Scalar, branch and tile words (Table 9-14). -/
def decSalu (w : IWord) : Option Instr :=
  match fieldsOf w laySalu with
  | some [_, fn, sd, sa, sb, i, imm] => some (.salu ⟨fld 4 fn, fld 5 sd, fld 5 sa, fld 5 sb, flg i, fld 64 imm⟩)
  | _ => none

def decSread (w : IWord) : Option Instr :=
  match fieldsOf w laySread with
  | some [_, sel, sd] => some (.sread (fld 8 sel) (fld 5 sd))
  | _ => none

def decBr (w : IWord) : Option Instr :=
  match fieldsOf w layBr with
  | some [_, c, sa, sb, rt, st, tgt] => some (.br ⟨fld 3 c, fld 5 sa, fld 5 sb, flg rt, fld 5 st, fld 32 tgt⟩)
  | _ => none

def decSceneEnd (w : IWord) : Option Instr := (fieldsOf w layOpc).map fun _ => .sceneEnd

def decTcfg (w : IWord) : Option Instr :=
  match fieldsOf w layTcfg with
  | some [_, tt, sh, f] => some (.tcfg (fld 4 tt) (fld 3 sh) (fld 3 f))
  | _ => none

def decTrel (w : IWord) : Option Instr :=
  match fieldsOf w layTt with
  | some [_, tt] => some (.trel (fld 4 tt))
  | _ => none

def decTld (w : IWord) : Option Instr :=
  match fieldsOf w layTld with
  | some [_, tt, h, o, s, off, str] => some (.tld ⟨fld 4 tt, fld 6 h, flg o, flg s, fld 25 off, fld 26 str⟩)
  | _ => none

def decTst (w : IWord) : Option Instr :=
  match fieldsOf w layTst with
  | some [_, tt, h, o, s, off, str, df, sat] =>
    some (.tst ⟨fld 4 tt, fld 6 h, flg o, flg s, fld 25 off, fld 26 str⟩ (fld 3 df) (flg sat))
  | _ => none

/-- The image words that follow a DSTR, lowest first (10, R244). -/
def imageOf (n : Nat) : List IWord → Nat
  | [] => 0
  | w :: ws => if n = 0 then 0 else w.toNat + 2 ^ 128 * imageOf (n - 1) ws

/-- DSTR, with four image words, or one for an Aside transfer (Table 10-1). -/
def decDstr (w : IWord) (rest : List IWord) : Option (Instr × List IWord) :=
  match fieldsOf w layDstr with
  | some [_, slot, a, e0, i0, r0, e1, i1, r1, e2, i2, r2, e3, i3, r3] =>
    let p : Patches := ⟨⟨flg e0, fld 3 i0, fld 5 r0⟩, ⟨flg e1, fld 3 i1, fld 5 r1⟩, ⟨flg e2, fld 3 i2, fld 5 r2⟩,
      ⟨flg e3, fld 3 i3, fld 5 r3⟩⟩
    if a = 0 then
      if rest.length < 4 then none else some (.dstr (fld 6 slot) p (fld 512 (imageOf 4 rest)), rest.drop 4)
    else if slot ≠ 0 ∨ rest.length < 1 then none
    else some (.aside p (fld 128 (imageOf 1 rest)), rest.drop 1)
  | _ => none

def decCue (w : IWord) : Option Instr :=
  match fieldsOf w layCue with
  | some [_, slot, pr, p] => some (.cue (fld 6 slot) (flg pr) (fld 25 p))
  | _ => none

def decWaitq (w : IWord) : Option Instr :=
  match fieldsOf w layWaitq with
  | some [_, slot, hold] => some (.waitq (fld 6 slot) (fld 3 hold))
  | _ => none

def decRsend (w : IWord) : Option Instr :=
  match fieldsOf w layTt with
  | some [_, ta] => some (.rsend (fld 4 ta))
  | _ => none

def decRred (w : IWord) : Option Instr :=
  match fieldsOf w layRred with
  | some [_, op, sf, df, sh, dh, rid, soff, doff, lr, len] =>
    some (.rred ⟨fld 2 op, flg sf, flg df, fld 6 sh, fld 6 dh, fld 8 rid, fld 25 soff, fld 25 doff, flg lr, fld 24 len⟩)
  | _ => none

def decRroute (w : IWord) : Option Instr :=
  match fieldsOf w layRroute with
  | some [_, mr, fr, tx, rx] => some (.rroute ⟨fld 5 mr, fld 5 fr, fld 2 tx, fld 2 rx⟩)
  | _ => none

def decUpd (w : IWord) : Option Instr :=
  match fieldsOf w layUpd with
  | some [_, h, o, off, sd] => some (.upd ⟨fld 6 h, flg o, fld 25 off, fld 5 sd⟩)
  | _ => none

def decAtom (w : IWord) : Option Instr :=
  match fieldsOf w layAtom with
  | some [_, sa, sv, sc, sd, aop, sz, rls] => some (.atom ⟨fld 5 sa, fld 5 sv, fld 5 sc, fld 5 sd, fld 4 aop, flg sz, flg rls⟩)
  | _ => none

def decClaim (w : IWord) : Option Instr :=
  match fieldsOf w layClaim with
  | some [_, sa, se, sn, sd, lease] => some (.claim ⟨fld 5 sa, fld 5 se, fld 5 sn, fld 5 sd, fld 8 lease⟩)
  | _ => none

def decAcq (w : IWord) : Option Instr :=
  match fieldsOf w layAcq with
  | some [_, fa, fv, c, sd, rb, rn] => some (.acq ⟨fld 5 fa, fld 5 fv, fld 2 c, fld 5 sd, fld 5 rb, fld 5 rn⟩)
  | _ => none

def decRel (w : IWord) : Option Instr :=
  match fieldsOf w layRel with
  | some [_, fa, fv, add, sd] => some (.rel ⟨fld 5 fa, fld 5 fv, flg add, fld 5 sd⟩)
  | _ => none

/-- The instructions of one word, by OPC. -/
def decOne (w : IWord) : Option Instr :=
  match bvGet w 0 8 with
  | 0x10 => decSalu w
  | 0x12 => decSread w
  | 0x18 => decBr w
  | 0x1F => decSceneEnd w
  | 0x20 => decTcfg w
  | 0x21 => decTrel w
  | 0x22 => decTld w
  | 0x23 => decTst w
  | 0x41 => decMmv w
  | 0x61 => decCue w
  | 0x62 => decWaitq w
  | 0x64 => decRsend w
  | 0x65 => decRred w
  | 0x68 => decRroute w
  | 0x6A => decUpd w
  | 0x6C => decAtom w
  | 0x6D => decClaim w
  | 0x6E => decAcq w
  | 0x6F => decRel w
  | opc => if 0x50 ≤ opc ∧ opc ≤ 0x5F then decGroup w opc (bvGet w 8 4) else none

/-- Decoding of the first instruction of a list of code words, and the words after it; none for an OPC that no chapter
assigns, a nonzero reserved bit, or missing words (09, R216, R459). Well-formedness of the fields is `Instr.wf`. -/
def decode : List IWord → Option (Instr × List IWord)
  | [] => none
  | w :: rest =>
    if bvGet w 0 8 = 0x40 then decMma w rest
    else if bvGet w 0 8 = 0x60 then decDstr w rest
    else (decOne w).map fun i => (i, rest)

/-- The code words that an instruction takes, by its first word: two of an MMA with ST 1, five of a DSTR, two of a DSTR on
the Aside path, otherwise one (06 Table 6-1, 10 R244). -/
def wordCount (w : IWord) : Nat :=
  if bvGet w 0 8 = 0x40 then 1 + bvGet w 95 1
  else if bvGet w 0 8 = 0x60 then (if bvGet w 14 1 = 1 then 2 else 5)
  else 1

/-- Decoding and well-formedness together: the row-3 check of Table 9-10. -/
def decodeWf (ws : List IWord) : Option (Instr × List IWord) :=
  match decode ws with
  | some (i, rest) => if i.wf then some (i, rest) else none
  | none => none

/-- The command that a word of the opcode table spells: the table gives no row any bits. -/
def decodeTableWord (_nbits _w : Nat) : Option Instr := none

/-! ## Encoding -/

def vecFields (opc fn : Nat) (w : VecWord) : List Nat :=
  [opc, fn, w.t.toNat, w.t2.toNat, w.vd.toNat, w.va.toNat, w.vb.toNat, w.vc.toNat, w.km.toNat, bit w.mz, w.rm.toNat,
   bit w.sat]

/-- One word of a vector instruction with its extension's fields. -/
def encVec (lay : List (Nat × Nat)) (opc fn : Nat) (w : VecWord) (ext : List Nat) : List IWord :=
  [fld 128 (wordOf lay (vecFields opc fn w ++ ext))]

def encStore (s : StoreWord) : IWord :=
  fld 128 (wordOf layStore [s.sh.toNat, bit s.sor, bit s.ssr, s.soff.toNat, s.sstr.toNat, s.ofmt.toNat, bit s.sat,
    bit s.scl, s.sa.toNat, s.sb.toNat, bit s.dest])

def encMma (w : MmaWord) : List IWord :=
  fld 128 (wordOf layMma [0x40, bit w.ovw, bit w.src, w.ta.toNat, w.shape.toNat, w.afmt.toNat, w.wfmt.toNat,
      w.narr.toNat, w.frb.toNat, w.wh.toNat, bit w.wor, bit w.wsr, w.woff.toNat, w.wstr.toNat, bit w.store.isSome])
    :: match w.store with
       | some s => [encStore s]
       | none => []

def patchFields (p : Patches) : List Nat :=
  [bit p.pt0.en, p.pt0.idx.toNat, p.pt0.reg.toNat, bit p.pt1.en, p.pt1.idx.toNat, p.pt1.reg.toNat, bit p.pt2.en,
   p.pt2.idx.toNat, p.pt2.reg.toNat, bit p.pt3.en, p.pt3.idx.toNat, p.pt3.reg.toNat]

/-- `n` image words of a number, lowest first. -/
def imageWords : Nat → Nat → List IWord
  | 0, _ => []
  | n + 1, v => fld 128 v :: imageWords n (v / 2 ^ 128)

def encOf (lay : List (Nat × Nat)) (vs : List Nat) : List IWord := [fld 128 (wordOf lay vs)]

def memFields (m : VecMem) : List Nat := [m.h.toNat, bit m.or_, bit m.sr, m.off.toNat, m.str.toNat]

def tileFields (m : TileMem) : List Nat := [m.tt.toNat, m.h.toNat, bit m.or_, bit m.sr, m.off.toNat, m.str.toNat]

def rowFields (r : RowOp) : List Nat := [r.row.toNat, bit r.rr]

/-- The code words of a tile-program instruction; no words for any other command. -/
def encode : Instr → List IWord
  | .mma w => encMma w
  | .mmv w => encOf layMmv [0x41, bit w.ovw, bit w.dv, w.ta.toNat, w.shape.toNat, w.fmt.toNat, w.mm.toNat, w.ns.toNat,
      w.dst.toNat, w.wh.toNat, bit w.wor, bit w.wsr, w.woff.toNat, w.wstr.toNat, w.srow.toNat, w.kb.toNat]
  | .vadd w => encVec layVec 0x50 0 w []
  | .vsub w => encVec layVec 0x50 1 w []
  | .vmul w => encVec layVec 0x50 2 w []
  | .vdiv w => encVec layVec 0x50 3 w []
  | .vmin w => encVec layVec 0x50 4 w []
  | .vmax w => encVec layVec 0x50 5 w []
  | .vfma w => encVec layVec 0x51 0 w []
  | .vfms w => encVec layVec 0x51 1 w []
  | .vfnma w => encVec layVec 0x51 2 w []
  | .vfnms w => encVec layVec 0x51 3 w []
  | .vsqrt w => encVec layVec 0x52 0 w []
  | .vabs w => encVec layVec 0x52 1 w []
  | .vneg w => encVec layVec 0x52 2 w []
  | .vcpys w => encVec layVec 0x52 3 w []
  | .vand w => encVec layVec 0x53 0 w []
  | .vor w => encVec layVec 0x53 1 w []
  | .vxor w => encVec layVec 0x53 2 w []
  | .vsll w => encVec layVec 0x53 3 w []
  | .vsrl w => encVec layVec 0x53 4 w []
  | .vsra w => encVec layVec 0x53 5 w []
  | .vexp2 w => encVec layVec 0x54 0 w []
  | .vlog2 w => encVec layVec 0x54 1 w []
  | .vrcp w => encVec layVec 0x54 2 w []
  | .vrsqrt w => encVec layVec 0x54 3 w []
  | .vtanh w => encVec layVec 0x54 4 w []
  | .vsigm w => encVec layVec 0x54 5 w []
  | .vcmp p w => encVec layVec 0x55 p.toNat w []
  | .vsel w => encVec layVec 0x56 0 w []
  | .vperm w => encVec layVec 0x57 0 w []
  | .vbcast w => encVec layVec 0x57 1 w []
  | .vext w => encVec layVec 0x57 2 w []
  | .vredsum w => encVec layVec 0x58 0 w []
  | .vredprod w => encVec layVec 0x58 1 w []
  | .vredmax w => encVec layVec 0x58 2 w []
  | .vredmin w => encVec layVec 0x58 3 w []
  | .vredargmax w => encVec layVec 0x58 4 w []
  | .vredargmin w => encVec layVec 0x58 5 w []
  | .vcvt w => encVec layVec 0x59 0 w []
  | .kand w => encVec layVec 0x5A 0 w []
  | .kor w => encVec layVec 0x5A 1 w []
  | .kxor w => encVec layVec 0x5A 2 w []
  | .kandn w => encVec layVec 0x5A 3 w []
  | .knot w => encVec layVec 0x5A 4 w []
  | .kpop w => encVec layVec 0x5A 5 w []
  | .vld w m => encVec layVecMem 0x5B 0 w (memFields m)
  | .vst w m => encVec layVecMem 0x5B 1 w (memFields m)
  | .vldt w x => encVec layVecTile 0x5C 0 w [x.tt.toNat, x.lp.toNat]
  | .vstt w x => encVec layVecTile 0x5C 1 w [x.tt.toNat, x.lp.toNat]
  | .vrdf w r => encVec layRow 0x5D 0 w (rowFields r)
  | .vwrf w r => encVec layRow 0x5D 1 w (rowFields r)
  | .setvl w x => encVec laySetvl 0x5E 0 w [x.imm.toNat, bit x.vs, x.ss.toNat, x.sd.toNat]
  | .vout w x => encVec layVout 0x5F 0 w [x.dk.toNat, x.h.toNat, x.tt.toNat, bit x.or_, x.off.toNat]
  | .vsrd w r x => encVec layVsrd 0x5F 1 w (rowFields r ++ [bit x.fin, x.nb.toNat])
  | .vswr w r => encVec layRow 0x5F 2 w (rowFields r)
  | .vsmrg w r x => encVec layVsmrg 0x5F 3 w (rowFields r ++ [x.mode.toNat, x.wi.toNat, bit x.inc])
  | .vsclf w r x => encVec layVsclf 0x5F 4 w (rowFields r ++ [x.nr.toNat, x.ws.toNat, x.am.toNat])
  | .salu w => encOf laySalu [0x10, w.fn.toNat, w.sd.toNat, w.sa.toNat, w.sb.toNat, bit w.i, w.imm.toNat]
  | .sread sel sd => encOf laySread [0x12, sel.toNat, sd.toNat]
  | .br w => encOf layBr [0x18, w.cond.toNat, w.sa.toNat, w.sb.toNat, bit w.rt, w.st.toNat, w.tgt.toNat]
  | .sceneEnd => encOf layOpc [0x1F]
  | .tcfg tt sh f => encOf layTcfg [0x20, tt.toNat, sh.toNat, f.toNat]
  | .trel tt => encOf layTt [0x21, tt.toNat]
  | .tld m => encOf layTld (0x22 :: tileFields m)
  | .tst m df sat => encOf layTst (0x23 :: tileFields m ++ [df.toNat, bit sat])
  | .dstr slot p img => encOf layDstr (0x60 :: slot.toNat :: 0 :: patchFields p) ++ imageWords 4 img.toNat
  | .aside p img => encOf layDstr (0x60 :: 0 :: 1 :: patchFields p) ++ imageWords 1 img.toNat
  | .cue slot pr p => encOf layCue [0x61, slot.toNat, bit pr, p.toNat]
  | .waitq slot hold => encOf layWaitq [0x62, slot.toNat, hold.toNat]
  | .rsend ta => encOf layTt [0x64, ta.toNat]
  | .rred w => encOf layRred [0x65, w.op.toNat, bit w.sf, bit w.df, w.sh.toNat, w.dh.toNat, w.rid.toNat, w.soff.toNat,
      w.doff.toNat, bit w.lr, w.len.toNat]
  | .rroute w => encOf layRroute [0x68, w.mr.toNat, w.fr.toNat, w.txch.toNat, w.rxch.toNat]
  | .upd w => encOf layUpd [0x6A, w.h.toNat, bit w.or_, w.off.toNat, w.sd.toNat]
  | .atom w => encOf layAtom [0x6C, w.sa.toNat, w.sv.toNat, w.sc.toNat, w.sd.toNat, w.aop.toNat, bit w.sz, bit w.rls]
  | .claim w => encOf layClaim [0x6D, w.sa.toNat, w.se.toNat, w.sn.toNat, w.sd.toNat, w.lease.toNat]
  | .acq w => encOf layAcq [0x6E, w.fa.toNat, w.fv.toNat, w.cond.toNat, w.sd.toNat, w.rb.toNat, w.rn.toNat]
  | .rel w => encOf layRel [0x6F, w.fa.toNat, w.fv.toNat, bit w.add, w.sd.toNat]
  | _ => []

end Sys2Proof
end

