-- ==== Sys2Proof/Machine/Crypto.lean ====
section
/-! DEFINITION. The standards that the configuration image rests on (16, R395, R396): SHA-384 (FIPS 180-4) and ECDSA over P-384
(FIPS 186-5). PRESUMED, log 21: the spec names the standards and does not restate them. -/

namespace Sys2Proof.Machine

open Sys2Proof

/-! ## SHA-384 -/

/-- The integer `k`-th root of `n`, from bit `b - 1` down, above `r`. -/
def rootBits (k n : Nat) : Nat → Nat → Nat
  | 0, r => r
  | b + 1, r => rootBits k n b (if (r + 2 ^ b) ^ k ≤ n then r + 2 ^ b else r)

/-- The first 80 primes. -/
def shaPrimes : List Nat :=
  (List.range 410).filter fun n => decide (2 ≤ n) && (List.range 21).all fun d => d < 2 || n % d != 0 || n == d

/-- Round constants: 64 bits of the fractional parts of the cube roots of the first 80 primes. -/
def shaK : List DWord := shaPrimes.map fun p => BitVec.ofNat 64 (rootBits 3 (p * 2 ^ 192) 68 0)

/-- Initial hash value: 64 bits of the fractional parts of the square roots of the ninth to sixteenth primes. -/
def shaInit : List DWord :=
  ((shaPrimes.drop 8).take 8).map fun p => BitVec.ofNat 64 (rootBits 2 (p * 2 ^ 128) 68 0)

/-- The eight working variables. -/
structure ShaState where
  a : DWord
  b : DWord
  c : DWord
  d : DWord
  e : DWord
  f : DWord
  g : DWord
  h : DWord
deriving DecidableEq, Repr, Inhabited

/-- One round with `k + w`. -/
def shaRound (x : ShaState) (kw : DWord) : ShaState :=
  let s1 := x.e.rotateRight 14 ^^^ x.e.rotateRight 18 ^^^ x.e.rotateRight 41
  let ch := (x.e &&& x.f) ^^^ (~~~x.e &&& x.g)
  let t1 := x.h + s1 + ch + kw
  let s0 := x.a.rotateRight 28 ^^^ x.a.rotateRight 34 ^^^ x.a.rotateRight 39
  let mj := (x.a &&& x.b) ^^^ (x.a &&& x.c) ^^^ (x.b &&& x.c)
  ⟨t1 + s0 + mj, x.a, x.b, x.c, x.d + t1, x.e, x.f, x.g⟩

/-- The rounds of one block: `win` holds the sixteen schedule words from this round on. -/
def shaRounds : List DWord → List DWord → ShaState → ShaState
  | [], _, x => x
  | k :: ks, win, x =>
    let w := fun i => win.getD i (0 : DWord)
    let r0 := (w 1).rotateRight 1 ^^^ (w 1).rotateRight 8 ^^^ w 1 >>> 7
    let r1 := (w 14).rotateRight 19 ^^^ (w 14).rotateRight 61 ^^^ w 14 >>> 6
    shaRounds ks (win.drop 1 ++ [r1 + w 9 + r0 + w 0]) (shaRound x (k + w 0))

/-- A byte string as a number, most significant byte first. -/
def beNat (bs : List Byte) : Nat := bs.foldl (fun n b => n * 256 + b.toNat) 0

/-- A number as `n` bytes, most significant byte first. -/
def beBytes (n v : Nat) : List Byte := (natBytes n v).reverse

/-- One block of 128 bytes. -/
def shaBlock (ks : List DWord) (x : ShaState) (blk : List Byte) : ShaState :=
  let y := shaRounds ks (tabulate 16 fun i => BitVec.ofNat 64 (beNat ((blk.drop (8 * i)).take 8))) x
  ⟨x.a + y.a, x.b + y.b, x.c + y.c, x.d + y.d, x.e + y.e, x.f + y.f, x.g + y.g, x.h + y.h⟩

/-- The blocks of a padded message. -/
def shaBlocks (ks : List DWord) : Nat → List Byte → ShaState → ShaState
  | 0, _, x => x
  | _, [], x => x
  | n + 1, bs, x => shaBlocks ks n (bs.drop 128) (shaBlock ks x (bs.take 128))

/-- The SHA-384 digest: 48 bytes. -/
def sha384 (msg : List Byte) : List Byte :=
  let n := msg.length
  let pad := (128 - (n + 17) % 128) % 128
  let m := msg ++ [0x80] ++ List.replicate pad 0 ++ beBytes 16 (8 * n)
  let i := fun k => shaInit.getD k 0
  let x := shaBlocks shaK (m.length / 128) m ⟨i 0, i 1, i 2, i 3, i 4, i 5, i 6, i 7⟩
  [x.a, x.b, x.c, x.d, x.e, x.f].flatMap fun w => beBytes 8 w.toNat

/-! ## P-384 -/

def p384P : Nat := 2 ^ 384 - 2 ^ 128 - 2 ^ 96 + 2 ^ 32 - 1
def p384B : Nat :=
  0xb3312fa7e23ee7e4988e056be3f82d19181d9c6efe8141120314088f5013875ac656398d8a2ed19d2a85c8edd3ec2aef
def p384N : Nat :=
  0xffffffffffffffffffffffffffffffffffffffffffffffffc7634d81f4372ddf581a0db248b0a77aecec196accc52973
def p384G : Nat × Nat :=
  (0xaa87ca22be8b05378eb1c71ef320ad746e1d3b628ba79b9859f741e082542a385502f25dbf55296c3a545e3872760ab7,
   0x3617de4a96262c6f5d9e98bf9292dc29f8f41dbd289a147ce9da3113b5f0b8c00a60b1ce1d7e819d7a431d7c90ea0e5f)

/-- `b ^ e` modulo `m`, over the low `n` bits of `e`. -/
def powMod (m : Nat) : Nat → Nat → Nat → Nat
  | 0, _, _ => 1 % m
  | n + 1, b, e => if e % 2 = 1 then b * powMod m n (b * b % m) (e / 2) % m else powMod m n (b * b % m) (e / 2)

/-- The inverse of `a` modulo a prime of 384 bits. -/
def invMod (m a : Nat) : Nat := powMod m 384 (a % m) (m - 2)

/-- A point of the curve; none is the point at infinity. -/
abbrev Point := Option (Nat × Nat)

/-- The third point of a line of slope `lam` through two points, reflected. -/
def chord (lam x1 y1 x2 : Nat) : Point :=
  let p := p384P
  let x3 := (lam * lam + 2 * p - x1 - x2) % p
  some (x3, (lam * (x1 + p - x3) + p - y1) % p)

def pointAdd (a b : Point) : Point :=
  match a, b with
  | none, q => q
  | q, none => q
  | some (x1, y1), some (x2, y2) =>
    let p := p384P
    if x1 = x2 then
      if (y1 + y2) % p = 0 then none
      else chord ((3 * x1 * x1 + p - 3) * invMod p (2 * y1) % p) x1 y1 x2
    else chord ((y2 + p - y1) * invMod p (x2 + p - x1) % p) x1 y1 x2

/-- `k` times a point, over the low `n` bits of `k`. -/
def pointMul : Nat → Nat → Point → Point
  | 0, _, _ => none
  | n + 1, k, q =>
    if k % 2 = 1 then pointAdd q (pointMul n (k / 2) (pointAdd q q)) else pointMul n (k / 2) (pointAdd q q)

/-- ECDSA verification of a digest under a public key X, Y and a signature r, s, each 48 bytes (R395). -/
def ecdsaVerify (key digest sig : List Byte) : Bool :=
  let p := p384P
  let n := p384N
  let x := beNat (key.take 48)
  let y := beNat ((key.drop 48).take 48)
  let r := beNat (sig.take 48)
  let s := beNat ((sig.drop 48).take 48)
  let w := invMod n s
  let u := pointAdd (pointMul 384 (beNat digest * w % n) (some p384G)) (pointMul 384 (r * w % n) (some (x, y)))
  decide (x < p) && decide (y < p) && decide (y * y % p = (x * x * x + (p - 3) * x + p384B) % p)
    && decide (0 < r) && decide (r < n) && decide (0 < s) && decide (s < n)
    && (match u with
        | some v => v.1 % n == r
        | none => false)

end Sys2Proof.Machine
end

