-- ==== Sys2Proof/Config.lean ====
section
/-! DEFINITION. What one implementation fixes: the stepping (00_scope.md, R1, R2), and the free values the spec leaves
open: results within bounds (07_vector_engine.md, R170, R171), contents it does not give, and when storage errors arise
(14_checking_replay_withdrawal.md, R350). -/

namespace Sys2Proof

/-- The two covered steppings (R1). -/
inductive Stepping where
  | b1
  | c0
deriving DecidableEq, Repr, Inhabited

/-- The transcendental functions of the vector engine (07 Table 7-6). -/
inductive TransFn where
  | exp2
  | log2
  | rcp
  | rsqrt
  | tanh
  | sigm
deriving DecidableEq, Repr, Inhabited

/-- The stepping of this part: nothing in the model chooses one (log 19). -/
opaque Config.stepping : Stepping

/-- FREE VALUE (log 7): the bits the part returns for a transcendental result that Table 7-6 only bounds. R171 says
they are a fixed function of the operand bits. `transResult` uses them where they lie within the bound. -/
opaque Config.transcendental : TransFn → Word → Word

/-- FREE VALUE (log 25): the word that the n-th debug read of control SRAM returns. The spec gives the control SRAM no
contents. -/
opaque Config.sramWord : Nat → BitVec 16 → Word

/-- FREE VALUE (log 11): the weight codes that background load `k` of the MMA of program order `seq` brings to row `row` of
array `arr`, an array that the MMA does not use: R103 and R105 load all four arrays, and no rule says from where. -/
opaque Config.idleWeights (seq k arr row : Nat) : BitVec 4096

/-- FREE VALUE (log 22): the 256 data bytes of the Stage Door flit that carries a message, given the items of the message: the
spec gives the payloads of Table 11-6 no layout. -/
opaque Config.stageData : List Nat → BitVec 2048

/-- A storage error as it arises (14 Table 14-1, Sources 3 to 7 and 9): which storage by its Source, where in it, whether
it can be corrected, and the bits of stored data that an error that cannot be corrected has changed. -/
structure Upset where
  src   : Nat
  a     : Nat
  b     : Nat
  hard  : Bool
  flips : Nat
deriving DecidableEq, Repr, Inhabited

/-- FREE VALUE (log 16): the storage error, if any, that arises in the n-th quiet cycle. -/
opaque Config.upset : Nat → Option Upset

end Sys2Proof
end

