-- ==== Sys2Proof/Machine/Float.lean ====
section
/-! DEFINITION. Number formats, rounding, IEEE arithmetic and conversion (spec/03_number_formats.md, R43 to R74;
07_vector_engine.md, R167 to R172). Codes are naturals; values are exact dyadic numbers. -/

namespace Sys2Proof.Machine

/-- Rounding modes, Table 3-5 (R49). -/
inductive Rm where
  | rne
  | rtz
  | rdn
  | rup
deriving DecidableEq, Repr, Inhabited

/-- The mode that an RM field names (Table 3-5). -/
def rmOf (b : BitVec 2) : Rm :=
  match b.toNat with
  | 0 => .rne
  | 1 => .rtz
  | 2 => .rdn
  | _ => .rup

/-- The formats of Table 3-1. -/
inductive Fmt where
  | fp32
  | int32
  | bf16
  | fp16
  | e4m3
  | e5m2
  | f4
  | int8
  | fp64
deriving DecidableEq, Repr, Inhabited

/-- The format of a code of Table 4-2 or Table 7-1; codes 9 to 15 are illegal. -/
def fmtOf (c : Nat) : Option Fmt :=
  match c with
  | 0 => some .fp32
  | 1 => some .int32
  | 2 => some .bf16
  | 3 => some .fp16
  | 4 => some .e4m3
  | 5 => some .e5m2
  | 6 => some .f4
  | 7 => some .int8
  | 8 => some .fp64
  | _ => none

/-- Width in bits (Table 7-1). -/
def fmtBits : Fmt → Nat
  | .fp64 => 64
  | .fp32 => 32
  | .int32 => 32
  | .bf16 => 16
  | .fp16 => 16
  | .e4m3 => 8
  | .e5m2 => 8
  | .int8 => 8
  | .f4 => 4

/-- Integer formats (R44). -/
def fmtIsInt : Fmt → Bool
  | .int8 => true
  | .int32 => true
  | _ => false

/-- Trailing significand bits (Table 3-2). -/
def fmtM : Fmt → Nat
  | .fp64 => 52
  | .fp32 => 23
  | .bf16 => 7
  | .fp16 => 10
  | .e4m3 => 3
  | .e5m2 => 2
  | .f4 => 1
  | _ => 0

/-- Exponent bits (Table 3-2). -/
def fmtE : Fmt → Nat
  | .fp64 => 11
  | .fp32 => 8
  | .bf16 => 8
  | .fp16 => 5
  | .e4m3 => 4
  | .e5m2 => 5
  | .f4 => 2
  | _ => 0

/-- Bias (Table 3-2). -/
def fmtBias : Fmt → Nat
  | .fp64 => 1023
  | .fp32 => 127
  | .bf16 => 127
  | .fp16 => 15
  | .e4m3 => 7
  | .e5m2 => 15
  | .f4 => 1
  | _ => 0

/-- The exponent of the least significant bit of a subnormal: `1 - bias - m` (R44). -/
def fmtQmin (f : Fmt) : Int := 1 - (fmtBias f : Int) - (fmtM f : Int)

/-- Code of the largest finite magnitude (Table 3-2). -/
def fmtMaxCode : Fmt → Nat
  | .fp64 => 0x7FEFFFFFFFFFFFFF
  | .fp32 => 0x7F7FFFFF
  | .bf16 => 0x7F7F
  | .fp16 => 0x7BFF
  | .e4m3 => 0x7E
  | .e5m2 => 0x7B
  | .f4 => 0x7
  | .int8 => 0x7F
  | .int32 => 0x7FFFFFFF

/-- Code of +infinity, for the formats that have one (Table 3-3). -/
def fmtInf : Fmt → Option Nat
  | .fp64 => some 0x7FF0000000000000
  | .fp32 => some 0x7F800000
  | .bf16 => some 0x7F80
  | .fp16 => some 0x7C00
  | .e5m2 => some 0x7C
  | _ => none

/-- The canonical NaN (Table 3-3). -/
def fmtNan : Fmt → Nat
  | .fp64 => 0x7FF8000000000000
  | .fp32 => 0x7FC00000
  | .bf16 => 0x7FC0
  | .fp16 => 0x7E00
  | .e4m3 => 0x7F
  | .e5m2 => 0x7E
  | .f4 => 0x8
  | _ => 0

/-- The sign bit of a code. -/
def fmtSign (f : Fmt) : Nat := 2 ^ (fmtBits f - 1)

/-- Sticky flags in the bit order of Table 3-8: [0] OVERFLOW, [1] UNDERFLOW, [2] INEXACT, [3] INVALID. -/
abbrev Flags := BitVec 4

def flOverflow : Flags := 1
def flUnderflow : Flags := 2
def flInexact : Flags := 4
def flInvalid : Flags := 8

/-- A flag raised under a condition. -/
def flagIf (b : Bool) (f : Flags) : Flags := if b then f else 0

/-- A decoded floating-point code: a NaN (quiet or signalling), an infinity, or the finite value
`(-1)^neg * m * 2^e` with its sign kept for zeros (R44, R45). -/
inductive FVal where
  | nan (quiet : Bool)
  | inf (neg : Bool)
  | fin (neg : Bool) (m : Nat) (e : Int)
deriving DecidableEq, Repr, Inhabited

/-- Decoding of a code (R44, R45, Tables 3-2 to 3-4). Integer formats decode to their exact value. -/
def fpDecode (f : Fmt) (c : Nat) : FVal :=
  let w := fmtBits f
  let neg := c / 2 ^ (w - 1) % 2 == 1
  if fmtIsInt f then
    .fin neg (if neg then 2 ^ w - c else c) 0
  else
    let mb := fmtM f
    let ef := c / 2 ^ mb % 2 ^ fmtE f
    let mf := c % 2 ^ mb
    if f = .f4 ∧ c = 8 then .nan true
    else if f = .e4m3 ∧ ef = 15 ∧ mf = 7 then .nan true
    else if f ≠ .f4 ∧ f ≠ .e4m3 ∧ ef = 2 ^ fmtE f - 1 then
      if mf = 0 then .inf neg else .nan (mf / 2 ^ (mb - 1) % 2 == 1)
    else if ef = 0 then .fin neg mf (fmtQmin f)
    else .fin neg (2 ^ mb + mf) (fmtQmin f + (ef - 1 : Nat))

/-- Rounding of `m * 2^e` to a multiple of `2^q`: the multiple and whether it is inexact (R48 to R50). -/
def roundAt (rm : Rm) (neg : Bool) (m : Nat) (e q : Int) : Nat × Bool :=
  if q ≤ e then (m * 2 ^ (e - q).toNat, false)
  else
    let d := (q - e).toNat
    let lo := m / 2 ^ d
    let rem := m % 2 ^ d
    let half := 2 ^ (d - 1)
    let up := match rm with
      | .rne => half < rem || (rem == half && lo % 2 == 1)
      | .rtz => false
      | .rdn => neg && rem != 0
      | .rup => !neg && rem != 0
    (lo + (if up then 1 else 0), rem != 0)

/-- How a finite overflow is delivered: IEEE result for the mode, or saturation (R58, R59). -/
inductive OvKind where
  | ieee
  | sat
deriving DecidableEq, Repr, Inhabited

/-- Whether an IEEE overflow is delivered as an infinity in this mode (R58). -/
def ovToInf (rm : Rm) (neg : Bool) : Bool :=
  match rm with
  | .rne => true
  | .rtz => false
  | .rdn => neg
  | .rup => !neg

/-- Rounding of a nonzero finite value `(-1)^neg * m * 2^e` into a floating-point format, with flags
(R48 to R50, R57 to R61). Tininess is detected after rounding. -/
def fpRound (f : Fmt) (rm : Rm) (ov : OvKind) (neg : Bool) (m : Nat) (e : Int) : Nat × Flags :=
  let mb := fmtM f
  let sg := if neg then fmtSign f else 0
  if m = 0 then (if f = .f4 then 0 else sg, 0)
  else
    let q1 := (Nat.log2 m : Int) + e - (mb : Int)
    let r1 := (roundAt rm neg m e q1).1
    -- magnitude with unbounded exponent, as a code continued past the largest finite one
    let u : Int := (q1 - fmtQmin f) * 2 ^ mb + r1
    let q := max q1 (fmtQmin f)
    let (r, inex) := roundAt rm neg m e q
    let code := ((q - fmtQmin f) * 2 ^ mb + r).toNat
    if (fmtMaxCode f : Int) < u then
      let c := match ov with
        | .sat => fmtMaxCode f + sg
        | .ieee =>
          if ovToInf rm neg then
            match fmtInf f with
            | some i => i + sg
            | none => fmtNan f
          else fmtMaxCode f + sg
      (c, flOverflow ||| flInexact)
    else
      let tiny := u < (2 ^ mb : Nat)
      let fl := flagIf inex flInexact ||| flagIf (inex && tiny) flUnderflow
      if f = .f4 ∧ code = 0 then (0, fl) else (code + sg, fl)

/-! ## Exact dyadic numbers -/

/-- An exact dyadic number `m * 2^e` (R63: sums of products are exact before their one rounding). -/
structure Dy where
  m : Int
  e : Int
deriving DecidableEq, Repr, Inhabited

def dyZero : Dy := ⟨0, 0⟩

def dyAdd (a b : Dy) : Dy :=
  let k := min a.e b.e
  ⟨a.m * 2 ^ (a.e - k).toNat + b.m * 2 ^ (b.e - k).toNat, k⟩

def dyNeg (a : Dy) : Dy := ⟨-a.m, a.e⟩

def dyMul (a b : Dy) : Dy := ⟨a.m * b.m, a.e + b.e⟩

def dyAbs (a : Dy) : Dy := ⟨a.m.natAbs, a.e⟩

/-- `a ≤ b` on exact dyadics. -/
def dyLe (a b : Dy) : Bool := decide ((dyAdd b (dyNeg a)).m ≥ 0)

def dyLt (a b : Dy) : Bool := decide ((dyAdd b (dyNeg a)).m > 0)

def dyOfFin (neg : Bool) (m : Nat) (e : Int) : Dy := ⟨if neg then -(m : Int) else m, e⟩

def dyOfInt (i : Int) : Dy := ⟨i, 0⟩

/-- Rounding of an exact dyadic into a format; an exact zero takes the sign given. -/
def dyRound (f : Fmt) (rm : Rm) (ov : OvKind) (zeroNeg : Bool) (a : Dy) : Nat × Flags :=
  if a.m = 0 then (if zeroNeg ∧ f ≠ .f4 then fmtSign f else 0, 0)
  else fpRound f rm ov (a.m < 0) a.m.natAbs a.e

/-! ## IEEE arithmetic (R51) -/

/-- A NaN operand returned with its sign and payload and the quiet bit set (R51). -/
def fpQuiet (f : Fmt) (c : Nat) : Nat := if c / 2 ^ (fmtM f - 1) % 2 = 1 then c else c + 2 ^ (fmtM f - 1)

def fpIsNan (f : Fmt) (c : Nat) : Bool :=
  match fpDecode f c with
  | .nan _ => true
  | _ => false

def fpIsSnan (f : Fmt) (c : Nat) : Bool :=
  match fpDecode f c with
  | .nan q => !q
  | _ => false

/-- Neither infinite nor NaN. -/
def fpIsFinite (f : Fmt) (c : Nat) : Bool :=
  match fpDecode f c with
  | .fin _ _ _ => true
  | _ => false

def fpIsZero (f : Fmt) (c : Nat) : Bool :=
  match fpDecode f c with
  | .fin _ m _ => m == 0
  | _ => false

def fpNegBit (f : Fmt) (c : Nat) : Bool := c / fmtSign f % 2 == 1

/-- The code with its sign bit inverted (R168). -/
def fpNegate (f : Fmt) (c : Nat) : Nat := if fpNegBit f c then c - fmtSign f else c + fmtSign f

/-- The code with its sign bit cleared (R168). -/
def fpAbs (f : Fmt) (c : Nat) : Nat := if fpNegBit f c then c - fmtSign f else c

/-- The code of an infinity of the given sign. -/
def fpInfCode (f : Fmt) (neg : Bool) : Nat :=
  (match fmtInf f with
   | some i => i
   | none => fmtNan f) + (if neg then fmtSign f else 0)

/-- The NaN rule of R51 over the operands in order: the first NaN, quieted; INVALID if any is signalling. -/
def fpNanOf (f : Fmt) (cs : List Nat) : Option (Nat × Flags) :=
  match cs.find? (fpIsNan f) with
  | some c => some (fpQuiet f c, flagIf (cs.any (fpIsSnan f)) flInvalid)
  | none => none

/-- Sign of an exact zero sum: the common sign of two zeros, otherwise minus only under RDN (IEEE 754). -/
def zeroSumNeg (rm : Rm) (xn yn : Bool) : Bool := if xn = yn then xn else rm = .rdn

/-- Sum of two operands that are not NaN, given as decoded values (IEEE 754 addition). -/
def fpAddVal (f : Fmt) (rm : Rm) (a b : FVal) : Nat × Flags :=
  match a, b with
  | .inf x, .inf y => if x = y then (fpInfCode f x, 0) else (fmtNan f, flInvalid)
  | .inf x, _ => (fpInfCode f x, 0)
  | _, .inf y => (fpInfCode f y, 0)
  | .fin xn xm xe, .fin yn ym ye =>
    dyRound f rm .ieee (zeroSumNeg rm xn yn) (dyAdd (dyOfFin xn xm xe) (dyOfFin yn ym ye))
  | _, _ => (fmtNan f, 0)

/-- `a + b` (R51, R167). -/
def fpAdd (f : Fmt) (rm : Rm) (a b : Nat) : Nat × Flags :=
  match fpNanOf f [a, b] with
  | some r => r
  | none => fpAddVal f rm (fpDecode f a) (fpDecode f b)

/-- `a - b`: the second operand's sign is inverted unless it is NaN (R51, R167). -/
def fpSub (f : Fmt) (rm : Rm) (a b : Nat) : Nat × Flags :=
  match fpNanOf f [a, b] with
  | some r => r
  | none => fpAddVal f rm (fpDecode f a) (fpDecode f (fpNegate f b))

/-- The product of two operands that are not NaN: none when it is 0 times infinity. -/
def fpMulVal (a b : FVal) : Option FVal :=
  match a, b with
  | .inf x, .inf y => some (.inf (x != y))
  | .inf x, .fin y m _ => if m = 0 then none else some (.inf (x != y))
  | .fin x m _, .inf y => if m = 0 then none else some (.inf (x != y))
  | .fin x m e, .fin y n g => some (.fin (x != y) (m * n) (e + g))
  | _, _ => none

/-- Rounding of a decoded value into a format under IEEE rules. -/
def fpOfVal (f : Fmt) (rm : Rm) (v : FVal) : Nat × Flags :=
  match v with
  | .nan _ => (fmtNan f, 0)
  | .inf n => (fpInfCode f n, 0)
  | .fin n m e => fpRound f rm .ieee n m e

/-- `a * b` (R51, R167). -/
def fpMul (f : Fmt) (rm : Rm) (a b : Nat) : Nat × Flags :=
  match fpNanOf f [a, b] with
  | some r => r
  | none =>
    match fpMulVal (fpDecode f a) (fpDecode f b) with
    | none => (fmtNan f, flInvalid)
    | some v => fpOfVal f rm v

/-- The sign of an FVal. -/
def fvNeg : FVal → Bool
  | .nan _ => false
  | .inf n => n
  | .fin n _ _ => n

/-- `(a * b) + c` with one rounding (R51, R167). `np` negates the product, `nc` the addend; neither changes a NaN. -/
def fpFma (f : Fmt) (rm : Rm) (np nc : Bool) (a b c : Nat) : Nat × Flags :=
  let snan := flagIf ([a, b, c].any (fpIsSnan f)) flInvalid
  if fpIsNan f a then (fpQuiet f a, snan)
  else if fpIsNan f b then (fpQuiet f b, snan)
  else
    let a' := if np then fpNegate f a else a
    let c' := if nc then fpNegate f c else c
    match fpMulVal (fpDecode f a') (fpDecode f b) with
    | none => if fpIsNan f c then (fpQuiet f c, flInvalid) else (fmtNan f, flInvalid)
    | some p => if fpIsNan f c then (fpQuiet f c, snan) else fpAddVal f rm p (fpDecode f c')

/-- Exact quotient with a sticky last bit: enough bits for one correct rounding into FP64. -/
def divSticky (m n : Nat) : Nat :=
  let q := m * 2 ^ 120 / n
  2 * q + (if m * 2 ^ 120 % n = 0 then 0 else 1)

/-- `a / b`, correctly rounded (R51, R167); divideByZero is recorded as OVERFLOW. -/
def fpDiv (f : Fmt) (rm : Rm) (a b : Nat) : Nat × Flags :=
  match fpNanOf f [a, b] with
  | some r => r
  | none =>
    match fpDecode f a, fpDecode f b with
    | .inf _, .inf _ => (fmtNan f, flInvalid)
    | .inf x, .fin y _ _ => (fpInfCode f (x != y), 0)
    | .fin x _ _, .inf y => (if x != y then fmtSign f else 0, 0)
    | .fin x m e, .fin y n g =>
      if n = 0 then
        if m = 0 then (fmtNan f, flInvalid) else (fpInfCode f (x != y), flOverflow)
      else if m = 0 then (if x != y then fmtSign f else 0, 0)
      else fpRound f rm .ieee (x != y) (divSticky m n) (e - g - 121)
    | _, _ => (fmtNan f, 0)

/-- Integer k-th root by bits: the largest r with r^k ≤ n, below 2^bits. -/
def iroot (k n : Nat) : Nat → Nat → Nat
  | 0, r => r
  | b + 1, r =>
    let r' := r + 2 ^ b
    iroot k n b (if r' ^ k ≤ n then r' else r)

/-- Integer square root. -/
def isqrt (n : Nat) : Nat := iroot 2 n (Nat.log2 n / 2 + 1) 0

/-- Square root of a positive dyadic with a sticky last bit: mantissa and exponent. -/
def sqrtSticky (m : Nat) (e : Int) : Nat × Int :=
  let sh : Nat := if (e - 160) % 2 = 0 then 160 else 161
  let n := m * 2 ^ sh
  let r := isqrt n
  (2 * r + (if r * r = n then 0 else 1), (e - sh) / 2 - 1)

/-- The square root, correctly rounded; the root of -0 is -0 (R167). -/
def fpSqrt (f : Fmt) (rm : Rm) (a : Nat) : Nat × Flags :=
  match fpNanOf f [a] with
  | some r => r
  | none =>
    match fpDecode f a with
    | .inf n => if n then (fmtNan f, flInvalid) else (a, 0)
    | .fin n m e =>
      if m = 0 then (a, 0)
      else if n then (fmtNan f, flInvalid)
      else
        let (r, g) := sqrtSticky m e
        fpRound f rm .ieee false r g
    | .nan _ => (a, 0)

/-! ## Comparison, minimum and maximum (R55, R56) -/

/-- Numerical order of two values that are not NaN; -0 equals +0. -/
def fvLt (a b : FVal) : Bool :=
  match a, b with
  | .inf x, .inf y => x && !y
  | .inf x, _ => x
  | _, .inf y => !y
  | .fin xn xm xe, .fin yn ym ye => dyLt (dyOfFin xn xm xe) (dyOfFin yn ym ye)
  | _, _ => false

def fvEq (a b : FVal) : Bool := !fvLt a b && !fvLt b a

/-- Predicates of Table 7-7. -/
inductive Pred where
  | eq
  | ne
  | lt
  | le
  | gt
  | ge
  | un
  | ord
deriving DecidableEq, Repr, Inhabited

def predOf (n : Nat) : Option Pred :=
  match n with
  | 0 => some .eq
  | 1 => some .ne
  | 2 => some .lt
  | 3 => some .le
  | 4 => some .gt
  | 5 => some .ge
  | 6 => some .un
  | 7 => some .ord
  | _ => none

/-- Evaluation of a predicate on a totally ordered pair given `a < b` and `b < a`. -/
def predOrd (p : Pred) (lt gt : Bool) : Bool :=
  match p with
  | .eq => !lt && !gt
  | .ne => lt || gt
  | .lt => lt
  | .le => !gt
  | .gt => gt
  | .ge => !lt
  | .un => false
  | .ord => true

/-- A floating-point comparison and its INVALID flag (R55, R172). -/
def fpCmp (f : Fmt) (p : Pred) (a b : Nat) : Bool × Flags :=
  let sn := fpIsSnan f a || fpIsSnan f b
  if fpIsNan f a || fpIsNan f b then
    match p with
    | .eq => (false, flagIf sn flInvalid)
    | .ne => (true, flagIf sn flInvalid)
    | .un => (true, flagIf sn flInvalid)
    | .ord => (false, flagIf sn flInvalid)
    | _ => (false, flInvalid)
  else
    let x := fpDecode f a
    let y := fpDecode f b
    (predOrd p (fvLt x y) (fvLt y x), 0)

/-- minimumNumber (`mx = false`) and maximumNumber (`mx = true`) (R56). -/
def fpMinMax (f : Fmt) (mx : Bool) (a b : Nat) : Nat × Flags :=
  let fl := flagIf (fpIsSnan f a || fpIsSnan f b) flInvalid
  if fpIsNan f a then
    if fpIsNan f b then (fmtNan f, fl) else (b, fl)
  else if fpIsNan f b then (a, fl)
  else
    let x := fpDecode f a
    let y := fpDecode f b
    let less := fvLt x y || (fvEq x y && fvNeg x && !fvNeg y)
    (if less = mx then b else a, 0)

/-! ## Conversion (R57 to R61) -/

/-- Overflow behaviour of a destination (R58, R59): F4 always saturates, E4M3 and E5M2 by SAT. -/
def ovKindOf (d : Fmt) (sat : Bool) : OvKind :=
  match d with
  | .f4 => .sat
  | .e4m3 => if sat then .sat else .ieee
  | .e5m2 => if sat then .sat else .ieee
  | _ => .ieee

/-- What a NaN source gives (Table 3-6, last column). -/
def convNan (s d : Fmt) (c : Nat) : Nat :=
  if s = d then
    match d with
    | .e4m3 => c
    | .f4 => c
    | _ => fpQuiet d c
  else
    match s, d with
    | .fp32, .fp64 =>
      (if fpNegBit .fp32 c then fmtSign .fp64 else 0) + 0x7FF0000000000000
        + (fpQuiet .fp32 c % 2 ^ 23) * 2 ^ 29
    | .fp64, .fp32 =>
      (if fpNegBit .fp64 c then fmtSign .fp32 else 0) + 0x7F800000 + (fpQuiet .fp64 c % 2 ^ 52) / 2 ^ 29
    | _, _ => fmtNan d

/-- Saturation of an integer into a two's complement format: the code and INVALID (R61, Table 3-6). DESIGN CHOICE (log 47): a
narrowing of INT32 that saturates raises INVALID alone, though its result differs from its source. -/
def satInt (d : Fmt) (v : Int) (fl : Flags) : Nat × Flags :=
  let w := fmtBits d
  let hi : Int := 2 ^ (w - 1) - 1
  let lo : Int := -(2 ^ (w - 1))
  if hi < v then (hi.toNat, flInvalid)
  else if v < lo then (2 ^ (w - 1), flInvalid)
  else ((v % 2 ^ w).toNat, fl)

/-- Conversion of one element from format `s` to format `d` (R57 to R61, Table 3-6). -/
def fpConvert (s d : Fmt) (rm : Rm) (sat : Bool) (c : Nat) : Nat × Flags :=
  match fpDecode s c with
  | .nan q =>
    if fmtIsInt d then (0, flInvalid) else (convNan s d c, flagIf (!q) flInvalid)
  | .inf n =>
    if fmtIsInt d then satInt d (if n then -(2 ^ 40 : Int) else 2 ^ 40) 0
    else
      match fmtInf d with
      | some i => (i + (if n then fmtSign d else 0), 0)
      | none => (fmtNan d, flInvalid)
  | .fin n m e =>
    if fmtIsInt d then
      let (r, inex) := roundAt rm n m e 0
      satInt d (if n then -(r : Int) else r) (flagIf inex flInexact)
    else
      -- an INT zero has no sign, and a float zero keeps it (R61)
      fpRound d rm (ovKindOf d sat) (n && !(fmtIsInt s && m == 0)) m e

/-- The code a tensor output path writes: -0 as +0 (R52), NaN as the canonical NaN (R54). -/
def tensorCode (d : Fmt) (c : Nat) : Nat :=
  if fmtIsInt d then c
  else if fpIsNan d c then fmtNan d
  else if fpIsZero d c then 0
  else c

/-- Conversion on a tensor output path: RNE, then R52 and R54. -/
def tensorConvert (s d : Fmt) (sat : Bool) (c : Nat) : Nat × Flags :=
  let (r, fl) := fpConvert s d .rne sat c
  (tensorCode d r, fl)

/-! ## INT32 arithmetic (R169) -/

/-- The signed value of a 32-bit code. -/
def int32Val (c : Nat) : Int := if c < 2 ^ 31 then c else (c : Int) - 2 ^ 32

/-- The low 32 bits of an exact integer. -/
def int32Code (v : Int) : Nat := (v % 2 ^ 32).toNat

end Sys2Proof.Machine
end

