-- ==== Sys2Proof/Machine/State.lean ====
section
/-! DEFINITION. The state of the ZC-4 cluster: everything the spec names, as plain data, the state after reset (R10), and the
reasons a step can stop. Section numbers are the files of spec/. -/

namespace Sys2Proof.Machine

open Sys2Proof

/-! ## Storage (04, 05, 07) -/

/-- A tile register: data, line valid bits, shape and format codes, FULL (04, R75 to R79). -/
structure Tile where
  data  : BitVec 524288
  valid : BitVec 64
  shape : BitVec 3
  fmt   : BitVec 3
  full  : Bool
deriving DecidableEq, Repr, Inhabited

/-- A prefetched granule that has been delivered and that nothing has read: the run that prefetched it, the bytes
of the scratchpad that it was delivered to, as address and length, and whether a read has waited for it (19, R455). -/
structure Unread where
  uid   : Nat
  cells : List (Nat × Nat)
  late  : Bool
deriving DecidableEq, Repr, Inhabited

/-- The scratchpad: listed bytes in canonical form (unlisted bytes read 0), line valid bits (04, R88, R94), and the
prefetched granules that nothing has read yet (19, R455). -/
structure Pad where
  cells : List Host.Cell
  valid : BitVec 32768
  fresh : List Unread
deriving DecidableEq, Repr, Inhabited

/-- A buffer that holds frames: of a scene instance (`owner` its uid) or a window buffer (`none`) (04, R90 to R93). -/
structure Buf where
  owner  : Option Nat
  handle : Nat
  size   : Nat
  frames : List Nat
deriving DecidableEq, Repr, Inhabited

/-- One row of a Firn slice that is not ZERO, or a ZERO row whose CHECKED bit is set (05, Table 5-5). CHK and ABS
together are the 64-bit sum of an INT32 row, CHK its low half. -/
structure FirnRow where
  zero    : Bool
  isInt   : Bool
  blk     : BitVec 16
  sat     : Bool
  checked : Bool
  chk     : Word
  abs     : Word
  words   : BitVec 4096
deriving DecidableEq, Repr, Inhabited

/-- One row of the row-statistics buffer: W0 to W3, SET and CNT (05 R120, 08 R199). -/
structure StatRow where
  w0  : Word
  w1  : Word
  w2  : Word
  w3  : Word
  set : BitVec 4
  cnt : BitVec 8
deriving DecidableEq, Repr, Inhabited

/-- Firn: rows by key slice * 2048 + row, and row statistics by row; unlisted ones are as after R120. -/
structure Firn where
  rows  : List (Nat × FirnRow)
  stats : List (Nat × StatRow)
deriving DecidableEq, Repr, Inhabited

/-- One processing-element row of one array in a weight set: 128 weight codes in 32-bit lanes and the checksum cell's
weights c and d (05, R103, R104); in packed mode c and d are those of the left half, c2 and d2 of the right (R126). -/
structure WeightRow where
  w  : BitVec 4096
  c  : Word
  d  : Word
  c2 : Word
  d2 : Word
deriving DecidableEq, Repr, Inhabited

/-- A weight set of the four arrays: format code, and for each of the four arrays its 128 rows (05, R101, R103). -/
structure WeightSet where
  fmt    : BitVec 3
  arrays : List (List WeightRow)
deriving DecidableEq, Repr, Inhabited

/-- The most recent mismatch (05, MAT_CHKLAST). -/
structure ChkLast where
  valid : Bool
  mv    : Bool
  array : BitVec 2
  row   : BitVec 11
deriving DecidableEq, Repr, Inhabited

/-- The store clause of an MMA whose store path has not run yet, with everything read at issue (06, R152, R153). -/
structure PendingStore where
  uid   : Nat
  seq   : Nat
  w     : StoreWord
  frb   : Nat
  m     : Nat
  narr  : Nat
  off   : Int
  str   : Int
  scaleA : Word
  scaleB : Word
  mask  : BitVec 64
  gtag  : BitVec 16
  run   : BitVec 4
  txch  : BitVec 2
  ready : Bool
deriving DecidableEq, Repr, Inhabited

/-- An MMA in progress: its word, where its activations come from when that is the west Revolve port, the weights of the K
blocks that the weight bus has not loaded yet, the K blocks whose swap has taken place, and the activation rows of the
last of them that have entered the arrays (05 R101 to R107; 06 R144, R145). -/
structure MmaJob where
  uid   : Nat
  seq   : Nat
  w     : MmaWord
  rxch  : BitVec 2
  gtag  : BitVec 16
  run   : BitVec 4
  loads : List WeightSet
  blk   : Nat
  taken : Nat
deriving DecidableEq, Repr, Inhabited

/-- The matrix engine (05, 06). `fgA` says that set A is the foreground set; `bgFor` is the place in program order of the MMA
whose complete load of all four arrays the background set holds; `jobs` are the MMAs in progress, in issue order. -/
structure Mat where
  numstat : BitVec 4
  setA    : WeightSet
  setB    : WeightSet
  fgA     : Bool
  bgFor   : Option Nat
  jobs    : List MmaJob
  stores  : List PendingStore
  chkComp : Word
  chkSkip : Word
  chkFail : Word
  chkLast : ChkLast
deriving DecidableEq, Repr, Inhabited

/-- The most recent vector fault (07, VEC_FAULTLAST). -/
structure VecFault where
  valid : Bool
  elem  : BitVec 11
  code  : BitVec 16
deriving DecidableEq, Repr, Inhabited

/-- The vector engine (07, R159, R190, R191). -/
structure Vec where
  numstat   : BitVec 4
  v         : Vector VReg 32
  k         : Vector Mask 8
  vl        : BitVec 10
  faultLast : VecFault
deriving DecidableEq, Repr, Inhabited

/-! ## The module and its scenes (09) -/

/-- A set record (09 Table 9-6). -/
structure SetRec where
  kind  : Nat
  base  : Nat
  bytes : Nat
deriving DecidableEq, Repr, Inhabited

/-- A residency record (08 Table 8-6). -/
structure ResRec where
  frb  : Nat
  m    : Nat
  l    : Nat
  narr : Nat
deriving DecidableEq, Repr, Inhabited

/-- A scene of the loaded module: descriptor and declarations (09, R226, R227). Its code stays in memory (15, R370). -/
structure Scene where
  span  : Nat
  prio  : Nat
  nstrm : Nat
  duty  : List Nat
  codeBytes : Nat
  codeOffset : Nat
  bufs  : List (Nat × Nat)
  firn  : List (Nat × Nat)
  res   : List ResRec
  sets  : List SetRec
  deps  : List Nat
deriving DecidableEq, Repr, Inhabited

/-- The loaded module (02 R26, 15 R377). -/
structure Module where
  va     : Nat
  bytes  : Nat
  req0   : DWord
  req1   : DWord
  wins   : List (Nat × Nat × Nat)
  scenes : List Scene
deriving DecidableEq, Repr, Inhabited

/-! ## Instances and runs (09, 12, 14) -/

/-- States of a scene instance that is in the pending list (09 Table 9-7, 14 Table 14-3). -/
inductive InstState where
  | waiting
  | ready
  | running
  | draining
  | abandoned
  | replayPending
deriving DecidableEq, Repr, Inhabited

/-- Why a run is ending: a precise fault (R221), an abandonment by anything else than an own precise fault (R270, R296, R458),
a check event (R354), ABORT or a Curtain (R404). -/
inductive EndKind where
  | fault
  | leave
  | check
  | abort
deriving DecidableEq, Repr, Inhabited

/-- A run that has been ended and still waits for its requests in flight (R221, R354): why, with which status, the
SEQ_FAULTPC value to report, and whether the instance is removed once it has ended (R380). `counted` says that the
run's check event raises the replay counter (R358); `entry` is its event-log entry, written at step 6 of R354. -/
structure Ending where
  kind    : EndKind
  status  : BitVec 16
  pc      : BitVec 32
  remove  : Bool
  counted : Bool
  entry   : Option (BitVec 256)
deriving DecidableEq, Repr, Inhabited

/-- An entry of the atomic log (12, R325), by its place in program order. `lease` is the lease number of a logged CLAIM. -/
structure AlogEntry where
  idx   : Nat
  addr  : Nat
  op    : Nat
  opsA  : DWord
  opsB  : DWord
  res   : DWord
  lease : Option Nat
deriving DecidableEq, Repr, Inhabited

/-- How a protected update of a run ended, for UPDC, UPDS and the event log (R343, R346, R385); `pass1` says that it commits
nothing (R337). -/
structure UpdOutcome where
  ver       : DWord
  step      : DWord
  committed : Bool
  skipped   : Bool
  pass1     : Bool
deriving DecidableEq, Repr, Inhabited

/-- A scene instance of the pending list (09 R230 to R235, 14 R356, R357). `replayed` says that some run of it has been
replayed, for whichever member's check event (15, R385). -/
structure Inst where
  uid      : Nat
  scene    : Nat
  args     : List DWord
  handle   : Word
  origin   : Mbx
  st       : InstState
  replays  : Nat
  replayed : Bool
  everLate : Bool
  runLate  : Bool
  tick0    : DWord
  slots    : List Nat
  alog     : List AlogEntry
  alogPos  : Nat
  alogReplay : Bool
  upds     : List UpdOutcome
  ringScene : Bool
  gtag     : BitVec 16
  grun     : BitVec 4
  gmask    : BitVec 64
  gends    : List (BitVec 16 × BitVec 4 × BitVec 6)
  ending   : Option Ending
  faultPc  : BitVec 32
  numMat   : BitVec 4
  numVec   : BitVec 4
  numUpd   : BitVec 4
deriving DecidableEq, Repr, Inhabited

/-- The route in force (11, R280, R281). -/
structure Route where
  mask  : BitVec 64
  first : BitVec 6
  txch  : BitVec 2
  rxch  : BitVec 2
deriving DecidableEq, Repr, Inhabited

/-- The engine queues, and S for what executes in the sequencer (09 Table 9-1). -/
inductive Queue where
  | m
  | v
  | d
  | s
deriving DecidableEq, Repr, Inhabited

/-- An instruction that has been fetched and has not issued: its queue, run, place in program order, code offset and words,
the scalar registers that it names, and the route in force where it stands (09, R213, R215; 11, R281). -/
structure Queued where
  c     : Instr
  q     : Queue
  uid   : Nat
  seq   : Nat
  pc    : Nat
  words : Nat
  regs  : List (BitVec 5)
  route : Route
deriving DecidableEq, Repr, Inhabited

/-- A precise fault that waits for the earlier instructions of its run (09, R221): the faulting instruction's place in
program order, its status and code offset, and for the vector engine the element of VEC_FAULTLAST (07, R188). -/
structure HeldFault where
  seq  : Nat
  code : BitVec 16
  pc   : Nat
  elem : Option Nat
deriving DecidableEq, Repr, Inhabited

/-- The sequencer's context of the RUNNING instance (09 R213, 11 R281). `fetching` falls when the run ends or an
instruction has faulted; `fault` is the precise fault that waits for earlier instructions (R221). -/
structure Run where
  uid      : Nat
  pc       : Nat
  fetching : Bool
  route    : Route
  nProt    : Nat
  fault    : Option HeldFault
deriving DecidableEq, Repr, Inhabited

/-- The most recent precise fault (09, SEQ_FAULT, SEQ_FAULTPC). -/
structure SeqFault where
  valid : Bool
  scene : BitVec 12
  code  : BitVec 16
  pc    : BitVec 32
deriving DecidableEq, Repr, Inhabited

/-- The sequencer, the scheduler and the pending list (09). `queue` holds the instructions of the M, V and D queues that have not
issued, in program order; `issuing` is the one of them that a quiet cycle issues, none between steps (log 1). `startSel`
is the instance that the scheduler starts on the tick sampled last; `lateDue` lists the runs that are late at that tick
and not yet counted. `icache` holds the cached lines of code by virtual address (15, R370). -/
structure Seq where
  s       : Vector DWord 32
  run     : Option Run
  queue   : List Queued
  issuing : Option Queued
  insts   : List Inst
  modl    : Option Module
  held    : Bool
  late    : Word
  fault   : SeqFault
  icache  : List (Nat × Granule)
  nextUid : Nat
  startSel : Option Nat
  lateDue : List Nat
deriving DecidableEq, Repr, Inhabited

/-! ## Streams, translation, synchronization (10, 12) -/

/-- A Cue that is pending on a stream: its position, its program order, its run (10 R237). -/
structure Cue where
  p   : Nat
  seq : Nat
deriving DecidableEq, Repr, Inhabited

/-- An ACQ that completed while a stream was open: its program order, its range, how many units of the stream had been
requested by then, and which of them have been requested again since (12, R316). -/
structure AcqMark where
  seq  : Nat
  lo   : Nat
  hi   : Nat
  next : Nat
  gone : List Nat
deriving DecidableEq, Repr, Inhabited

/-- A recorded translation fault (10 R268, R274; 15 R382). -/
structure XltFault where
  va     : Nat
  write  : Bool
  level  : Nat
  reason : Nat
  record : Nat
deriving DecidableEq, Repr, Inhabited

/-- A stream on a physical slot: its descriptor image after patches, the next unit to request, units to request again,
the gather indices read so far, and how it stands (10, R244 to R261). Under XP `stage` holds the units
that have arrived and `wrote` names the image granules that have been written (R248, R272). `late` names the units that a read has waited for
(19, R455); `status` is set when the stream ends other than by delivering everything. -/
structure Stream where
  id     : Nat
  uid    : Nat
  slot   : Nat
  phys   : Nat
  seq    : Nat
  image  : BitVec 512
  next   : Nat
  refetch : List Nat
  idxs   : List Nat
  stage  : List (Nat × Granule)
  wrote  : List Nat
  late   : List Nat
  cues   : List Cue
  marks  : List AcqMark
  susp   : Option XltFault
  walking : Bool
  stopped : Bool
  status : Option (BitVec 16)
deriving DecidableEq, Repr, Inhabited

/-- What a transfer on the Aside path does (10 R262, 12 R311 to R321). -/
inductive AsideKind where
  | read
  | write
  | atom (aop : BitVec 4) (sz : Bool)
  | claim (lease : BitVec 8)
  | acq (cond : BitVec 2) (rb : Nat) (rn : Nat)
  | rel (add : Bool)
deriving DecidableEq, Repr, Inhabited

/-- An Aside transfer or synchronization instruction in progress, by its Aside tag 0 to 63 (10 R262, R263; 12 R311).
`fv` is the operand, `cv` the compare value. `rls` says that it waits for the earlier writes of its run (R312, R313);
`waiting` says that an ACQ has read a value that failed its condition and
has not polled again; `logIdx` is the place of its result in the atomic log. -/
structure Aside where
  tag    : Nat
  uid    : Nat
  seq    : Nat
  kind   : AsideKind
  va     : Nat
  bufH   : Nat
  boff   : Nat
  len    : Nat
  fv     : DWord
  cv     : DWord
  sd     : Option (BitVec 5)
  logIdx : Option Nat
  rls    : Bool
  issued : Bool
  walking : Bool
  waiting : Bool
  susp   : Option XltFault
deriving DecidableEq, Repr, Inhabited

/-- Which activity a fabric request belongs to. A stream request names the first units of the runs it delivers, how many
units each has (a merged request of R261 delivers to several), and the units that a Cue has discarded since (R316). -/
inductive Owner where
  | stream (id : Nat) (starts : List Nat) (n : Nat) (skip : List Nat)
  | aside (tag : Nat)
  | upd (part : Nat) (off : Nat)
  | updWrite (key : Nat)
  | walk (n : Nat)
  | fill (line : Nat)
  | load (off : Nat)
  | image (copy : Nat) (off : Nat)
deriving DecidableEq, Repr, Inhabited

/-- A beat of a write-data channel or of read data: its window of the bus width within the request's 256-byte block, its
byte enables and data in the lanes of that window, and LAST (17, R423, R424). -/
structure BusBeat where
  window : Nat
  mask   : BitVec 256
  data   : BitVec 2048
  last   : Bool
deriving DecidableEq, Repr, Inhabited

/-- A request in flight on the initiator side, with the fields of 17 Table 17-2; `rs` is FW_RS, and `beats` is its write
data as the write-data channel carries it (17, R424). -/
structure Req where
  tag   : Nat
  op    : BitVec 4
  addr  : BitVec 52
  len   : BitVec 2
  aop   : BitVec 4
  sz    : Bool
  tid   : BitVec 12
  oc    : BitVec 2
  mask  : BitVec 256
  data  : BitVec 2048
  rs    : BitVec 2
  beats : List BusBeat
  uid   : Option Nat
  owner : Owner
deriving DecidableEq, Repr, Inhabited

/-- For whom a walk translates. -/
inductive WalkFor where
  | stream (id : Nat)
  | aside (tag : Nat)
  | upd
  | updWrite (key : Nat)
  | fill (line : Nat)
  | load
deriving DecidableEq, Repr, Inhabited

/-- A read response that has been accepted and waits to be written: its request, the answer and its data (10, R257; 17,
R425). -/
structure Landing where
  req  : Req
  data : BitVec 2048
deriving DecidableEq, Repr, Inhabited

/-- A page-table walk in progress (10, R265). `redo` says that the translations it has read have been invalidated since:
it starts again (R267). -/
structure Walk where
  n     : Nat
  va    : Nat
  write : Bool
  level : Nat
  table : Nat
  for_  : WalkFor
  uid   : Option Nat
  redo  : Bool
deriving DecidableEq, Repr, Inhabited

/-- A TLB entry: virtual base, page-size exponent, physical base, W (10, R266). -/
structure TlbEntry where
  va   : Nat
  bits : Nat
  pa   : Nat
  w    : Bool
deriving DecidableEq, Repr, Inhabited

/-- A request in the sorter window: its stream, first unit and unit count, and physical address (10, R261). -/
structure SortEntry where
  id    : Nat
  start : Nat
  n     : Nat
  pa    : Nat
deriving DecidableEq, Repr, Inhabited

/-- A lease (12, R322): its holder's uid, and its expiry reported or not. -/
structure Lease where
  key     : Nat
  uid     : Nat
  addr    : Nat
  epoch   : BitVec 16
  first   : Word
  count   : BitVec 16
  lease   : BitVec 8
  tick    : DWord
  expiry  : DWord
  due     : Bool
  expired : Bool
deriving DecidableEq, Repr, Inhabited

/-- The most recent stream completion other than OK (10, STRM_ERRLAST). -/
structure ErrLast where
  valid : Bool
  slot  : BitVec 6
  code  : BitVec 16
deriving DecidableEq, Repr, Inhabited

/-- XLT_FAULTVA and XLT_FAULTINFO (10, R274). -/
structure FaultInfo where
  valid  : Bool
  va     : BitVec 57
  slot   : BitVec 6
  write  : Bool
  level  : BitVec 3
  reason : BitVec 2
deriving DecidableEq, Repr, Inhabited

/-- The stream engine, the translation unit and the Aside path (10, 12). `dcache` is the cluster data cache: lines of 64
bytes by physical line address, with the virtual line address they were read at. `orphans` are the tags of requests
issued before a reset and not answered yet (R402); `landed` are the deliveries that wait for earlier accesses (R257);
`rsp`, `rspRs`, `rspData` and `rspBeats` are the last target-side response. -/
structure Strm where
  bufs     : List Buf
  streams  : List Stream
  asides   : List Aside
  reqs     : List Req
  landed   : List Landing
  sorter   : List SortEntry
  dcache   : List (Nat × Nat × Granule)
  tlb      : List TlbEntry
  walks    : List Walk
  rootEn   : Bool
  rootAddr : BitVec 40
  inval    : Bool
  fault    : FaultInfo
  pgmask   : Vector (BitVec 46) 8
  bkmask   : Vector (BitVec 46) 6
  gidxSkip : Word
  errLast  : ErrLast
  leases   : List Lease
  leaseExp : BitVec 16
  acqPoll  : Word
  nextId   : Nat
  orphans  : List Nat
  rsp      : BitVec 2
  rspRs    : BitVec 2
  rspData  : BitVec 2048
  rspBeats : List BusBeat
deriving DecidableEq, Repr, Inhabited

/-! ## The ring stop (11, 17) -/

/-- A Stage Door message (11 Table 11-6). RING_DOWN names the stop that sends it and whether the failed link is its east one. -/
inductive StageMsg where
  | train (m : TrainMsg)
  | curtain (orig : BitVec 6)
  | groupEnd (gtag : BitVec 16) (run : BitVec 4) (sender : BitVec 6)
  | groupReplay (gtag : BitVec 16) (run : BitVec 4) (sender : BitVec 6)
  | groupAbandon (gtag : BitVec 16) (run : BitVec 4) (status : BitVec 16) (sender : BitVec 6)
  | fence (cluster : BitVec 6)
  | rejoin (cluster : BitVec 6)
  | ringDown (sender : BitVec 6) (east : Bool)
deriving DecidableEq, Repr, Inhabited

/-- What an output queue of the stop carries. -/
inductive OutBody where
  | flit (f : Flit)
  | stage (m : StageMsg)
deriving DecidableEq, Repr, Inhabited

/-- A flit that waits to be sent: its channel, whether it is injected here or forwarded (11 R276), the instruction that
sends it, and the receive-buffer entry that it frees when it goes. -/
structure OutFlit where
  vc     : BitVec 2
  ch     : BitVec 2
  inject : Bool
  uid    : Nat
  seq    : Nat
  holds  : Bool
  body   : OutBody
deriving DecidableEq, Repr, Inhabited

/-- Credits held for the neighbour's buffers (11 R276, 17 R431). -/
structure Credits where
  c0 : Nat
  c1 : Nat
  c2 : Nat
  c3 : Nat
  v1 : Nat
  v2 : Nat
  v3 : Nat
deriving DecidableEq, Repr, Inhabited

/-- What the lanes of a link carry in one beat of a flit: FO_B, FO_H, FO_SEQ, FO_D and FO_CRC (17, R429); a field that the
beat does not carry is 0. -/
structure LinkBeat where
  second : Bool
  hdr    : BitVec 160
  seq    : BitVec 5
  data   : BitVec 2048
  crc    : BitVec 32
deriving DecidableEq, Repr, Inhabited

/-- One port of the ring stop: output queue, credits, retry buffer by sequence number, next sequence number to send,
next one expected, whether it waits for a refused flit, the flit numbers whose last reception and transmission failed,
whether its link is down, the last acknowledgement sent, credits freed and not yet returned, the virtual channel that the
arbiter serves next, and the beats of the flit sent last (11 R275, R276, 17 R428 to R431). -/
structure Port where
  out    : List OutFlit
  cr     : Credits
  retry  : List (BitVec 5 × OutFlit)
  resend : List (BitVec 5 × OutFlit)
  txSeq  : BitVec 5
  rxSeq  : BitVec 5
  nakked : Bool
  rxFail : Option (BitVec 5)
  txFail : Option (BitVec 5)
  dead   : Bool
  koAck  : Bool
  koNak  : Bool
  koSeq  : BitVec 5
  crRet  : List (BitVec 2 × BitVec 2)
  turn   : BitVec 2
  fo     : List LinkBeat
deriving DecidableEq, Repr, Inhabited

/-- The RRED in progress (11, R287 to R292): its word and operands, the rank of this cluster and the members in rank
order, its source as FP32 words, the flits received per direction in the reduce and the gather phase, and the final
sums of its own shard. -/
structure Red where
  uid    : Nat
  seq    : Nat
  w      : RredWord
  len    : Nat
  n      : Nat
  rank   : Nat
  mask   : BitVec 64
  gtag   : BitVec 16
  run    : BitVec 4
  src    : List Word
  gotE   : Nat
  gotW   : Nat
  gatE   : Nat
  gatW   : Nat
  sumE   : List Word
  sumW   : List Word
deriving DecidableEq, Repr, Inhabited

/-- REV_LINKLAST (11, R302). -/
structure LinkLast where
  valid : Bool
  east  : Bool
  code  : BitVec 16
deriving DecidableEq, Repr, Inhabited

/-- The ring stop (11, 17). `zc3` names the clusters that reported generation 1 (log 24); `pt` is pass-through by fence, warm
reset or an unfinished rejoin (R299, R300); `gends` are the GROUP_ENDs received for runs that this cluster has not
started (R293); `line` says that a link of the ring has failed since PORESET_N, which REV_STATE.DOWN (`down`) reports
until the next reset (R301; log 48). -/
structure Rev where
  ready    : Bool
  done     : Bool
  status   : BitVec 3
  gen      : BitVec 2
  n        : BitVec 7
  zc3      : BitVec 64
  ptMap    : BitVec 64
  down     : Bool
  pt       : Bool
  rejoining : Bool
  rejoinBack : Bool
  rejoinTick : Bool
  crcE     : BitVec 16
  crcW     : BitVec 16
  linkLast : LinkLast
  heldTrain : Option TrainMsg
  east     : Port
  west     : Port
  rx0      : List Flit
  rx1E     : List Flit
  rx1W     : List Flit
  red      : Option Red
  gends    : List (BitVec 16 × BitVec 4 × BitVec 6)
  line     : Bool
deriving DecidableEq, Repr, Inhabited

/-! ## The update engine (13) -/

/-- How far the update in progress has come (13, R328, R341, R346). -/
inductive UpdPhase where
  | version
  | norm
  | reads
  | gradient
  | ready
deriving DecidableEq, Repr, Inhabited

/-- The update in progress: its record as read, its phase, what it has read, and its gradient (13). -/
structure Upd where
  uid   : Nat
  seq   : Nat
  sd    : BitVec 5
  bufH  : Nat
  recd  : BitVec 2048
  k     : Nat
  phase : UpdPhase
  redo  : Bool
  src1  : Bool
  vword : DWord
  norm  : DWord
  pdata : List Byte
  sdata : List Byte
  grad  : List Word
  skip  : Bool
  issued : Bool
  walking : Bool
  susp  : Option XltFault
deriving DecidableEq, Repr, Inhabited

/-- A write of the update engine: of its computation's results, or of a version word (13, R341, R342). -/
structure UpdWrite where
  key    : Nat
  uid    : Nat
  seq    : Nat
  k      : Nat
  prot   : Bool
  va     : Nat
  bytes  : List Byte
  commit : Bool
  issued : Bool
  walking : Bool
  susp   : Option XltFault
deriving DecidableEq, Repr, Inhabited

/-- A protected update that has completed its computation and waits for its commit (13, R342). -/
structure Commit where
  uid    : Nat
  seq    : Nat
  k      : Nat
  ver    : DWord
  step   : DWord
  word   : DWord
  issued : Bool
deriving DecidableEq, Repr, Inhabited

/-- UPD_LAST (13, R349). -/
structure UpdLast where
  valid   : Bool
  outcome : BitVec 2
  code    : BitVec 16
deriving DecidableEq, Repr, Inhabited

/-- The update engine (13). `record` is the uncommitted-update record of the always-on domain: uid, index, version-word
address and STEP (16, R408). -/
structure UpdEng where
  numstat : BitVec 4
  cur     : Option Upd
  writes  : List UpdWrite
  commits : List Commit
  nCommit : Word
  nCancel : Word
  nSing   : Word
  last    : UpdLast
  record  : List (Nat × Nat × DWord × DWord)
  nextKey : Nat
deriving DecidableEq, Repr, Inhabited

/-! ## Checking (14) -/

/-- A location that a storage check covers (14 Table 14-1, Sources 3 to 7 and 9): an 8-byte word of the scratchpad by its
number, a row of a Firn slice, a line of a tile register, a cached line of code or data by its address, the decode of the
next instruction word, a word of control SRAM. -/
inductive Place where
  | pad (word : Nat)
  | firn (slice row : Nat)
  | tile (t line : Nat)
  | icache (va : Nat)
  | dcache (pa : Nat)
  | decode
  | sram (word : Nat)
deriving DecidableEq, Repr, Inhabited

/-- A storage error that lies at a location until it is written or invalidated: correctable, or not (14, R351). -/
structure Mark where
  place : Place
  hard  : Bool
deriving DecidableEq, Repr, Inhabited

/-- A past event of the fault history (14, R359): its tick, its kind and its location. -/
structure PastEvent where
  tick : DWord
  src  : Nat
  loc  : Nat
deriving DecidableEq, Repr, Inhabited

/-- The check logic (14). `logTodo` are Source 13 entries to be written after the next release (R343);
`wdPhase` is 0 none, 1 waiting for acknowledgements, 2 timed out; `marks` are the storage errors that lie undetected;
`upsets` is the model's own: it numbers the free values of `Config.upset` (log 16). -/
structure Chk where
  withdrawn : Bool
  wdPhase   : Nat
  events    : Word
  nReplay   : Word
  corrS     : Byte
  corrF     : Byte
  corrT     : Byte
  corrC     : Byte
  cfgState  : BitVec 4
  cfgCopy   : BitVec 2
  cfgValid  : BitVec 4
  cfgGen    : BitVec 16
  retValid  : Bool
  retUnq    : Bool
  retInsts  : List (BitVec 640)
  retLeases : List (BitVec 256)
  causeSrc  : Byte
  causeCode : BitVec 16
  lost      : BitVec 16
  head      : Byte
  log       : Vector (BitVec 256) 256
  logSeq    : Word
  history   : List PastEvent
  logTodo   : List (BitVec 256)
  marks     : List Mark
  upsets    : Nat
deriving DecidableEq, Repr, Inhabited

/-! ## Mailboxes and the control core (15) -/

/-- Slot states (15 Table 15-3). -/
inductive SlotState where
  | empty
  | posted
  | busy
  | done
deriving DecidableEq, Repr, Inhabited

/-- One mailbox: slots, notice queue and notices held back (15, R374, R384). -/
structure Mailbox where
  st    : Vector SlotState 8
  slots : Vector (BitVec 1024) 8
  ntc   : Vector (BitVec 512) 32
  head  : Word
  tail  : Word
  held  : List (BitVec 512)
deriving DecidableEq, Repr, Inhabited

/-- A LOAD whose module firmware is reading: the command, the bytes read so far, and how many are to be read before the
next check (15, R377); `issued` and `walking` say what the next read waits for; `first` is the firmware tag that its reads take first. -/
structure LoadJob where
  mbx     : Mbx
  slot    : BitVec 3
  size    : Nat
  word    : BitVec 1024
  image   : List Byte
  upto    : Nat
  issued  : Bool
  walking : Bool
  first   : BitVec 4
deriving DecidableEq, Repr, Inhabited

/-- The mailboxes, the control core and firmware's own state (15). `order` lists the doorbells not yet taken; `wipe` is the
TENANT command whose wipe is in progress and its TID (R387); `cut` is the command that a restart cut off (R353); `dport`
marks the management slots whose doorbell came through the debug port (R372); `load` is the LOAD in progress. -/
structure Ctl where
  mgmt      : Mailbox
  user      : Mailbox
  order     : List (Mbx × BitVec 3)
  csrValid  : Bool
  csrCode   : BitVec 16
  csrAddr   : BitVec 24
  irqStat   : BitVec 4
  irqEn     : BitVec 4
  owner     : BitVec 12
  wipe      : Option (Mbx × BitVec 3 × BitVec 12)
  restarting : Bool
  cut       : Option (Mbx × BitVec 3)
  dport     : BitVec 8
  load      : Option LoadJob
deriving DecidableEq, Repr, Inhabited

/-! ## Features, boot, power, observation (02, 16 to 19) -/

/-- The FEATURE block (02, R31). -/
structure Feat where
  grant0  : DWord
  grant1  : DWord
  granted : Bool
  service : Bool
deriving DecidableEq, Repr, Inhabited

/-- An examined copy of the configuration image (16, R396): its fields when it is valid. -/
structure Copy where
  valid  : Bool
  gen    : BitVec 16
  digest : Nat
  fwver  : Word
  lut    : List (BitVec 64)
deriving DecidableEq, Repr, Inhabited

/-- A configuration copy that the boot ROM is reading (16, R394): the bytes read so far, whether a read has failed, and the
firmware tag that its reads take first. -/
structure ImageRead where
  n      : Nat
  image  : List Byte
  failed : Bool
  first  : BitVec 4
deriving DecidableEq, Repr, Inhabited

/-- Boot: reset inputs, sampled tie-offs, fuses, examined copies, release (16, 17). -/
structure Boot where
  poreset   : Bool
  clreset   : Bool
  ties      : TieOffs
  keyhash   : BitVec 384
  dbgfuse   : BitVec 2
  fuseErr   : Bool
  fusesIn   : Bool
  reads     : List ImageRead
  copies    : List (Nat × Copy)
  chosen    : Bool
  released  : Bool
  cold      : Bool
  off       : Bool
  fwver     : Word
  weights   : List Nat
deriving DecidableEq, Repr, Inhabited

/-- Power, ticks and the sideband (16, 17): registers, and the levels of pins (`throttle`, `tickNumIn`, `capIn`, `curtainIn`,
`tempIn`, `currIn`), which a reset does not change. -/
structure Pwr where
  capin     : Byte
  thermal   : Bool
  throttle  : Bool
  idle      : Bool
  period    : BitVec 11
  tickNum   : DWord
  firstTick : Bool
  jump      : BitVec 16
  stale     : Byte
  missing   : Byte
  tempLimit : BitVec 10
  tempNow   : BitVec 10
  currNow   : BitVec 12
  thrCnt    : Word
  dbgReq    : BitVec 2
  tickNumIn : DWord
  capIn     : Byte
  curtainIn : Bool
  curtainOut : Bool
  withdrawPin : Bool
  stopEvent : Bool
  tempIn    : BitVec 10
  currIn    : BitVec 12
deriving DecidableEq, Repr, Inhabited

/-- The PERF block (18, R447). -/
structure Perf where
  scene  : Bool
  freeze : Bool
  en     : Bool
  cycles : DWord
  sel    : Vector (BitVec 16) 32
  cnt    : Vector DWord 32
deriving DecidableEq, Repr, Inhabited

/-- The access state of one CSR port: the latched high words and the pending low word with their registers' offsets, and
the result of its last access (00 R12, 17 R432 to R434, R441). -/
structure CsrPort where
  high  : List (Nat × Word)
  low   : Option (Nat × Word)
  rdata : Word
  err   : Bool
deriving DecidableEq, Repr, Inhabited

/-- The DBG block, the two CSR ports, the TAP (18 R450, 17 R440, R441); `irOut` is what the last instruction scan shifted
out, which is what Capture-IR loaded. `freeCount` is the model's own: it numbers the free
values that reads of control SRAM have taken (log 25). -/
structure Dbg where
  tile   : BitVec 4
  slice  : BitVec 2
  tgt    : BitVec 3
  addr   : BitVec 23
  data   : Word
  result : BitVec 3
  freeCount : Nat
  mg     : CsrPort
  dp     : CsrPort
  ir     : Byte
  bypass : Bool
  capture : BitVec 102
  update : BitVec 102
  extest : Bool
  irOut  : Byte
deriving DecidableEq, Repr, Inhabited

/-- The state of the cluster. `pending` is the queue of commands that wait, first in, first out. -/
structure State where
  pending : List Instr
  tiles   : Vector Tile 16
  pad     : Pad
  mat     : Mat
  firn    : Firn
  vec     : Vec
  seq     : Seq
  strm    : Strm
  rev     : Rev
  upd     : UpdEng
  chk     : Chk
  ctl     : Ctl
  feat    : Feat
  boot    : Boot
  pwr     : Pwr
  perf    : Perf
  dbg     : Dbg
deriving DecidableEq, Repr

/-- Why a step can stop with a fault. No command of this model raises one: precise faults, check events and refusals of
the spec are next states (safe). -/
inductive Fault where
  /-- Raised by no command (safe). -/
  | outsideModel
deriving DecidableEq, Repr

/-- Why a step can be refused. -/
inductive Refusal where
  /-- The command of this mnemonic has no meaning yet; raised by its arm of `exec` only (safe). -/
  | notModelled (mnemonic : String)
deriving DecidableEq, Repr

/-! ## Reset (R10, 16 R401) -/

/-- A tile register after reset: S128, BF16, EMPTY, all lines invalid (04, R77). -/
def Tile.reset : Tile := ⟨0, 0, 0, 2, false⟩

/-- A Firn row after reset: ZERO (05, R120). -/
def FirnRow.reset : FirnRow := ⟨true, false, 0, false, false, 0, 0, 0⟩

/-- A row-statistics row after reset: +0 in every word, no bit of SET, CNT 0 (05 R120, 08 R199). -/
def StatRow.reset : StatRow := ⟨0, 0, 0, 0, 0, 0⟩

/-- An empty weight set (DESIGN CHOICE, log 18). -/
def WeightSet.reset : WeightSet := ⟨0, []⟩

/-- The matrix engine after reset (05 Table 5-7). -/
def Mat.reset : Mat :=
  ⟨0, .reset, .reset, true, none, [], [], 0, 0, 0, ⟨false, false, 0, 0⟩⟩

/-- The vector engine after reset: V registers 0, mask registers all ones, VL 512 (07, R190). -/
def Vec.reset : Vec :=
  ⟨0, Vector.replicate 32 0, Vector.replicate 8 (BitVec.allOnes 512), 512, ⟨false, 0, 0⟩⟩

/-- The sequencer after reset: no instance, no module, scalar registers 0 (DESIGN CHOICE, log 18). -/
def Seq.reset : Seq :=
  ⟨Vector.replicate 32 0, none, [], none, [], none, false, 0, ⟨false, 0, 0, 0⟩, [], 0, none, []⟩

/-- The stream engine after reset (10 Table 10-9, 12 Table 12-7). -/
def Strm.reset : Strm :=
  ⟨[], [], [], [], [], [], [], [], [], false, 0, false, ⟨false, 0, 0, false, 0, 0⟩, Vector.replicate 8 0,
   Vector.replicate 6 0, 0, ⟨false, 0, 0⟩, [], 0, 0, 0, [], 0, 0, 0, []⟩

/-- A Revolve port at the rise of PORESET_N: four VC3 credits and no others (17, R431). -/
def Port.reset : Port :=
  ⟨[], ⟨0, 0, 0, 0, 0, 0, 4⟩, [], [], 0, 0, false, none, none, false, false, false, 0, [], 0, []⟩

/-- The ring stop after reset: not trained (11 Table 11-7). -/
def Rev.reset : Rev :=
  ⟨false, false, 1, 0, 0, 0, 0, false, false, false, false, false, 0, 0, ⟨false, false, 0⟩, none, .reset, .reset,
   [], [], [], none, [], false⟩

/-- The update engine after reset (13 Table 13-10). -/
def UpdEng.reset : UpdEng := ⟨0, none, [], [], 0, 0, 0, ⟨false, 0, 0⟩, [], 0⟩

/-- The check logic after reset: CHK_CFG.STATE 1 (14 Table 14-11). -/
def Chk.reset : Chk :=
  ⟨false, 0, 0, 0, 0, 0, 0, 0, 1, 0, 0, 0, false, false, [], [], 0, 0, 0, 0, Vector.replicate 256 0, 0, [], [], [], 0⟩

/-- A mailbox after reset: every slot EMPTY with bytes 0 (15 Table 15-3). -/
def Mailbox.reset : Mailbox :=
  ⟨Vector.replicate 8 .empty, Vector.replicate 8 0, Vector.replicate 32 0, 0, 0, []⟩

/-- The mailboxes and the control core after reset (15 Table 15-9, R373). -/
def Ctl.reset : Ctl :=
  ⟨.reset, .reset, [], false, 0, 0, 0, 0, 0, none, false, none, 0, none⟩

/-- The FEATURE block after reset: no grant (02, R38). -/
def Feat.reset : Feat := ⟨0, 0, false, false⟩

/-- Boot state: PORESET_N low, CLRESET_N high, nothing sampled or loaded (DESIGN CHOICE, logs 6 and 18); the default
weights of Table 1-4. -/
def Boot.reset : Boot :=
  ⟨false, true, ⟨0, 0, 0, false, 0, 0⟩, 0, 0, false, false, [], [], false, false, true, false, 0, [18, 10, 8, 10]⟩

/-- Power and sideband after reset: PERIOD 0x064, LIMIT 0x1A4, outputs low (16 Table 16-8, 17 R438). -/
def Pwr.reset : Pwr :=
  ⟨0, false, false, false, 0x064, 0, true, 0, 0, 0, 0x1A4, 0, 0, 0, 0, 0, 0, false, false, false, false, 0, 0⟩

/-- The PERF block after reset (18 Table 18-3). -/
def Perf.reset : Perf := ⟨false, false, false, 0, Vector.replicate 32 0, Vector.replicate 32 0⟩

/-- A CSR port with nothing latched and nothing pending (DESIGN CHOICE, log 18). -/
def CsrPort.reset : CsrPort := ⟨[], none, 0, false⟩

/-- The DBG block after reset (18 Table 18-4); the TAP after its reset (17, R440): BYPASS selected. -/
def Dbg.reset : Dbg := ⟨0, 0, 0, 0, 0, 0, 0, .reset, .reset, 0xFF, false, 0, 0, false, 0x01⟩

/-- The cluster right after reset: every register at its reset value, PORESET_N still low (log 6). -/
def State.reset : State :=
  { pending := [], tiles := Vector.replicate 16 .reset, pad := ⟨[], 0, []⟩, mat := .reset, firn := ⟨[], []⟩,
    vec := .reset, seq := .reset, strm := .reset, rev := .reset, upd := .reset, chk := .reset, ctl := .reset,
    feat := .reset, boot := .reset, pwr := .reset, perf := .reset, dbg := .reset }

end Sys2Proof.Machine
end

