-- ==== Sys2Proof/Machine/Flags.lean ====
section
/-! DEFINITION. Sticky exception flags: accumulation over the lanes of an operation and into MAT_NUMSTAT, VEC_NUMSTAT and
UPD_NUMSTAT (03, R69 to R71). -/

namespace Sys2Proof.Machine

open Sys2Proof

/-- The union of the flags of the lanes. -/
def orFlags (l : List Flags) : Flags := l.foldl (· ||| ·) 0

/-- Flags raised in MAT_NUMSTAT (R69, R71). -/
def raiseMat (s : State) (f : Flags) : State := { s with mat := { s.mat with numstat := s.mat.numstat ||| f } }

/-- Flags raised in VEC_NUMSTAT (R69, R71). -/
def raiseVec (s : State) (f : Flags) : State := { s with vec := { s.vec with numstat := s.vec.numstat ||| f } }

/-- Flags raised in UPD_NUMSTAT (R69, R71). -/
def raiseUpd (s : State) (f : Flags) : State := { s with upd := { s.upd with numstat := s.upd.numstat ||| f } }

end Sys2Proof.Machine
end

