-- ==== Sys2Proof/Machine/Status.lean ====
section
/-! DEFINITION. The status codes of the cluster (15, R390, Table 15-11). -/

namespace Sys2Proof.Machine

abbrev Code := BitVec 16

def stOk : Code := 0x0000
def eBadval : Code := 0x0101
def eBadstate : Code := 0x0102
def eFull : Code := 0x0103
def eBufsize : Code := 0x0201
def eAlign : Code := 0x0202
def eRowfit : Code := 0x0203
def eOverlap : Code := 0x0204
def eLubudget : Code := 0x0205
def eFeature : Code := 0x0206
def eOutset : Code := 0x0207
def eSlots : Code := 0x0208
def eTshape : Code := 0x0301
def eTempty : Code := 0x0302
def eScenelate : Code := 0x0303
def eStatopen : Code := 0x0304
def eCoderange : Code := 0x0305
def eUpdver : Code := 0x0306
def eUpdlimit : Code := 0x0307
def eAborted : Code := 0x0308
def eXlate : Code := 0x0401
def eUncorr : Code := 0x0402
def eNotarget : Code := 0x0403
def eReplayed : Code := 0x0501
def eWithdrawn : Code := 0x0502
def eConfigConflict : Code := 0x0503
def eCtlrestart : Code := 0x0504
def eNoimage : Code := 0x0505
def eChkmismatch : Code := 0x0506
def eLockstep : Code := 0x0507
def eDecode : Code := 0x0508
def eHardfault : Code := 0x0509
def ePort : Code := 0x0601
def eTenant : Code := 0x0602
def eLink : Code := 0x0701
def eRingpart : Code := 0x0702
def eRingmatch : Code := 0x0703
def eStrayresp : Code := 0x0704

end Sys2Proof.Machine
end

