-- ==== Sys2Proof/Machine/Ops.lean ====
section
/-! DEFINITION. The named operations over registers and storage: scalar, vector and mask registers, tile registers (04),
scratchpad and buffers (04), Firn rows (05), sticky flags (03), counters (18, 19). -/

namespace Sys2Proof.Machine

open Sys2Proof

/-! ## Registers -/

/-- Scalar register `r` (09, R215). -/
def getS (s : State) (r : BitVec 5) : DWord := s.seq.s[r.toNat]

/-- Write of scalar register `r` (09, R215). -/
def setS (s : State) (r : BitVec 5) (v : DWord) : State :=
  { s with seq := { s.seq with s := s.seq.s.set r.toNat v } }

/-- Vector register `r` (07, R159). -/
def getV (s : State) (r : BitVec 5) : VReg := s.vec.v[r.toNat]

/-- Write of vector register `r` (07, R159). -/
def setV (s : State) (r : BitVec 5) (v : VReg) : State :=
  { s with vec := { s.vec with v := s.vec.v.set r.toNat v } }

/-- Mask register `k`; K0 reads as 512 ones (07, R159). -/
def getK (s : State) (k : BitVec 3) : Mask := if k = 0 then BitVec.allOnes 512 else s.vec.k[k.toNat]

/-- Write of mask register `k`; a write of K0 is discarded, since no instruction may name it (07, R159). -/
def setK (s : State) (k : BitVec 3) (m : Mask) : State :=
  if k = 0 then s else { s with vec := { s.vec with k := s.vec.k.set k.toNat m } }

/-- Tile register `t` (04, R75). -/
def getT (s : State) (t : BitVec 4) : Tile := s.tiles[t.toNat]

/-- Write of tile register `t` (04, R77). -/
def setT (s : State) (t : BitVec 4) (x : Tile) : State := { s with tiles := s.tiles.set t.toNat x }

/-! ## Features, identity, counters -/

/-- Bit `b` of granted feature word 0 (02, Table 2-4, R35). -/
def feat0 (s : State) (b : Nat) : Bool := s.feat.grant0.getLsbD b

/-- Bit `b` of granted feature word 1 (02, Table 2-4, R35). -/
def feat1 (s : State) (b : Nat) : Bool := s.feat.grant1.getLsbD b

/-- The cluster's own ID (R21). -/
def selfId (s : State) : Nat := s.boot.ties.clusterId.toNat

/-- An instance that is RUNNING or DRAINING (R352, R448). -/
def instActive (i : Inst) : Bool := i.st == .running || i.st == .draining

/-- Counting is in force (18, R448). -/
def counting (s : State) : Bool :=
  feat1 s 16 && s.perf.en && !s.perf.freeze && (!s.perf.scene || s.seq.insts.any instActive)

/-- `n` occurrences of event `ev` (18 R448, 19 Table 19-2). -/
def perfAdd (s : State) (ev n : Nat) : State :=
  if counting s then
    { s with perf := { s.perf with
        cnt := s.perf.cnt.mapFinIdx fun i c h =>
          if (s.perf.sel[i]'h).toNat = ev then c + BitVec.ofNat 64 n else c } }
  else s

/-- The next program-order or instance number, and the state in which it is taken. -/
def fresh (s : State) : Nat × State := (s.seq.nextUid, { s with seq := { s.seq with nextUid := s.seq.nextUid + 1 } })

/-! ## Tile formats and shapes (04, Tables 4-1 to 4-3) -/

/-- Storage rows of a shape code. -/
def shapeRows (sh : BitVec 3) : Nat :=
  match sh.toNat with
  | 0 => 128
  | 1 => 128
  | 2 => 256
  | 3 => 64
  | 4 => 32
  | 5 => 256
  | _ => 0

/-- Row elements of a shape code. -/
def shapeCols (sh : BitVec 3) : Nat :=
  match sh.toNat with
  | 0 => 128
  | 1 => 256
  | 2 => 128
  | 3 => 512
  | 4 => 1024
  | 5 => 64
  | _ => 0

/-- The format of a tile format code (Table 4-2). -/
def tileFmt (f : BitVec 3) : Fmt := (fmtOf f.toNat).getD .fp32

/-- Bits per element of a tile format code. -/
def tileBits (f : BitVec 3) : Nat := fmtBits (tileFmt f)

/-- Row bytes (Table 4-3). -/
def rowBytes (sh f : BitVec 3) : Nat := shapeCols sh * tileBits f / 8

/-- Tile size in bytes (Table 4-3). -/
def tileBytes (sh f : BitVec 3) : Nat := shapeRows sh * rowBytes sh f

/-- A legal combination of shape and format (R75). -/
def tileLegal (sh f : BitVec 3) : Bool := decide (sh.toNat ≤ 5) && decide (tileBytes sh f ≤ 65536)

/-- The feature that a tile format code needs is granted (Table 4-2, R43). -/
def fmtGranted (s : State) (f : BitVec 3) : Bool :=
  match f.toNat with
  | 4 => feat0 s 8
  | 5 => feat0 s 8
  | 6 => feat0 s 9
  | _ => true

/-! ## Tile registers (04, R76 to R79) -/

/-- Ones over every line whose valid bit is set. -/
def lineOnes (valid : BitVec 64) : BitVec 524288 :=
  BitVec.ofNat 524288 ((List.range 64).foldl
    (fun acc l => if valid.getLsbD l then acc + (2 ^ 8192 - 1) * 2 ^ (8192 * l) else acc) 0)

/-- What a read of the register sees: invalid lines read as zero (R79). -/
def tileView (t : Tile) : BitVec 524288 := t.data &&& lineOnes t.valid

/-- The `n` bytes from byte `off`, little-endian (R76, R79). -/
def tileRead (t : Tile) (off n : Nat) : Nat := bvGet (tileView t) (8 * off) (8 * n)

/-- A write of `n` bytes at byte `off`: the rest of an invalid line becomes zero, every line written becomes valid, and
the register becomes FULL (R77, R79). -/
def tileWrite (t : Tile) (off n v : Nat) : Tile :=
  { t with data := bvPut (tileView t) (8 * off) (8 * n) v
           valid := (List.range 64).foldl
             (fun m l => if off < 1024 * (l + 1) ∧ 1024 * l < off + n then bvSet m l true else m) t.valid
           full := true }

/-- Configured, EMPTY, all lines invalid (R77, TCFG). -/
def tileConfig (sh f : BitVec 3) : Tile := ⟨0, 0, sh, f, false⟩

/-- EMPTY, all lines invalid, configuration unchanged (R77, TREL). -/
def tileRelease (t : Tile) : Tile := { t with data := 0, valid := 0, full := false }

/-- Element `e` of storage row `r` as a code (R76, R47). -/
def tileElem (t : Tile) (r e : Nat) : Nat :=
  bvGet (tileView t) (8 * rowBytes t.shape t.fmt * r + tileBits t.fmt * e) (tileBits t.fmt)

/-! ## Scratchpad (04, R88 to R94) -/

/-- One byte at a physical address: zero in an invalid line (R94). -/
def padGet (p : Pad) (a : Nat) : Byte := if p.valid.getLsbD (a / 1024) then memGet p.cells a else 0

/-- One byte written at a physical address: the rest of an invalid line becomes zero and the line valid (R94). -/
def padPut (p : Pad) (a : Nat) (b : Byte) : Pad :=
  if p.valid.getLsbD (a / 1024) then { p with cells := memPut p.cells a b }
  else { p with cells := memPut (p.cells.filter fun c => decide (c.1 / 1024 ≠ a / 1024)) a b
                valid := bvSet p.valid (a / 1024) true }

/-- The `n` bytes from physical address `a`. -/
def padRead (p : Pad) (a n : Nat) : List Byte := tabulate n fun i => padGet p (a + i)

/-- A list of bytes written from physical address `a` upward. -/
def padWrite (p : Pad) (a : Nat) : List Byte → Pad
  | [] => p
  | b :: bs => padWrite (padPut p a b) (a + 1) bs

/-- The line valid bits of a list of frames cleared (R93). -/
def padClearFrames (p : Pad) (fs : List Nat) : Pad :=
  { p with cells := p.cells.filter fun c => !fs.contains (c.1 / 65536)
           valid := fs.foldl (fun v f => bvPut v (64 * f) 64 0) p.valid }

/-- A prefetched granule has a position among the `n` bytes from physical address `a`. -/
def unreadIn (a n : Nat) (u : Unread) : Bool := u.cells.any fun c => decide (c.1 < a + n) && decide (a < c.1 + c.2)

/-! ## Buffers and the frame pool (04, R90 to R94) -/

/-- The buffer that handle `h` names for the instance `uid`: its scene buffer, or a window buffer (R91). -/
def findBuf (s : State) (uid h : Nat) : Option Buf :=
  s.strm.bufs.find? fun b => b.handle == h && (b.owner == some uid || b.owner == none)

/-- Bytes in the buffer of handle `h`; 0 when it is not declared. -/
def bufBytes (s : State) (uid h : Nat) : Nat :=
  match findBuf s uid h with
  | some b => b.size
  | none => 0

/-- Physical address of offset `o` of a buffer (R94). -/
def bufPhys (b : Buf) (o : Nat) : Nat := b.frames.getD (o / 65536) 0 * 65536 + o % 65536

/-- The `n` bytes from offset `o` of handle `h` (R94). -/
def bufRead (s : State) (uid h o n : Nat) : List Byte :=
  match findBuf s uid h with
  | some b => tabulate n fun i => padGet s.pad (bufPhys b (o + i))
  | none => []

/-- Bytes written from offset `o` of a buffer upward (R94). -/
def padWriteBuf (p : Pad) (b : Buf) (o : Nat) : List Byte → Pad
  | [] => p
  | x :: xs => padWriteBuf (padPut p (bufPhys b o) x) b (o + 1) xs

/-- Bytes written from offset `o` of handle `h` upward (R94). -/
def bufWrite (s : State) (uid h o : Nat) (bs : List Byte) : State :=
  match findBuf s uid h with
  | some b => { s with pad := padWriteBuf s.pad b o bs }
  | none => s

/-- A read by a requester of Table 4-7 uses the prefetched granules that it touches: each is used once, and is late when a
read has waited for it (19, R455). -/
def padUse (s : State) (a n : Nat) : State :=
  let used := s.pad.fresh.filter (unreadIn a n)
  if used.isEmpty then s
  else
    perfAdd (perfAdd { s with pad := { s.pad with fresh := s.pad.fresh.filter fun u => !unreadIn a n u } }
      0x0302 used.length) 0x0303 (used.filter (·.late)).length

/-- Prefetched granules dropped before any read (19, R455). -/
def padDiscard (s : State) (gone : Unread → Bool) : State :=
  perfAdd { s with pad := { s.pad with fresh := s.pad.fresh.filter fun u => !gone u } } 0x0304
    (s.pad.fresh.filter gone).length

/-- The pieces of physical memory that offsets `o` to `o + n - 1` of a buffer occupy: first address and length, cut at the
frames. -/
def bufPieces (b : Buf) (o n : Nat) : List (Nat × Nat) :=
  (List.range ((o + n + 65535) / 65536 - o / 65536)).map fun k =>
    let lo := max o ((o / 65536 + k) * 65536)
    (bufPhys b lo, min (o + n) ((o / 65536 + k + 1) * 65536) - lo)

/-- As `padUse`, for offsets `o` to `o + n - 1` of handle `h`. -/
def bufUse (s : State) (uid h o n : Nat) : State :=
  match findBuf s uid h with
  | some b => (bufPieces b o n).foldl (fun t p => padUse t p.1 p.2) s
  | none => s

/-- Frames that a buffer holds now, of any owner. -/
def usedFrames (s : State) : List Nat := (s.strm.bufs.map (·.frames)).flatten

/-- Free frames, ascending (R93). -/
def freeFrames (s : State) : List Nat := (List.range 512).filter fun f => !(usedFrames s).contains f

/-- Scene buffers allocated in the order of the list to the lowest free frames (R93). -/
def allocFrames (uid : Nat) : List Nat → List (Nat × Nat) → List Buf
  | _, [] => []
  | free, (h, size) :: rest =>
    ⟨some uid, h, size, free.take (ceilDiv size 65536)⟩ :: allocFrames uid (free.drop (ceilDiv size 65536)) rest

/-- A declaration put into a list in ascending handle order. -/
def handleInsert (x : Nat × Nat) : List (Nat × Nat) → List (Nat × Nat)
  | [] => [x]
  | y :: ys => if x.1 ≤ y.1 then x :: y :: ys else y :: handleInsert x ys

/-- Scene buffers allocated in ascending handle order, whatever the order of the declarations (R93). -/
def allocBufs (uid : Nat) (free : List Nat) (decls : List (Nat × Nat)) : List Buf :=
  allocFrames uid free (decls.foldr handleInsert [])

/-- The buffers of a run returned to the pool; what the run prefetched and nothing has read is discarded (R93, R455). -/
def freeBufs (s : State) (uid : Nat) : State :=
  let s := padDiscard s fun u => u.uid == uid
  { s with strm := { s.strm with bufs := s.strm.bufs.filter fun b => b.owner != some uid } }

/-! ## Firn (05, R118 to R123) -/

/-- The key of row `r` of slice `a`. -/
def firnKey (a r : Nat) : Nat := a * 2048 + r

/-- Row `r` of slice `a`. -/
def firnRow (s : State) (a r : Nat) : FirnRow := (kGet s.firn.rows (firnKey a r)).getD .reset

/-- Row `r` of slice `a` written; a row as after R120 is not listed. -/
def setFirnRow (s : State) (a r : Nat) (x : FirnRow) : State :=
  { s with firn := { s.firn with rows := kSet s.firn.rows (firnKey a r) (if x = .reset then none else some x) } }

/-- The word of column `c` of a row (+0 in a ZERO row). -/
def firnWord (x : FirnRow) (c : Nat) : Nat := if x.zero then 0 else bvGet x.words (32 * c) 32

/-- Statistics row `r` (08, R199). -/
def statRow (s : State) (r : Nat) : StatRow := (kGet s.firn.stats r).getD .reset

/-- Statistics row `r` written; a row as after R120 is not listed. -/
def setStatRow (s : State) (r : Nat) (x : StatRow) : State :=
  { s with firn := { s.firn with stats := kSet s.firn.stats r (if x = .reset then none else some x) } }

/-! ## Lists of records -/

/-- Every element for which `p` holds mapped by `f`. -/
def mapIf {α : Type} (p : α → Bool) (f : α → α) (l : List α) : List α := l.map fun x => if p x then f x else x

/-- The lowest number in `lo` to `lo + n - 1` that is not in the list. -/
def lowestFree (used : List Nat) (lo n : Nat) : Option Nat :=
  ((List.range n).map (· + lo)).find? fun k => !used.contains k

end Sys2Proof.Machine
end

