-- ==== Sys2Proof/Machine/Events.lean ====
section
/-! DEFINITION. What several units share: the event log (14), notices (15), Stage Door output (11), leases (12),
cancellation of protected updates (13), the ending of a run, check events (14, R352 to R359) and precise faults (09,
R221). -/

namespace Sys2Proof.Machine

open Sys2Proof

/-! ## Instances -/

/-- The instance with a uid. -/
def findInst (s : State) (uid : Nat) : Option Inst := s.seq.insts.find? fun i => i.uid == uid

/-- The instance with a uid changed by `f`. -/
def setInst (s : State) (uid : Nat) (f : Inst → Inst) : State :=
  { s with seq := { s.seq with insts := mapIf (fun i => i.uid == uid) f s.seq.insts } }

/-- Index of an instance in the pending list (POSITION). -/
def instPos (s : State) (uid : Nat) : Nat := s.seq.insts.findIdx fun i => i.uid == uid

/-- The RUNNING instance, otherwise the earliest DRAINING one (R352). -/
def activeInst (s : State) : Option Inst :=
  match s.seq.insts.find? fun i => i.st == .running with
  | some i => some i
  | none => s.seq.insts.find? fun i => i.st == .draining

/-- Dependences of a scene (09, R231). -/
def sceneDeps (s : State) (scene : Nat) : List Nat :=
  match s.seq.modl with
  | some m => ((m.scenes[scene]?).map (·.deps)).getD []
  | none => []

/-- WAITING or READY by R231: WAITING while an instance that stands earlier has a SCENE_ID among the dependences. -/
def depState (s : State) (before : List Inst) (scene : Nat) : InstState :=
  if before.any fun j => (sceneDeps s scene).contains j.scene then .waiting else .ready

/-- WAITING instances whose last dependence is gone become READY (R231). -/
def wakeInsts (s : State) : List Inst → List Inst → List Inst
  | _, [] => []
  | before, i :: rest =>
    (if i.st == .waiting then { i with st := depState s before i.scene } else i) :: wakeInsts s (before ++ [i]) rest

/-- R231 over the whole list. -/
def wakeAll (s : State) : State := { s with seq := { s.seq with insts := wakeInsts s [] s.seq.insts } }

/-! ## The event log (14, R366) -/

/-- An event-log entry without its SEQ (Table 14-8). -/
def logWord (code : Code) (src flags : Nat) (tick : DWord) (scene replays unit loc addr : Nat) : BitVec 256 :=
  BitVec.ofNat 256 (code.toNat * 2 ^ 32 + src % 256 * 2 ^ 48 + flags % 256 * 2 ^ 56 + tick.toNat * 2 ^ 64
    + scene % 65536 * 2 ^ 128 + replays % 256 * 2 ^ 144 + unit % 256 * 2 ^ 152 + loc % 2 ^ 32 * 2 ^ 160
    + addr % 2 ^ 64 * 2 ^ 192)

/-- The entry written at HEAD with the next SEQ; HEAD and LOST follow R366. -/
def logAdd (s : State) (e : BitVec 256) : State :=
  let full := s.chk.log[s.chk.head.toNat] != 0
  { s with chk := { s.chk with
      log := s.chk.log.set s.chk.head.toNat (e ||| s.chk.logSeq.zeroExtend 256)
      head := s.chk.head + 1
      logSeq := s.chk.logSeq + 1
      lost := if full && s.chk.lost ≠ 0xFFFF then s.chk.lost + 1 else s.chk.lost } }

/-! ## Notices (15, R384, R385) -/

/-- A notice entry without its SEQ (Table 15-8). -/
def noticeWord (kind : Nat) (status : Code) (scene pos : Nat) (handle : Word) (t0 t1 : DWord)
    (info record updc upds leases detail : Nat) (addr lease : Nat) (faultPc : BitVec 32) : BitVec 512 :=
  BitVec.ofNat 512 (kind * 2 ^ 32 + status.toNat * 2 ^ 48 + scene % 65536 * 2 ^ 64 + pos % 65536 * 2 ^ 80
    + handle.toNat * 2 ^ 96 + t0.toNat * 2 ^ 128 + t1.toNat * 2 ^ 192 + info % 256 * 2 ^ 256 + record % 256 * 2 ^ 264
    + updc % 65536 * 2 ^ 272 + upds % 65536 * 2 ^ 288 + leases % 256 * 2 ^ 304 + detail % 256 * 2 ^ 312
    + addr % 2 ^ 64 * 2 ^ 320 + lease % 2 ^ 64 * 2 ^ 384 + faultPc.toNat * 2 ^ 448)

/-- A notice put at HEAD of a queue (R384). -/
def mbxPut (m : Mailbox) (n : BitVec 512) : Mailbox :=
  { m with ntc := m.ntc.set (m.head.toNat % 32) (n ||| m.head.zeroExtend 512) (Nat.mod_lt _ (by decide))
           head := m.head + 1 }

/-- A queue takes another notice. -/
def mbxRoom (m : Mailbox) : Bool := decide ((m.head - m.tail).toNat < 32)

/-- A notice posted, or held back while the queue is full (R384). -/
def mbxPost (m : Mailbox) (n : BitVec 512) : Mailbox :=
  if m.held.isEmpty && mbxRoom m then mbxPut m n else { m with held := m.held ++ [n] }

/-- Held notices posted as entries are freed (R384). -/
def mbxFlush (m : Mailbox) : List (BitVec 512) → Mailbox
  | [] => { m with held := [] }
  | n :: ns => if mbxRoom m then mbxFlush (mbxPut m n) ns else { m with held := n :: ns }

/-- MBX_IRQ_STAT bits set (R391). -/
def irqSet (s : State) (b : BitVec 4) : State := { s with ctl := { s.ctl with irqStat := s.ctl.irqStat ||| b } }

/-- A notice to the management mailbox, and to the user mailbox for an instance whose origin it is (R384). -/
def postNotice (s : State) (toUser : Bool) (n : BitVec 512) : State :=
  let posted := s.ctl.mgmt.held.isEmpty && mbxRoom s.ctl.mgmt
  let s := { s with ctl := { s.ctl with
      mgmt := mbxPost s.ctl.mgmt n
      user := if toUser then mbxPost s.ctl.user n else s.ctl.user } }
  if posted then irqSet s 2 else s

/-- Bits of a list of Booleans, element k in bit k. -/
def bitsOf (l : List Bool) : Nat := pack 1 (l.map bit)

/-- The completion notice of an instance (Table 15-8, R385). -/
def completionNotice (s : State) (i : Inst) (status : Code) (released : Bool) (leases : Nat) (pc : BitVec 32) : State :=
  postNotice s (i.origin == .user)
    (noticeWord 1 status i.scene (instPos s i.uid) i.handle i.tick0 s.pwr.tickNum
      (bit i.everLate + 2 * bit i.replayed + 4 * bit released + 8 * i.replays) 0
      (bitsOf (i.upds.map (·.committed))) (bitsOf (i.upds.map (·.skipped))) leases 0 0 0 pc)

/-- A lease notice (R322, R323, R385). `info` is 1 for expired, 2 for done, 0 for unfinished. -/
def leaseNotice (s : State) (l : Lease) (info : Nat) : State :=
  match findInst s l.uid with
  | some i =>
    postNotice s (i.origin == .user)
      (noticeWord 3 stOk i.scene (instPos s i.uid) i.handle l.tick s.pwr.tickNum info 0 0 0 0 0 l.addr
        (l.first.toNat + l.count.toNat * 2 ^ 32 + l.epoch.toNat * 2 ^ 48) 0)
  | none => s

/-- The leases of an instance ended, each reported with `info` (R322, R323). -/
def endLeases (s : State) (uid info : Nat) : State :=
  let s := (s.strm.leases.filter fun l => l.uid == uid).foldl (fun t l => leaseNotice t l info) s
  { s with strm := { s.strm with leases := s.strm.leases.filter fun l => l.uid != uid } }

/-- The logged leases of entries that are discarded, which no CLAIM of the replay has matched, ended as unfinished
(12, R325). -/
def endLoggedLeases (s : State) (es : List AlogEntry) : State :=
  let ks := es.filterMap (·.lease)
  let s := (s.strm.leases.filter fun l => ks.contains l.key).foldl (fun t l => leaseNotice t l 0) s
  { s with strm := { s.strm with leases := s.strm.leases.filter fun l => !ks.contains l.key } }

/-! ## Ring-stop output (11) -/

/-- A stop in pass-through (11, R299). -/
def passThrough (s : State) : Bool :=
  !s.boot.poreset || !s.boot.clreset || !s.boot.released || s.chk.withdrawn || s.rev.pt

/-- What a stop in pass-through originates (11, R299). -/
def mayOriginate (s : State) (m : StageMsg) : Bool :=
  !passThrough s ||
    match m with
    | .curtain _ => false
    | .groupEnd _ _ _ => false
    | .groupReplay _ _ _ => false
    | _ => true

/-- A Stage Door message put in the output queue of a port. -/
def stageOut (p : Port) (m : StageMsg) : Port := { p with out := p.out ++ [⟨3, 0, true, 0, 0, false, .stage m⟩] }

/-- A Stage Door message queued east (R297). -/
def pushStage (s : State) (m : StageMsg) : State :=
  { s with rev := { s.rev with east := stageOut s.rev.east m } }

/-- A Stage Door message queued on every side whose link is up: how one reaches every stop of the line that a ring with a down
link has become (R301; log 48). -/
def pushLine (s : State) (m : StageMsg) : State :=
  let put := fun p : Port => if p.dead then p else stageOut p m
  { s with rev := { s.rev with east := put s.rev.east, west := put s.rev.west } }

/-- A Stage Door message that this stop originates on a trained ring (R297, R299, R301). -/
def sendStage (s : State) (m : StageMsg) : State :=
  if s.rev.done && mayOriginate s m then (if s.rev.line then pushLine s m else pushStage s m) else s

/-- GROUP_ABANDON of a ring scene (R296). -/
def sendAbandon (s : State) (i : Inst) (status : Code) : State :=
  if i.ringScene then sendStage s (.groupAbandon i.gtag i.grun status s.boot.ties.clusterId) else s

/-! ## Flits (11, Table 11-2) -/

def flVc (f : Flit) : Nat := bvGet f.hdr 0 2
def flType (f : Flit) : Nat := bvGet f.hdr 2 2
def flSrc (f : Flit) : Nat := bvGet f.hdr 4 6
def flCh (f : Flit) : BitVec 2 := BitVec.ofNat 2 (bvGet f.hdr 10 2)
def flMask (f : Flit) : BitVec 64 := BitVec.ofNat 64 (bvGet f.hdr 12 64)
def flGtag (f : Flit) : BitVec 16 := BitVec.ofNat 16 (bvGet f.hdr 76 16)
def flRun (f : Flit) : BitVec 4 := BitVec.ofNat 4 (bvGet f.hdr 92 4)
def flRid (f : Flit) : Nat := bvGet f.hdr 96 8

/-- The RRED fields of a VC1 flit: ROP, RSF, RDF and RLEN. -/
def flRed (f : Flit) : Nat × Bool × Bool × Nat :=
  (bvGet f.hdr 104 2, bvGet f.hdr 106 1 == 1, bvGet f.hdr 107 1 == 1, bvGet f.hdr 108 24)

/-- A flit header but for its VC1 fields. -/
def flHeader (vc type src : Nat) (ch : BitVec 2) (mask : BitVec 64) (gtag : BitVec 16) (run : BitVec 4) : Nat :=
  vc + type * 2 ^ 2 + src * 2 ^ 4 + ch.toNat * 2 ^ 10 + mask.toNat * 2 ^ 12 + gtag.toNat * 2 ^ 76 + run.toNat * 2 ^ 92

/-- A flit with its MASK replaced. -/
def setMask (f : Flit) (m : BitVec 64) : Flit := { f with hdr := bvPut f.hdr 12 64 m.toNat }

/-- The flit names this cluster. -/
def namesUs (s : State) (f : Flit) : Bool := (flMask f).getLsbD (selfId s)

/-- The instance is a member of a group: it became a ring scene in this run or in an earlier one that this run replays
(R281, R295). -/
def inGroup (i : Inst) : Bool := i.gmask != 0 && (instActive i || i.st == .replayPending)

/-- The flit is of another run of the stop's current group (R285, R295). -/
def staleFlit (s : State) (f : Flit) : Bool := s.seq.insts.any fun i => inGroup i && i.gtag == flGtag f && i.grun != flRun f

/-- The flit is of the current run of the stop's current group (R285, R295). -/
def currentFlit (s : State) (f : Flit) : Bool := s.seq.insts.any fun i => inGroup i && i.gtag == flGtag f && i.grun == flRun f

/-- Receive-buffer entries freed: one credit each (R276). -/
def freeEntries (p : Port) (fs : List Flit) : Port :=
  { p with crRet := p.crRet ++ fs.map fun f => (BitVec.ofNat 2 (flVc f), if flVc f = 0 then flCh f else 0) }

/-- Two VC0 flits of one sender and channel, which keep their order (R277). -/
def sameLine (f g : Flit) : Bool := flSrc f == flSrc g && flCh f == flCh g

/-- The first waiting flit for which `p` holds and which no earlier one of its sender and channel stands before, and the
others (R277). -/
def takeClear (p : Flit → Bool) : List Flit → List Flit → Option (Flit × List Flit)
  | _, [] => none
  | before, x :: xs =>
    if p x && !before.any (sameLine x) then some (x, before ++ xs) else takeClear p (before ++ [x]) xs

/-- A VC0 flit queued east from its receive-buffer entry, on behalf of the instruction that has used it, if any (R285). -/
def forwardEast (s : State) (uid seq : Nat) (f : Flit) : State :=
  { s with rev := { s.rev with east := { s.rev.east with
      out := s.rev.east.out ++ [⟨0, flCh f, false, uid, seq, true, .flit f⟩] } } }

/-- The VC0 flits that do not name this cluster and only waited behind earlier ones of their sender and channel go on (R277,
R285). -/
def passRx0 : Nat → State → State
  | 0, s => s
  | n + 1, s =>
    match takeClear (fun f => !namesUs s f) [] s.rev.rx0 with
    | some (f, rest) => passRx0 n (forwardEast { s with rev := { s.rev with rx0 := rest } } 0 0 f)
    | none => s

/-- Waiting flits that name this cluster and for which `gone` holds are discarded unused. -/
def purgeRx (s : State) (gone : Flit → Bool) : State :=
  let out := fun f => gone f && namesUs s f
  let keep := fun f => !out f
  passRx0 s.rev.rx0.length { s with rev := { s.rev with
      rx0 := s.rev.rx0.filter keep, rx1W := s.rev.rx1W.filter keep, rx1E := s.rev.rx1E.filter keep
      west := freeEntries s.rev.west ((s.rev.rx0 ++ s.rev.rx1W).filter out)
      east := freeEntries s.rev.east (s.rev.rx1E.filter out) } }

/-- Waiting flits of earlier runs are discarded (R295). -/
def purgeStale (s : State) : State := purgeRx s (staleFlit s)

/-- Flits of an instance that it has not injected are dropped from an output queue (R354 step 1). -/
def dropOut (p : Port) (uid : Nat) : Port :=
  { p with out := p.out.filter fun o => !(o.inject && o.uid == uid && o.vc != 3) }

/-! ## Protected updates (13, R343) -/

/-- A bit of an update record's OPT (R329). -/
def updOpt (recd : BitVec 2048) (b : Nat) : Bool := bvGet recd (8 + b) 1 == 1

/-- A protected update that will commit: PROT, and not the first of two passes (R337, R341). -/
def updCommits (recd : BitVec 2048) : Bool := updOpt recd 0 && !updOpt recd 4

/-- The end of a protected update recorded in UPD_LAST (R349). -/
def updLast (s : State) (outcome : BitVec 2) (code : Code) : State :=
  { s with upd := { s.upd with last := ⟨true, outcome, code⟩ } }

/-- A protected update's commit cancelled: counted, and its entry of the uncommitted-update record removed (R343, R408). -/
def cancelOne (s : State) (uid k : Nat) (outcome : BitVec 2) (code : Code) : State :=
  let s := updLast s outcome code
  { s with upd := { s.upd with
      nCancel := s.upd.nCancel + 1
      record := s.upd.record.filter fun r => !(r.1 == uid && r.2.1 == k) } }

/-- The event-log entry of a protected update that an ended run did not commit (Source 13; 14 Tables 14-8, 14-9). -/
def updLogWord (s : State) (uid : Nat) (u : UpdOutcome) (status : Code) : BitVec 256 :=
  let i := findInst s uid
  logWord status 13 0 s.pwr.tickNum ((i.map (·.scene)).getD 0) ((i.map (·.replays)).getD 0) 0 0 u.ver.toNat

/-- The commits that a run has not issued are cancelled, its computation dropped, and its uncommitted protected updates
noted for the event log after the next release (R343). -/
def cancelUpds (s : State) (uid : Nat) (status : Code) : State :=
  let waiting := s.upd.commits.filter fun c => c.uid == uid && !c.issued
  let s := waiting.foldl (fun t c => cancelOne t uid c.k 2 status) s
  let s := match s.upd.cur with
    | some u =>
      if u.uid == uid then
        let s := { s with upd := { s.upd with cur := none } }
        if updCommits u.recd then cancelOne s uid u.k 2 status else s
      else s
    | none => s
  let ups := ((findInst s uid).map (·.upds)).getD []
  let issued := fun k => s.upd.commits.any fun c => c.uid == uid && c.k == k && c.issued
  let todo := (ups.zipIdx.filter fun u => !u.1.committed && !u.1.pass1 && !issued u.2).map fun u =>
    updLogWord s uid u.1 status
  { s with
    upd := { s.upd with
      commits := s.upd.commits.filter fun c => !(c.uid == uid && !c.issued)
      writes := s.upd.writes.filter fun w => !(w.uid == uid && !w.issued) }
    chk := { s.chk with logTodo := s.chk.logTodo ++ todo } }

/-! ## Ending a run -/

/-- A stream that issues nothing further (R221, R354 step 2). -/
def stopStream (st : Stream) : Stream :=
  { st with stopped := true, cues := [], refetch := [], susp := none, walking := false }

/-- The units of a run stopped: fetching, the queues, the matrix engine, streams, the Aside path, reduction, updates
(R221, R354 steps 1 to 3; 10 R271). -/
def stopUnits (s : State) (uid : Nat) (status : Code) : State :=
  let ids := (s.strm.streams.filter fun st => st.uid == uid).map (·.id)
  let s := { s with
    seq := { s.seq with
      run := s.seq.run.map fun r => if r.uid = uid then { r with fetching := false, fault := none } else r
      queue := s.seq.queue.filter fun e => e.uid != uid }
    mat := { s.mat with
      stores := s.mat.stores.filter fun p => p.uid != uid
      jobs := s.mat.jobs.filter fun j => j.uid != uid
      bgFor := s.mat.bgFor.filter fun q => !(s.mat.jobs.any fun j => j.uid == uid && j.seq == q) }
    strm := { s.strm with
      streams := mapIf (fun st => st.uid == uid) stopStream s.strm.streams
      asides := s.strm.asides.filter fun a => a.uid != uid || a.issued
      sorter := s.strm.sorter.filter fun e => !ids.contains e.id }
    rev := { s.rev with
      east := dropOut s.rev.east uid
      west := dropOut s.rev.west uid
      red := s.rev.red.filter fun r => r.uid != uid } }
  cancelUpds s uid status

/-- The units of a run stop and its ending is recorded; it is finished once nothing of it is in flight (R221, R354). -/
def stopRun (s : State) (uid : Nat) (e : Ending) : State :=
  setInst (stopUnits s uid e.status) uid fun i => { i with ending := some e }

/-- A run is ended. `tell` says that this member tells its group (R294, R296, R404); a check event of a ring scene, its own
or another member's, raises the RUN of the group (R294). -/
def endRun (s : State) (uid : Nat) (e : Ending) (tell : Bool) : State :=
  match findInst s uid with
  | none => s
  | some i =>
    let s := stopRun s uid e
    match e.kind with
    | .check =>
      if !tell || i.ringScene then
        let s := if tell then sendStage s (.groupReplay i.gtag i.grun s.boot.ties.clusterId) else s
        purgeStale (setInst s uid fun i => { i with grun := i.grun + 1, gends := [] })
      else s
    | _ => if tell then sendAbandon s i e.status else s

/-- Nothing of the run is in flight on the fabric port, or has arrived and not been written (R221, R354 step 4). -/
def quiesced (s : State) (uid : Nat) : Bool :=
  s.strm.reqs.all (fun r => r.uid != some uid) && s.strm.landed.all fun l => l.req.uid != some uid

/-- Frames, stream slots and sequencer context of a run freed (R221, R354 step 5, R234). -/
def freeRun (s : State) (uid : Nat) : State :=
  let s := freeBufs s uid
  { s with
    strm := { s.strm with
      streams := s.strm.streams.filter fun st => st.uid != uid
      asides := s.strm.asides.filter fun a => a.uid != uid }
    seq := { s.seq with run := s.seq.run.filter fun r => r.uid != uid } }

/-- The hold of R222 follows whether an ABANDONED instance remains (R380, R381). -/
def liftHold (s : State) : State :=
  { s with seq := { s.seq with held := s.seq.held && s.seq.insts.any fun i => i.st == .abandoned } }

/-- Instances removed from the pending list; the others are considered again under R231. -/
def removeInsts (s : State) (p : Inst → Bool) : State :=
  wakeAll (liftHold { s with seq := { s.seq with insts := s.seq.insts.filter fun i => !p i } })

/-- A run ended by a fault or an abort becomes ABANDONED, or is removed at once when the same command removes it
(R221, R222, R323, R380, R385). -/
def finishEnd (s : State) (i : Inst) (e : Ending) : State :=
  let s := freeRun s i.uid
  let s := setInst s i.uid fun i =>
    { i with st := .abandoned, ending := none, slots := [], alog := [], alogReplay := false, faultPc := e.pc }
  let s := { s with seq := { s.seq with held := true } }
  let s := endLeases s i.uid 0
  if e.remove then
    removeInsts (completionNotice s i eAborted false 0 0) fun j => j.uid == i.uid
  else completionNotice s i e.status false 0 e.pc

/-- The first run that has been ended by a fault or an abort and is quiescent. -/
def endedRun (s : State) : Option (Inst × Ending) :=
  s.seq.insts.findSome? fun i =>
    match i.ending with
    | some e => if e.kind != .check && quiesced s i.uid && !s.chk.withdrawn then some (i, e) else none
    | none => none

/-- Every run that has been ended by a fault or an abort and is quiescent is finished. -/
def settleN : Nat → State → State
  | 0, s => s
  | n + 1, s =>
    match endedRun s with
    | some (i, e) => settleN n (finishEnd s i e)
    | none => s

/-- As `settleN` over the whole pending list. -/
def settle (s : State) : State := settleN s.seq.insts.length s

/-- The RUNNING or DRAINING run `uid` is abandoned with a status that is not a precise fault of its own instruction
(12 R320, R458; 10 R270; 13 R347; 11 R296). -/
def abandonRun (s : State) (uid : Nat) (status : Code) (tell : Bool) : State :=
  match findInst s uid with
  | some i =>
    if instActive i && i.ending.isNone then
      settle (endRun s uid ⟨.leave, status, 0, false, false, none⟩ tell)
    else s
  | none => s

/-- A precise fault of an instruction, once every earlier one is complete (09, R221): SEQ_FAULT and SEQ_FAULTPC, and the
run abandoned. -/
def preciseFault (s : State) (r : Run) (code : Code) (pc : Nat) : State :=
  match findInst s r.uid with
  | some i =>
    let pcw := BitVec.ofNat 32 pc
    let s := { s with seq := { s.seq with fault := ⟨true, BitVec.ofNat 12 i.scene, code, pcw⟩ } }
    settle (endRun s r.uid ⟨.fault, code, pcw, false, false, none⟩ true)
  | none => s

/-! ## Check events (14, R352 to R360) -/

/-- Events of the history whose ticks lie within a window of the latest (R359). -/
def inWindow (h : List PastEvent) (now : DWord) (window : Nat) (p : PastEvent → Bool) : Nat :=
  (h.filter fun e => p e && decide (now.toNat < e.tick.toNat + window)).length

/-- A condition of Table 14-4 holds once the event `e` has joined the history. `loc` is 0 for an event that is not an
uncorrectable error of a location of the table. -/
def hardFault (h : List PastEvent) (e : PastEvent) : Bool :=
  (e.loc != 0 && decide (inWindow h e.tick 65536 (fun x => x.src == e.src && x.loc == e.loc) ≥ 2))
    || (e.src == 8 && decide (inWindow h e.tick 1024 (fun x => x.src == 8) ≥ 2))
    || (e.src == 7 && decide (inWindow h e.tick 1024 (fun x => x.src == 7) ≥ 2))
    || decide (inWindow h e.tick 1024 (fun _ => true) ≥ 8)

/-- The event-log entry of a run that was ending by a check event and will not be replayed: FLAGS [1] for [0] (R366;
DEDUCED, log 10). -/
def entryWithdrawn (w : BitVec 256) : BitVec 256 := bvPut w 56 2 2

/-- The entries that runs ending by a check event would log as they enter REPLAY_PENDING, logged because a withdrawal
overtakes them (R354 step 6, R355). -/
def logEndings (s : State) : State :=
  let s := (s.seq.insts.filterMap fun i => i.ending.bind (·.entry)).foldl (fun s w => logAdd s (entryWithdrawn w)) s
  { s with seq := { s.seq with insts := s.seq.insts.map fun i =>
      { i with ending := i.ending.map fun e => { e with entry := none } } } }

/-- The trigger of R360: withdrawn from this moment (R363), cause recorded, withdrawal logged (Source 14). -/
def triggerWithdraw (s : State) (src : Nat) (code : Code) : State :=
  if s.chk.withdrawn then s
  else
    let i := activeInst s
    let s := logEndings s
    logAdd { s with chk := { s.chk with withdrawn := true, causeSrc := BitVec.ofNat 8 src, causeCode := code } }
      (logWord code 14 0 s.pwr.tickNum 0xFFFF 0 0 0
        ((i.map fun i => if i.ringScene then i.gtag.toNat + i.grun.toNat * 65536 else 0).getD 0))

/-- A check event that finds its run going on, or ending by a precise fault that it replaces (R355): the run ends and is
replayed, or the cluster withdraws where the counter is already at 3 or a condition of Table 14-4 holds (R357, R359).
`line` makes the log entry from its FLAGS. -/
def checkEnds (s : State) (i : Inst) (code : Code) (src : Nat) (hard : Bool) (line : Nat → BitVec 256) : State :=
  let wd := (hard || i.replays == 3) && !s.chk.withdrawn
  if wd then
    triggerWithdraw (stopRun (logAdd s (line 2)) i.uid ⟨.check, code, 0, false, true, none⟩) src eHardfault
  else
    let s := if s.chk.withdrawn then logAdd (stopRun s i.uid ⟨.check, code, 0, false, true, none⟩) (line 0)
      else endRun s i.uid ⟨.check, code, 0, false, true, some (line 1)⟩ true
    setInst s i.uid fun i => { i with replays := min 3 (i.replays + 1) }

/-- A check event in a run that another event is ending: logged with FLAGS [4], and nothing else changes (R355), but that a
run which GROUP_REPLAY is ending counts this member's own detection (Table 14-2, R358). -/
def checkAgain (s : State) (i : Inst) (o : Ending) (src : Nat) (hard : Bool) (line : Nat → BitVec 256) : State :=
  let own := o.kind == .check && !o.counted
  let wd := (hard || own && i.replays == 3) && !s.chk.withdrawn
  let s := logAdd s (line (16 + 2 * bit wd))
  if wd then triggerWithdraw s src eHardfault
  else if own && !s.chk.withdrawn then
    setInst s i.uid fun i =>
      { i with replays := min 3 (i.replays + 1), ending := i.ending.map fun e => { e with counted := true } }
  else s

/-- A check event (R352, R354 to R359; of a window read, Source 3 without an instance, unattributed by Table 14-1): counted, entered in the history, attributed, logged, and acted on. `who` names
the instance whose work found it; `unit`, `loc`, `addr` are the log fields; `key` is the location for Table 14-4. -/
def checkEvent (s : State) (code : Code) (src unit loc addr : Nat) (who : Option Nat) (key : Nat) : State :=
  let past : PastEvent := ⟨s.pwr.tickNum, src, key⟩
  let hist := s.chk.history ++ [past]
  let s := { s with chk := { s.chk with events := s.chk.events + 1, history := hist } }
  let hard := hardFault hist past && !s.chk.withdrawn
  let tick := s.pwr.tickNum
  let target : Option Inst :=
    if src = 17 ∨ (src = 3 ∧ who = none) then none
    else
      match who.bind (findInst s) with
      | some i => if instActive i then some i else activeInst s
      | none => activeInst s
  match target with
  | none =>
    let s := logAdd s (logWord code src (4 + 2 * bit hard) tick 0xFFFF 0 unit loc addr)
    if hard then triggerWithdraw s src eHardfault else s
  | some i =>
    let line := fun flags => logWord code src flags tick i.scene i.replays unit loc addr
    match i.ending with
    | none => checkEnds s i code src hard line
    | some o => if o.kind = .fault then checkEnds s i code src hard line else checkAgain s i o src hard line

/-! ## Storage errors (14, R350, R351) -/

/-- A corrected error counted in a field of CHK_CORR (R351). -/
def countCorr (s : State) (p : Place) : State :=
  let inc := fun c : Byte => if c = 0xFF then c else c + 1
  match p with
  | .pad _ => { s with chk := { s.chk with corrS := inc s.chk.corrS } }
  | .firn _ _ => { s with chk := { s.chk with corrF := inc s.chk.corrF } }
  | .tile _ _ => { s with chk := { s.chk with corrT := inc s.chk.corrT } }
  | _ => { s with chk := { s.chk with corrC := inc s.chk.corrC } }

/-- The key of a location in Table 14-4, never 0. -/
def placeKey (p : Place) : Nat :=
  match p with
  | .pad w => 1 + w
  | .firn a r => 1 + a * 2048 + r
  | .tile t l => 1 + t * 64 + l
  | .sram w => 1 + w
  | _ => 0

/-- SOURCE, UNIT and LOC of a location (14 Tables 14-1, 14-8). -/
def placeLog (p : Place) : Nat × Nat × Nat :=
  match p with
  | .pad w => (3, 0, w)
  | .firn a r => (4, a % 4, r)
  | .tile t l => (5, t, l)
  | .sram _ => (9, 0, 0)
  | _ => (6, 0, 0)

/-- A read meets the error of a mark: a corrected error is counted, another one is a check event with E_UNCORR (R350). -/
def meetMark (s : State) (who : Option Nat) (m : Mark) : State :=
  if m.hard then
    let l := placeLog m.place
    checkEvent s eUncorr l.1 l.2.1 l.2.2 0 who (placeKey m.place)
  else countCorr s m.place

/-- A read of the locations for which `at_` holds meets the errors that lie there. -/
def readMarks (s : State) (who : Option Nat) (at_ : Place → Bool) : State :=
  (s.chk.marks.filter fun m => at_ m.place).foldl (fun s m => meetMark s who m) s

/-- The locations for which `at_` holds have been written or invalidated: no error lies there (R351). -/
def dropMarks (s : State) (at_ : Place → Bool) : State :=
  if s.chk.marks.isEmpty then s
  else { s with chk := { s.chk with marks := s.chk.marks.filter fun m => !at_ m.place } }

/-- The location is a word of one of some frames. -/
def inFrames (fs : List Nat) (p : Place) : Bool :=
  match p with
  | .pad w => fs.contains (w / 8192)
  | _ => false

/-- The line valid bits of some frames cleared: their bytes read zero, and no error is read there (04 R93, R94; 14 R351). -/
def clearFrames (s : State) (fs : List Nat) : State := dropMarks { s with pad := padClearFrames s.pad fs } (inFrames fs)

/-- The location is in a tile register or in Firn. -/
def inWork (p : Place) : Bool :=
  match p with
  | .tile _ _ => true
  | .firn _ _ => true
  | _ => false

/-- The scratchpad words that lie in pieces of physical memory. -/
def inPieces (ps : List (Nat × Nat)) (p : Place) : Bool :=
  match p with
  | .pad w => ps.any fun q => decide (8 * w < q.1 + q.2) && decide (q.1 < 8 * w + 8)
  | _ => false

/-- Offsets `o` to `o + n - 1` of a handle read by an engine: the granules are used, and the errors met (19 R455; 14 R350). -/
def bufTake (s : State) (uid h o n : Nat) : State :=
  match findBuf s uid h with
  | some b => readMarks (bufUse s uid h o n) (some uid) (inPieces (bufPieces b o n))
  | none => s

/-- Pieces of a handle, each an offset and a length, read by one instruction: an error that lies in several of them is met
once (log 16). -/
def bufTakes (s : State) (uid h : Nat) (l : List (Nat × Nat)) : State :=
  match findBuf s uid h with
  | some b => readMarks (l.foldl (fun s x => bufUse s uid h x.1 x.2) s) (some uid)
      (inPieces (l.flatMap fun x => bufPieces b x.1 x.2))
  | none => s

/-- Row `r` of Firn slice `a`, or of the row statistics when `a` is 4, is read (14, R350). -/
def firnTake (s : State) (who : Nat) (a r : Nat) : State :=
  readMarks s (some who) fun p => p == .firn a r

/-- The location is a line of tile register `t` in which bytes `off` to `off + n - 1` lie. -/
def inTile (t : BitVec 4) (off n : Nat) (p : Place) : Bool :=
  match p with
  | .tile k l => k == t.toNat && decide (1024 * l < off + n) && decide (off < 1024 * (l + 1))
  | _ => false

/-- Bytes `off` to `off + n - 1` of a tile register are read (14, R350). -/
def tileTake (s : State) (who : Nat) (t : BitVec 4) (off n : Nat) : State := readMarks s (some who) (inTile t off n)

/-- A tile register with bytes `off` to `off + n - 1` written: no error lies in their lines any more (R351; log 16). -/
def putTile (s : State) (t : BitVec 4) (x : Tile) (off n : Nat) : State := dropMarks (setT s t x) (inTile t off n)

/-- Bytes written from offset `o` of handle `h` upward by an engine; errors that lay in the words written are gone (R351;
log 16). -/
def bufStore (s : State) (uid h o : Nat) (bs : List Byte) : State :=
  match findBuf s uid h with
  | some b => dropMarks (bufWrite s uid h o bs) (inPieces (bufPieces b o bs.length))
  | none => s

/-! ## Fabric requests (10 R254, 17 Table 17-2) -/

/-- The tenant ID of a request: the owner's (R23, R373). -/
def reqTid (s : State) : BitVec 12 := s.ctl.owner

/-- A request issued with the lowest free tag of a range; none when no tag is free (log 20). A read holds its tag until its
bytes are written (R254). A tag whose response to a
request issued before a reset is still to come is not free (16, R402). -/
def issueReq (s : State) (lo n : Nat) (r : Nat → Req) : Option State :=
  (lowestFree (s.strm.reqs.map (·.tag) ++ s.strm.landed.map (·.req.tag) ++ s.strm.orphans) lo n).map fun t =>
    { s with strm := { s.strm with reqs := s.strm.reqs ++ [r t] } }

/-- Bytes of a beat of the fabric port: 128 with FP_GEN 0, 256 with FP_GEN 1 (17, R423, Table 17-5). -/
def busBytes (s : State) : Nat := if s.boot.ties.fpGen then 256 else 128

/-- Byte enables for `n` bytes from address `a`, in the lanes of its 256-byte block (17, R423). -/
def laneMask (a n : Nat) : BitVec 256 := BitVec.ofNat 256 ((2 ^ n - 1) * 2 ^ (a % 256))

/-- Bytes placed in the lanes of address `a` (17, R423). -/
def laneData (a : Nat) (bs : List Byte) : BitVec 2048 := BitVec.ofNat 2048 (leNat bs * 2 ^ (8 * (a % 256)))

/-- The `n` bytes of address `a` from the lanes of its block (17, R423). -/
def laneGet (d : BitVec 2048) (a n : Nat) : Nat := bvGet d (8 * (a % 256)) (8 * n)

/-- The beats of `n` bytes from address `a`, given the byte enables and data in the lanes of their 256-byte block: one for
each aligned window of `w` bytes that they touch, ascending, the final one with LAST (17, R423, R424). -/
def busBeats (w a n : Nat) (mask : BitVec 256) (data : BitVec 2048) : List BusBeat :=
  let lo := a % 256 / w
  let hi := (a % 256 + n - 1) / w
  (List.range (hi + 1 - lo)).map fun k =>
    ⟨lo + k, BitVec.ofNat 256 (bvGet mask (w * (lo + k)) w), BitVec.ofNat 2048 (bvGet data (8 * w * (lo + k)) (8 * w)),
      decide (lo + k = hi)⟩

/-- A request without write data (17 Tables 17-2, 17-4). -/
def readReqOf (s : State) (tag : Nat) (op : BitVec 4) (addr len : Nat) (oc : BitVec 2) (uid : Option Nat) (owner : Owner) :
    Req :=
  ⟨tag, op, BitVec.ofNat 52 addr, BitVec.ofNat 2 len, 0, false, reqTid s, oc, 0, 0, 0, [], uid, owner⟩

/-- A WRITE or WRITEM of the bytes `bs` from address `pa`: their lanes, and the beats that carry them (17, R423, R424). -/
def writeReqOf (s : State) (tag : Nat) (op : BitVec 4) (pa : Nat) (bs : List Byte) (oc : BitVec 2) (uid : Option Nat)
    (owner : Owner) : Req :=
  let a := pa / 64 * 64
  let units := (pa % 64 + bs.length + 63) / 64
  let m := laneMask pa bs.length
  let d := laneData pa bs
  ⟨tag, op, BitVec.ofNat 52 a, BitVec.ofNat 2 (units - 1), 0, false, reqTid s, oc, m, d, 0,
    busBeats (busBytes s) a (64 * units) m d, uid, owner⟩

/-- An ATOMIC or CLAIM, whose operands stand at offset 0 of the one beat that carries them (17 Table 17-4). -/
def atomReqOf (s : State) (tag : Nat) (op : BitVec 4) (pa : Nat) (aop : BitVec 4) (sz : Bool) (operand : Nat)
    (uid : Option Nat) (owner : Owner) : Req :=
  let d := BitVec.ofNat 2048 operand
  ⟨tag, op, BitVec.ofNat 52 pa, 0, aop, sz, reqTid s, 2, 0, d, 0, [⟨0, 0, d, true⟩], uid, owner⟩

/-- The reserved tag ranges of 17 Table 17-2: first tag and count. -/
def tagsStream : Nat × Nat := (0, 4096)
def tagsAside : Nat × Nat := (4096, 64)
def tagsWalk : Nat × Nat := (4160, 16)
def tagsFirmware : Nat × Nat := (4176, 16)

/-- A firmware request issued with the lowest free tag from the `first`-th of the firmware tags on, and from all of them where
those are in use: which one firmware takes is not stated, so LOAD and COPY_EXAMINE carry it (logs 8, 20). -/
def issueFirmware (s : State) (first : BitVec 4) (r : Nat → Req) : Option State :=
  match issueReq s (tagsFirmware.1 + first.toNat) (tagsFirmware.2 - first.toNat) r with
  | some t => some t
  | none => issueReq s tagsFirmware.1 tagsFirmware.2 r

end Sys2Proof.Machine
end

