-- ==== Sys2Proof/Machine/StreamGeom.lean ====
section
/-! DEFINITION. Stream descriptors and the order in which a stream moves its 64-byte units (10, Table 10-2, R247 to R251,
R253), and how far a stream has come (R257, R258). -/

namespace Sys2Proof.Machine

open Sys2Proof

/-- The fields of a descriptor image (10 Table 10-2). -/
structure Desc where
  kind  : Nat
  xp    : Bool
  esz   : Nat
  sort  : Bool
  cvt   : Bool
  sat   : Bool
  sfmt  : BitVec 3
  dfmt  : BitVec 3
  h     : Nat
  gord  : Bool
  tord  : Bool
  tagq  : Nat
  gbase : Nat
  boff  : Nat
  ih    : Nat
  ioff  : Nat
  gstr  : Int
  cols  : Nat
  tc    : Nat
  rows  : Nat
  tr    : Nat
  sr    : Nat
  sc    : Nat
  nb    : Nat
  ilim  : Nat
  bstr  : Int
deriving DecidableEq, Repr, Inhabited

/-- Bits `lo` to `lo + n - 1` of field `f` of an image. -/
def imgBits (img : BitVec 512) (f lo n : Nat) : Nat := bvGet img (64 * f + lo) n

/-- The descriptor of an image (10 Table 10-2). -/
def descOf (img : BitVec 512) : Desc where
  kind := imgBits img 0 0 2
  xp := imgBits img 0 2 1 = 1
  esz := imgBits img 0 3 2
  sort := imgBits img 0 5 1 = 1
  cvt := imgBits img 0 6 1 = 1
  sat := imgBits img 0 7 1 = 1
  sfmt := BitVec.ofNat 3 (imgBits img 0 8 3)
  dfmt := BitVec.ofNat 3 (imgBits img 0 11 3)
  h := imgBits img 0 14 6
  gord := imgBits img 0 20 1 = 1
  tord := imgBits img 0 21 1 = 1
  tagq := imgBits img 0 24 10
  gbase := imgBits img 1 0 57
  boff := imgBits img 2 0 25
  ih := imgBits img 2 25 6
  ioff := imgBits img 2 31 25
  gstr := sext 48 (imgBits img 3 0 48)
  cols := imgBits img 4 0 24
  tc := imgBits img 4 24 24
  rows := imgBits img 5 0 24
  tr := imgBits img 5 24 24
  sr := imgBits img 6 0 16
  sc := imgBits img 6 16 16
  nb := imgBits img 6 32 16
  ilim := imgBits img 6 0 32
  bstr := sext 48 (imgBits img 7 0 48)

/-- Batches: NB of a dense stream, one for a gather. -/
def descNb (d : Desc) : Nat := if d.kind = 2 then 1 else d.nb

/-- LEN_G in bytes (R247, R249). -/
def lenG (d : Desc) : Nat := descNb d * d.rows * d.cols

/-- Buffer bytes that correspond to `n` global bytes (R247). -/
def rho (d : Desc) (n : Nat) : Nat := if d.cvt then n * tileBits d.sfmt / tileBits d.dfmt else n

/-- LEN in bytes of the buffer image (R247). -/
def descLen (d : Desc) : Nat := rho d (lenG d)

/-- Number of 64-byte units. -/
def unitCount (d : Desc) : Nat := lenG d / 64

/-- The order of R247: `split(t, a, c, ord)`. -/
def splitOrd (t a c : Nat) (ord : Bool) : Nat × Nat := if ord then (t % a, t / a) else (t / c, t % c)

/-- The global address of unit `u` of a dense stream (R247). -/
def denseAddr (d : Desc) (u : Nat) : Int :=
  let pos := 64 * u
  let batch := d.rows * d.cols
  let b := pos / batch
  let rem := pos % batch
  let tile := d.tr * d.tc
  let tix := rem / tile
  let within := rem % tile
  let ntr := d.rows / d.tr
  let ntc := d.cols / d.tc
  let (gi, gj) := splitOrd (tix / (d.sr * d.sc)) (ntr / d.sr) (ntc / d.sc) d.gord
  let (ti, tj) := splitOrd (tix % (d.sr * d.sc)) d.sr d.sc d.tord
  let i0 := (gi * d.sr + ti) * d.tr
  let j0 := (gj * d.sc + tj) * d.tc
  d.gbase + b * d.bstr + ((i0 + within / d.tc : Nat) : Int) * d.gstr + j0 + (within % d.tc : Nat)

/-- Units of one gather row. -/
def rowUnits (d : Desc) : Nat := d.cols / 64

/-- The buffer position of the first byte of the transposed tile that unit `u` belongs to, and the tile's bytes (R248). -/
def tileOfUnit (d : Desc) (u : Nat) : Nat × Nat := (64 * u / (d.tr * d.tc) * (d.tr * d.tc), d.tr * d.tc)

/-- The image positions that unit `u` fills or reads, as pieces of first position and length: one piece in place, and one
per element under XP, where element k of the unit stands in column c + k of its tile (R247, R248). -/
def unitPieces (d : Desc) (u : Nat) : List (Nat × Nat) :=
  if d.xp then
    let p0 := (tileOfUnit d u).1
    let e := 2 ^ d.esz
    let r := (64 * u - p0) / d.tc
    let c := (64 * u - p0) % d.tc / e
    (List.range (64 / e)).map fun k => (p0 + ((c + k) * d.tr + r) * e, e)
  else [(rho d (64 * u), rho d 64)]

/-- The end of the last image position of unit `u`. -/
def unitEnd (d : Desc) (u : Nat) : Nat := (unitPieces d u).foldl (fun m p => max m (p.1 + p.2)) 0

/-- The position up to which a Cue must let a stream go for unit `u` to be requested: the end of its tile under XP (R255). -/
def unitReach (d : Desc) (u : Nat) : Nat :=
  if d.xp then (tileOfUnit d u).1 + (tileOfUnit d u).2 else unitEnd d u

/-- Unit `u` has a position in image granule `g`. -/
def unitHits (d : Desc) (u g : Nat) : Bool :=
  (unitPieces d u).any fun p => decide (p.1 < 64 * (g + 1)) && decide (64 * g < p.1 + p.2)

/-- The units that have a position in image granule `g`: of its tile under XP. -/
def granUnits (d : Desc) (g : Nat) : List Nat :=
  if d.xp then
    let n := d.tr * d.tc / 64
    ((List.range n).map fun k => 64 * g / (d.tr * d.tc) * n + k).filter fun u => unitHits d u g
  else
    let per := rho d 64
    let lo := 64 * g / per
    (List.range ((64 * g + 63) / per + 1 - lo)).map (lo + ·)

/-- Image granules: the last one may be only partly within the image. -/
def imageGrans (d : Desc) : Nat := ceilDiv (descLen d) 64

/-- The global extent [lo, hi) (R251). -/
def descExtent (d : Desc) : Int × Int :=
  if d.kind = 2 then (d.gbase, d.gbase + ((d.ilim : Int) - 1) * d.gstr + d.cols)
  else
    let r : Int := d.gstr * ((d.rows : Int) - 1)
    let b : Int := d.bstr * ((d.nb : Int) - 1)
    (d.gbase + min 0 r + min 0 b, d.gbase + d.cols + max 0 r + max 0 b)

/-- The stream reads from global memory. -/
def descReads (d : Desc) : Bool := d.kind != 1

/-! ## Progress of a stream -/

/-- The requests of streams that have not had their effect: in flight, or answered and waiting to be written (R257). -/
def streamReqs (s : State) : List Req := s.strm.reqs ++ s.strm.landed.map (·.req)

/-- Unit `u` of a stream is in a request that has not had its effect. -/
def unitInFlight (s : State) (id u : Nat) : Bool :=
  (streamReqs s).any fun r =>
    match r.owner with
    | .stream j starts n skip => j == id && !skip.contains u && starts.any fun a => decide (a ≤ u ∧ u < a + n)
    | _ => false

/-- A stream has requests that have not had their effect. -/
def streamInFlight (s : State) (id : Nat) : Bool :=
  (streamReqs s).any fun r =>
    match r.owner with
    | .stream j _ _ _ => j == id
    | _ => false

/-- Unit `u` waits in the sorter window. -/
def unitInSorter (s : State) (id u : Nat) : Bool :=
  s.strm.sorter.any fun e => e.id == id && decide (e.start ≤ u ∧ u < e.start + e.n)

/-- Unit `u` of a stream is still to be delivered or, of a write stream, still to be read. -/
def unitPending (s : State) (st : Stream) (u : Nat) : Bool :=
  if descReads (descOf st.image) then
    unitInFlight s st.id u || unitInSorter s st.id u || st.refetch.contains u || (!st.stopped && decide (st.next ≤ u))
  else !st.stopped && decide (st.next ≤ u)

/-- A pending Cue that stands before `bound` in program order holds what follows it off position `p` (12, R316). -/
def cueBefore (st : Stream) (bound p : Nat) : Bool := st.cues.any fun c => decide (c.seq < bound) && decide (c.p < p)

/-- The stream's access to image granule `g` is not complete for an access that stands at `bound` in program order (R257;
12, R316). Under XP a granule is complete once it has been written whole (R272). -/
def granBusy (s : State) (st : Stream) (bound g : Nat) : Bool :=
  let d := descOf st.image
  (descReads d && !st.stopped && cueBefore st bound (64 * (g + 1)))
    || (if d.xp then !st.wrote.contains g && (!st.stopped || (granUnits d g).any (unitInFlight s st.id))
        else (granUnits d g).any (unitPending s st))

/-- A stream is complete (R258). -/
def streamComplete (s : State) (st : Stream) : Bool :=
  let d := descOf st.image
  !streamInFlight s st.id && !(s.strm.sorter.any fun e => e.id == st.id)
    && (st.stopped || (decide (st.next ≥ unitCount d) && st.refetch.isEmpty && st.susp.isNone
          && (!d.xp || decide (imageGrans d ≤ st.wrote.length))))

/-- The image granules that positions [lo, hi) of the buffer touch. -/
def gransOf (d : Desc) (lo hi : Nat) : List Nat :=
  let a := (lo - d.boff) / 64
  if hi ≤ d.boff then [] else (List.range (min (imageGrans d) (ceilDiv (hi - d.boff) 64) - a)).map (a + ·)

/-- Some granule of the image that [lo, hi) of the buffer touches is not complete for an access at `bound`. -/
def imageBusy (s : State) (st : Stream) (bound lo hi : Nat) : Bool :=
  (gransOf (descOf st.image) lo hi).any (granBusy s st bound)

end Sys2Proof.Machine
end

