-- ==== Sys2Proof/Machine/LoadChecks.lean ====
section
/-! DEFINITION. The checks of rows 2, 4, 5, 6, 9 and 10 of 09 Table 9-10 on one instruction: the loader makes them over
the whole module (R241), and the sequencer makes them of a word as it executes (R216). Row 3 is `Instr.wf`. -/

namespace Sys2Proof.Machine

open Sys2Proof

/-! ## Strided extents (04, R81) -/

/-- The hull [lo, hi) of strided rows (R81). -/
def hull (off str : Int) (rows rowB : Nat) : Int × Int :=
  let last := off + ((rows : Int) - 1) * str
  (min off last, max off last + rowB)

/-- The checks of R81: alignment, then bounds. -/
def r81 (off str : Int) (rows rowB size : Nat) : Option Code :=
  if off % 32 ≠ 0 ∨ str % 32 ≠ 0 then some eAlign
  else if (hull off str rows rowB).1 < 0 ∨ (size : Int) < (hull off str rows rowB).2 then some eBufsize
  else none

/-- R81 as far as the immediates decide it: alignment of each immediate, bounds when both are immediates. -/
def r81Imm (offReg strReg : Bool) (off : BitVec 25) (str : BitVec 26) (rows rowB size : Nat) : Option Code :=
  if !offReg && decide (off.toNat % 32 ≠ 0) then some eAlign
  else if !strReg && decide (str.toInt % 32 ≠ 0) then some eAlign
  else if offReg || strReg then none
  else r81 off.toNat str.toInt rows rowB size

/-! ## What the checks know -/

/-- The grant in force, buffer sizes by handle, duties by class, and stream slots of the scene. -/
structure LoadCtx where
  g0    : DWord
  g1    : DWord
  bufs  : List (Nat × Nat)
  duty  : List Nat
  nstrm : Nat
deriving DecidableEq, Repr, Inhabited

/-- The size of a declared buffer. -/
def ctxSize (c : LoadCtx) (h : Nat) : Option Nat := (c.bufs.find? fun b => b.1 == h).map (·.2)

/-- An undeclared handle. -/
def ctxHandle (c : LoadCtx) (h : BitVec 6) : Option Code := if (ctxSize c h.toNat).isSome then none else some eBufsize

/-! ## Stream and Aside images (10, Tables 10-2, 10-3, 10-5) -/

/-- Row 1 of Table 10-3 on a stream image: fields within their ranges and the divisions of R247. -/
def imageOk (img : BitVec 512) : Bool :=
  let d := descOf img
  let g := decide (d.kind = 2)
  let z := fun f lo n => imgBits img f lo n == 0
  z 0 22 2 && z 0 34 30 && z 1 57 7 && z 2 56 8 && z 3 48 16 && z 4 48 16 && z 5 48 16 && z 7 48 16
    && (if g then z 6 32 32 else z 6 48 16)
    && decide (d.kind < 3) && (!d.xp || decide (d.kind = 0)) && decide (d.esz < 3) && (d.xp || decide (d.esz = 0))
    && (!d.sort || g) && (!d.cvt || decide (d.kind = 1))
    && (d.sat || (d.cvt && (d.dfmt == 4 || d.dfmt == 5)))
    && (d.cvt || (d.sfmt == 0 && d.dfmt == 0))
    && (g || (decide (d.ih = 0) && decide (d.ioff = 0)))
    && decide (64 ≤ d.cols) && decide (1 ≤ d.rows) && decide (1 ≤ d.tc) && decide (1 ≤ d.tr)
    && (if g then
          decide (d.rows ≤ 65536) && decide (d.tc = d.cols) && decide (d.tr = 1) && decide (1 ≤ d.ilim)
            && decide (0 ≤ d.gstr) && decide (d.bstr = 0)
        else
          decide (d.cols % d.tc = 0) && decide (d.rows % d.tr = 0) && decide (1 ≤ d.sr) && decide (1 ≤ d.sc)
            && decide (d.rows / d.tr % d.sr = 0) && decide (d.cols / d.tc % d.sc = 0) && decide (1 ≤ d.nb))
    && decide (descLen d ≤ 2 ^ 25)

/-- Row 3 of Table 10-3. -/
def imageAligned (img : BitVec 512) : Bool :=
  let d := descOf img
  let whole := fun n => decide (n * tileBits d.sfmt % (64 * tileBits d.dfmt) = 0)
  decide (d.gbase % 64 = 0) && decide (d.gstr % 64 = 0) && decide (d.bstr % 64 = 0) && decide (d.cols % 64 = 0)
    && decide (d.tc % 64 = 0) && decide (d.boff % 64 = 0) && (!d.xp || decide (d.tr * 2 ^ d.esz % 64 = 0))
    && (!d.cvt || (whole d.cols && whole d.tc)) && decide (d.ioff % 4 = 0)

/-- The bounds of row 4 of Table 10-3, given the sizes of the declared buffers. -/
def imageFits (size : Nat → Nat) (img : BitVec 512) : Bool :=
  let d := descOf img
  decide (d.boff + descLen d ≤ size d.h) && (d.kind != 2 || decide (d.ioff + 4 * d.rows ≤ size d.ih))

/-- The fields of an Aside image (Table 10-5): GVA, DIR, LEN in bytes, H, BOFF. -/
def asideFields (img : BitVec 128) : Nat × Bool × Nat × Nat × Nat :=
  (bvGet img 0 57, bvGet img 57 1 = 1, 8 * bvGet img 58 5, bvGet img 64 6, bvGet img 70 25)

/-- Row 1 of Table 10-3 on an Aside image. -/
def asideOk (img : BitVec 128) : Bool :=
  decide (bvGet img 63 1 = 0) && decide (bvGet img 95 33 = 0) && decide (bvGet img 58 5 ≠ 0)

/-- The alignment of R262. -/
def asideAligned (img : BitVec 128) : Bool :=
  let (gva, _, len, _, boff) := asideFields img
  decide (gva % 8 = 0) && decide (boff % 8 = 0) && decide (gva / 256 = (gva + len - 1) / 256)

/-! ## Row 2: features (02 Table 2-4, R27, R43) -/

/-- Feature bits that an instruction needs: word (0 or 1) and bit. -/
abbrev Needs := List (Nat × Nat)

/-- The feature of a format code (Table 4-2, Table 7-1). -/
def fmtNeeds (f : Nat) : Needs :=
  match f with
  | 4 => [(0, 8)]
  | 5 => [(0, 8)]
  | 6 => [(0, 9)]
  | 8 => [(0, 16)]
  | _ => []

/-- A granted feature bit. -/
def ctxGranted (c : LoadCtx) (n : Nat × Nat) : Bool := if n.1 = 0 then c.g0.getLsbD n.2 else c.g1.getLsbD n.2

/-- FP32 as a matrix operand needs FP32_3PASS (R43). -/
def fp32Needs (f : BitVec 3) : Needs := if f = 0 then [(0, 10)] else []

/-- A clear SAT option needs NONSAT_CVT (R59). -/
def satNeeds (sat : Bool) : Needs := if sat then [] else [(0, 11)]

/-- The features that the fields of an MMA select (06, R141). -/
def mmaNeeds (w : MmaWord) : Needs :=
  fmtNeeds w.afmt.toNat ++ fmtNeeds w.wfmt.toNat ++ fp32Needs w.afmt ++ fp32Needs w.wfmt
    ++ (if w.shape = 5 then [(0, 12)] else [])
    ++ (match w.store with
        | some st => fmtNeeds st.ofmt.toNat ++ satNeeds st.sat
        | none => [])

/-- The features that a stream image selects (10 Table 10-3 row 2). -/
def imageNeeds (img : BitVec 512) : Needs :=
  (if bvGet img 5 1 = 1 then [(1, 1)] else [])
    ++ (if bvGet img 6 1 = 1 then
          fmtNeeds (bvGet img 8 3) ++ fmtNeeds (bvGet img 11 3) ++ satNeeds (decide (bvGet img 7 1 = 1))
        else [])

/-- The features that an instruction needs (02 Table 2-4). -/
def instrNeeds : Instr → Needs
  | .mma w => mmaNeeds w
  | .mmv w => (0, 13) :: fmtNeeds w.fmt.toNat ++ fp32Needs w.fmt
  | .vadd w | .vsub w | .vmul w | .vdiv w | .vmin w | .vmax w | .vfma w | .vfms w | .vfnma w | .vfnms w
  | .vsqrt w | .vabs w | .vneg w | .vcpys w | .vcmp _ w | .vsel w | .vperm w | .vbcast w | .vext w
  | .vredsum w | .vredprod w | .vredmax w | .vredmin w | .vredargmax w | .vredargmin w | .vld w _ | .vst w _ =>
    fmtNeeds w.t.toNat
  | .vcvt w => fmtNeeds w.t.toNat ++ fmtNeeds w.t2.toNat ++ satNeeds w.sat
  | .vout w _ => fmtNeeds w.t2.toNat ++ satNeeds w.sat
  | .vsrd _ _ _ | .vswr _ _ | .vsmrg _ _ _ => [(0, 15)]
  | .vsclf _ _ _ => [(0, 14), (0, 15)]
  | .sread sel _ => if sel = 4 ∨ 0x20 ≤ sel.toNat then [(1, 16)] else []
  | .tcfg _ _ fmt => fmtNeeds fmt.toNat
  | .tst _ dfmt sat => fmtNeeds dfmt.toNat ++ satNeeds sat
  | .dstr _ pts image => if pts.any then [] else imageNeeds image
  | .aside _ _ => [(1, 0)]
  | .claim _ => [(1, 3)]
  | .rred _ => [(1, 5)]
  | _ => []

/-- A granted update rule (02 Table 2-4; 11 R290; 13 R330). -/
def someRule (c : LoadCtx) : Bool := [8, 9, 10, 11, 14].any fun b => ctxGranted c (1, b)

/-- Row 2. -/
def checkFeature (c : LoadCtx) (i : Instr) : Option Code :=
  let rule : Bool := match i with
    | .rred w => !w.df || someRule c
    | _ => true
  if (instrNeeds i).all (ctxGranted c) && rule then none else some eFeature

/-! ## Row 4: handles -/

/-- The handles that an instruction names as immediates. -/
def instrHandles : Instr → List (BitVec 6)
  | .mma w => w.wh :: (match w.store with
      | some st => if st.dest then [] else [st.sh]
      | none => [])
  | .mmv w => [w.wh]
  | .vld _ m | .vst _ m => [m.h]
  | .vout _ x => if x.dk = 0 then [x.h] else []
  | .tld m | .tst m _ _ => [m.h]
  | .dstr _ pts image =>
    if pts.any then []
    else BitVec.ofNat 6 (bvGet image 14 6) ::
      (if bvGet image 0 2 = 2 then [BitVec.ofNat 6 (bvGet image 153 6)] else [])
  | .aside pts image => if pts.any then [] else [BitVec.ofNat 6 (bvGet image 8 6)]
  | .rred w => w.sh :: (if w.df then [] else [w.dh])
  | .upd w => [w.h]
  | _ => []

/-- Row 4. -/
def checkHandle (c : LoadCtx) (i : Instr) : Option Code := (instrHandles i).findSome? (ctxHandle c)

/-! ## Row 5: immediate offsets and strides -/

/-- Weight rows K and row bytes of an MMA (06, R143). -/
def mmaWeightShape (w : MmaWord) : Nat × Nat :=
  let n := w.narr.toNat + 1
  let b := tileBits w.wfmt
  match w.shape.toNat with
  | 0 => (128, 128 * n * b / 8)
  | 1 => (256, 128 * n * b / 8)
  | 2 => (128, 128 * n * b / 8)
  | 3 => (512, 128 * n * b / 8)
  | 4 => (1024, 128 * n * b / 8)
  | _ => (256 * n, 64 * b / 8)

/-- Firn rows M of an MMA by shape (06 Table 6-5). -/
def mmaRows (sh : BitVec 3) : Nat :=
  match sh.toNat with
  | 0 => 128
  | 1 => 128
  | 2 => 256
  | 3 => 64
  | 4 => 32
  | 5 => 128
  | _ => 0

/-- Output row bytes of a store clause (06, R154). -/
def storeRowBytes (narr : BitVec 2) (ofmt : BitVec 3) : Nat := 128 * (narr.toNat + 1) * tileBits ofmt / 8

/-- Bytes of an element, at least one (07, R181, R182). -/
def elemBytes (f : Nat) : Nat := (((fmtOf f).map fmtBits).getD 32 + 7) / 8

/-- Row 5 for one instruction. -/
def checkImm (c : LoadCtx) (i : Instr) : Option Code :=
  let size := fun h => (ctxSize c h).getD 0
  match i with
  | .mma w =>
    let (k, rb) := mmaWeightShape w
    match r81Imm w.wor w.wsr w.woff w.wstr k rb (size w.wh.toNat) with
    | some e => some e
    | none =>
      match w.store with
      | some st =>
        if st.dest then none
        else r81Imm st.sor st.ssr st.soff st.sstr (mmaRows w.shape) (storeRowBytes w.narr st.ofmt) (size st.sh.toNat)
      | none => none
  | .mmv w =>
    r81Imm w.wor w.wsr w.woff w.wstr (128 * (w.kb.toNat + 1)) (128 * (w.ns.toNat + 1) * tileBits w.fmt / 8)
      (size w.wh.toNat)
  | .vld w m | .vst w m =>
    let b := elemBytes w.t.toNat
    if (!m.or_ && decide (m.off.toNat % b ≠ 0)) || (!m.sr && decide (m.str.toInt % (b : Int) ≠ 0)) then some eAlign
    else none
  | .vout w x =>
    if x.dk = 0 && !x.or_ && decide (x.off.toNat % elemBytes w.t2.toNat ≠ 0) then some eAlign else none
  | .tld m | .tst m _ _ =>
    if (!m.or_ && decide (m.off.toNat % 32 ≠ 0)) || (!m.sr && decide (m.str.toInt % 32 ≠ 0)) then some eAlign else none
  | .dstr _ pts image =>
    if pts.any then none
    else if !imageAligned image then some eAlign
    else if !imageFits size image then some eBufsize
    else none
  | .aside pts image =>
    let (_, _, len, h, boff) := asideFields image
    if pts.any then none
    else if !asideAligned image then some eAlign
    else if size h < boff + len then some eBufsize
    else none
  | .upd w =>
    if w.or_ then none
    else if w.off.toNat % 64 ≠ 0 then some eAlign
    else if size w.h.toNat < w.off.toNat + 256 then some eBufsize
    else none
  | .rred w =>
    let l := w.len.toNat
    if w.soff.toNat % 64 ≠ 0 ∨ w.doff.toNat % 64 ≠ 0 then some eAlign
    else if w.lr then none
    else if size w.sh.toNat < w.soff.toNat + l * (if w.sf then 2 else 4) then some eBufsize
    else if !w.df && w.op == 1 && decide (size w.dh.toNat < w.doff.toNat + l * 4) then some eBufsize
    else none
  | _ => none

/-! ## Row 6: shapes and format pairs -/

/-- The legal MMA format pairs (06 Table 6-4). -/
def pairLegal (a w : BitVec 3) : Bool :=
  match a.toNat with
  | 0 => w == 0
  | 2 => w == 2 || w == 4 || w == 5 || w == 6
  | 3 => w == 3 || w == 4 || w == 5 || w == 6
  | 4 => w == 4 || w == 5 || w == 6
  | 5 => w == 4 || w == 5 || w == 6
  | 6 => w == 4 || w == 5 || w == 6
  | 7 => w == 7
  | _ => false

/-- Row 6: 06 Table 6-9 rows 3 to 5, 04 R80. -/
def checkShape (i : Instr) : Option Code :=
  let bad : Bool := match i with
    | .mma w =>
      decide (5 < w.shape.toNat) || !pairLegal w.afmt w.wfmt || (w.src && (w.shape == 5 || w.afmt == 0))
        || decide (2048 < w.frb.toNat + mmaRows w.shape)
        || (match w.store with
            | some st => st.dest && (st.ofmt == 0 || st.ofmt == 1)
            | none => false)
    | .mmv w =>
      let m := w.mm.toNat + 1
      (w.shape != 3 && w.shape != 4) || w.fmt == 0 || w.fmt == 1
        || decide (shapeRows w.shape < w.srow.toNat + m) || decide (shapeCols w.shape < 128 * (w.kb.toNat + 1))
        || (if w.dv then !w.ovw || decide (32 < w.dst.toNat + m) else decide (2048 < w.dst.toNat + m))
    | .tcfg _ shape fmt => !tileLegal shape fmt
    | _ => false
  if bad then some eTshape else none

/-! ## Row 9: classes (09 Table 9-9) -/

/-- The classes of an instruction: arrays 0 to 3, 4 the matrix-vector path, 5 the vector engine, 6 streams and ring. -/
def instrClasses : Instr → List Nat
  | .mma w =>
    List.range (w.narr.toNat + 1)
      ++ (if w.src || (w.store.map (·.dest)).getD false then [6] else [])
  | .mmv _ => [4]
  | .dstr _ _ _ | .aside _ _ | .atom _ | .claim _ | .acq _ | .rel _ | .rsend _ | .rred _ | .upd _ => [6]
  | .tld _ | .tst _ _ _ | .tcfg _ _ _ | .trel _ | .cue _ _ _ | .waitq _ _ | .rroute _ | .salu _ | .sread _ _ => []
  | .br _ | .sceneEnd => []
  | i => if i.isProgram then [5] else []

/-- Row 9 for one instruction: a class of it has duty 0 (R239). -/
def checkDuty (c : LoadCtx) (i : Instr) : Option Code :=
  if (instrClasses i).any fun k => c.duty.getD k 0 == 0 then some eLubudget else none

/-! ## Row 10: slots -/

/-- Row 10 for one instruction: an immediate slot at or above NSTRM. -/
def checkSlot (c : LoadCtx) (i : Instr) : Option Code :=
  match i with
  | .dstr slot _ _ => if slot.toNat < c.nstrm then none else some eSlots
  | .cue slot _ _ => if slot.toNat < c.nstrm then none else some eSlots
  | .waitq slot _ => if slot.toNat < c.nstrm then none else some eSlots
  | _ => none

/-- Row 3 for one instruction: the word, and an image without patches (R252). -/
def checkWord (i : Instr) : Option Code :=
  let ok : Bool := match i with
    | .dstr _ pts image => pts.any || imageOk image
    | .aside pts image => pts.any || asideOk image
    | _ => true
  if i.wf && ok then none else some eBadval

/-- The row of the table that an instruction fails, among those that one word decides. -/
def checkRow (c : LoadCtx) (row : Nat) (i : Instr) : Option Code :=
  match row with
  | 2 => checkFeature c i
  | 3 => checkWord i
  | 4 => checkHandle c i
  | 5 => checkImm c i
  | 6 => checkShape i
  | 9 => checkDuty c i
  | 10 => checkSlot c i
  | _ => none

/-- The checks that a word undergoes as it executes (R216): row 3 at the fetch, then the others in the table's order. A
DSTR and an RRED make theirs in the order of 10 Table 10-3 and 11 R290 when they issue. -/
def executeCheck (c : LoadCtx) (i : Instr) : Option Code :=
  match i with
  | .dstr _ _ _ => [3, 9, 10].findSome? fun row => checkRow c row i
  | .aside _ _ => [3, 9].findSome? fun row => checkRow c row i
  | .rred _ => [3, 9].findSome? fun row => checkRow c row i
  | _ => [3, 2, 4, 5, 6, 9, 10].findSome? fun row => checkRow c row i

end Sys2Proof.Machine
end

