-- ==== Sys2Proof/Machine/Operands.lean ====
section
/-! DEFINITION. Operand forms (offsets, strides, scales from immediates or scalar registers; 04 R81, R82, 06 R138), tracked
ranges and the scoreboard (09, R215 to R220), and the issue of an instruction of the running scene (09, R213, R216,
R221). -/

namespace Sys2Proof.Machine

open Sys2Proof

/-! ## Offsets and strides -/

/-- A byte offset: immediate, or the signed value of a scalar register (R82, R138). -/
def offVal (s : State) (reg : Bool) (off : BitVec 25) : Int :=
  if reg then (getS s (off.truncate 5)).toInt else off.toNat

/-- A row stride: signed immediate, or the signed value of a scalar register (R82, R138). -/
def strVal (s : State) (reg : Bool) (str : BitVec 26) : Int :=
  if reg then (getS s (str.truncate 5)).toInt else str.toInt

/-- The scalar registers that an offset and a stride field read. -/
def offRegs (or_ : Bool) (off : BitVec 25) : List (BitVec 5) := if or_ then [off.truncate 5] else []

def strRegs (sr : Bool) (str : BitVec 26) : List (BitVec 5) := if sr then [str.truncate 5] else []

/-! ## Tracked ranges (09, R217, R218, Table 9-2) -/

/-- A tracked range: what it covers (0 tile register, 1 buffer, 2 Firn rows, 3 global), which one, the extent [lo, hi),
and whether the access writes. -/
structure Rng where
  kind : Nat
  key  : Nat
  lo   : Int
  hi   : Int
  wr   : Bool
deriving DecidableEq, Repr, Inhabited

/-- The identity of a buffer: window buffers are shared by all instances (R91). -/
def bufKey (s : State) (uid h : Nat) : Nat :=
  match findBuf s uid h with
  | some b => match b.owner with
    | some o => (o + 1) * 64 + h
    | none => h
  | none => h

def rTile (t : BitVec 4) (wr : Bool) : Rng := ⟨0, t.toNat, 0, 1, wr⟩

def rBuf (s : State) (uid h : Nat) (lo hi : Int) (wr : Bool) : Rng := ⟨1, bufKey s uid h, lo, hi, wr⟩

def rFirn (base rows : Nat) (wr : Bool) : Rng := ⟨2, 0, base, base + rows, wr⟩

def rGlob (lo hi : Int) (wr : Bool) : Rng := ⟨3, 0, lo, hi, wr⟩

/-- Two ranges overlap and one of them writes (R217). -/
def rngConflict (a b : Rng) : Bool :=
  a.kind == b.kind && a.key == b.key && decide (a.lo < b.hi) && decide (b.lo < a.hi) && (a.wr || b.wr)

/-- Ranges of a store clause that has not run (06, R154). -/
def storeRngs (s : State) (p : PendingStore) : List Rng :=
  rFirn p.frb p.m false ::
    (if p.w.dest then []
     else
      let (lo, hi) := hull p.off p.str p.m (p.narr * 128 * tileBits p.w.ofmt / 8)
      [rBuf s p.uid p.w.sh.toNat lo hi true])

/-- Bytes of an update's region: parameters of N elements, or the state layout of Table 13-4 (13, R329). -/
def updParamBytes (recd : BitVec 2048) : Nat := byteField recd 8 4 * (if byteField recd 2 1 = 0 then 4 else 2)

/-- The state bytes per Table 13-4. -/
def updStateBytes (recd : BitVec 2048) : Nat :=
  let n := byteField recd 8 4
  let c := byteField recd 12 4
  let e := if byteField recd 3 1 = 0 then 4 else 2
  match byteField recd 0 1 with
  | 0 => n * e
  | 1 => 2 * n * e
  | 2 => (n / c + c) * 4
  | 3 =>
    let b := 32 * 2 ^ byteField recd 7 1
    n / (b * b) * (4 * b * b * 4 + 64)
  | _ => 2 * n * e

/-- The global regions of an update: P0, P1, S0, S1, which its computation holds (13, R331). -/
def updRngs (s : State) (u : Upd) : List Rng :=
  let prot := byteField u.recd 1 1 % 2 = 1
  let p := updParamBytes u.recd
  let q := updStateBytes u.recd
  let a := fun off => byteField u.recd off 8
  [rGlob (a 0x20) (a 0x20 + p) prot, rGlob (a 0x28) (a 0x28 + p) true,
   rGlob (a 0x30) (a 0x30 + q) prot, rGlob (a 0x38) (a 0x38 + q) true]
    ++ (if byteField u.recd 4 1 = 1 then
          [rBuf s u.uid u.bufH (byteField u.recd 0x48 4) (byteField u.recd 0x48 4 + 4 * byteField u.recd 8 4) false]
        else [])
    ++ (if byteField u.recd 6 1 ≠ 0 then
          [rBuf s u.uid u.bufH (byteField u.recd 0x4C 4) (byteField u.recd 0x4C 4 + 8) true]
        else [])

/-- The destination of the reduction in progress (11, R288, R291). -/
def redRngs (s : State) (r : Red) : List Rng :=
  if r.w.df then []
  else
    let n := if r.w.op = 0 then r.len / r.n * 4 else r.len * 4
    [rBuf s r.uid r.w.dh.toNat r.w.doff.toNat (r.w.doff.toNat + n) true]

/-- Ranges of an Aside transfer (10, R262). -/
def asideRngs (s : State) (a : Aside) : List Rng :=
  match a.kind with
  | .read => [rBuf s a.uid a.bufH a.boff (a.boff + a.len) true, rGlob a.va (a.va + a.len) false]
  | .write =>
    rGlob a.va (a.va + a.len) true :: (if a.issued then [] else [rBuf s a.uid a.bufH a.boff (a.boff + a.len) false])
  | _ => []

/-- Ranges of an MMA in progress: the tile register that its activations come from and its Firn rows (05 R107; 06 R144). -/
def jobRngs (j : MmaJob) : List Rng :=
  (if j.w.src then [] else [rTile j.w.ta false]) ++ [rFirn j.w.frb.toNat (mmaRows j.w.shape) true]

/-- Ranges still held by work that stands before `bound` in program order, but for the buffer sides of streams (R217). -/
def heldRngs (s : State) (bound : Nat) : List Rng :=
  ((s.mat.stores.filter fun p => decide (p.seq < bound)).map (storeRngs s)).flatten
    ++ ((s.mat.jobs.filter fun j => decide (j.seq < bound)).map jobRngs).flatten
    ++ ((s.strm.streams.filter fun st => decide (st.seq < bound) && !streamComplete s st).map fun st =>
          let e := descExtent (descOf st.image)
          rGlob e.1 e.2 (!descReads (descOf st.image)))
    ++ ((s.strm.asides.filter fun a => decide (a.seq < bound)).map (asideRngs s)).flatten
    ++ (match s.rev.red with
        | some r => if r.seq < bound then redRngs s r else []
        | none => [])
    ++ (match s.upd.cur with
        | some u => if u.seq < bound then updRngs s u else []
        | none => [])
    ++ (s.upd.writes.filter fun w => decide (w.seq < bound)).map fun w => rGlob w.va (w.va + w.bytes.length) true

/-- The index granules of a gather that it has still to read from, as bytes [lo, hi) of the index buffer (R257). -/
def indexLeft (st : Stream) : Int × Int :=
  let d := descOf st.image
  (((d.ioff + 4 * st.idxs.length) / 64 * 64 : Nat), (d.ioff + 4 * d.rows : Nat))

/-- A gather has index granules to read. -/
def indexOpen (st : Stream) : Bool :=
  let d := descOf st.image
  d.kind == 2 && !st.stopped && decide (st.idxs.length < d.rows)

/-- The buffer side of a stream is not complete where `r`, of work at `bound`, touches it (R257). -/
def streamHolds (s : State) (st : Stream) (bound : Nat) (r : Rng) : Bool :=
  let d := descOf st.image
  (r.kind == 1 && r.key == bufKey s st.uid d.h && (r.wr || descReads d) && imageBusy s st bound r.lo.toNat r.hi.toNat)
    || (r.kind == 1 && r.wr && indexOpen st && r.key == bufKey s st.uid d.ih
        && decide (r.lo < (indexLeft st).2) && decide ((indexLeft st).1 < r.hi))

/-- Some range of `rs` must wait for work before `bound` (R217). -/
def rngsBusy (s : State) (bound : Nat) (rs : List Rng) : Bool :=
  rs.any fun r =>
    (heldRngs s bound).any (rngConflict r)
      || (s.strm.streams.filter fun st => decide (st.seq < bound)).any fun st => streamHolds s st bound r

/-- The ranges that work holds: those of R217 and, for each stream that is not complete, its image and its index buffer
(R219). -/
def rangesHeld (s : State) : Nat :=
  (heldRngs s s.seq.nextUid).length
    + ((s.strm.streams.filter fun st => !streamComplete s st).map fun st => 1 + bit (indexOpen st)).sum

/-! ## Instructions that have been fetched and have not issued (09, R213 to R219) -/

/-- The scalar register that an instruction writes (R215). -/
def destReg (c : Instr) : Option (BitVec 5) :=
  match c with
  | .salu w => some w.sd
  | .sread _ sd => some sd
  | .vext w => some w.vd
  | .kpop w => some w.vd
  | .setvl _ x => some x.sd
  | .atom w => some w.sd
  | .claim w => some w.sd
  | .acq w => some w.sd
  | .rel w => if w.add then some w.sd else none
  | .upd w => some w.sd
  | _ => none

/-- The whole of a buffer. -/
def rWhole (s : State) (uid : Nat) (h : BitVec 6) (wr : Bool) : Rng := rBuf s uid h.toNat 0 (2 ^ 25) wr

/-- Every buffer that a run sees. -/
def rEvery (s : State) (uid : Nat) : List Rng :=
  (s.strm.bufs.filter fun b => b.owner == some uid || b.owner == none).map fun b => rBuf s uid b.handle 0 (2 ^ 25) true

/-- Rows of Firn from a row operand: as given, or any row when a scalar register gives it. -/
def rRows (r : RowOp) (n : Nat) (wr : Bool) : Rng := if r.rr then rFirn 0 2048 wr else rFirn r.row.toNat n wr

/-- Some patch of a DSTR is enabled. -/
def patches (p : Patches) : Bool := p.pt0.en || p.pt1.en || p.pt2.en || p.pt3.en

/-- What an instruction that has not issued may come to touch, as far as its word says: an extent that depends on a scalar
operand or on a record is taken as the whole of what it can name. A later instruction waits for it (R217; log 4). -/
def touches (s : State) (uid : Nat) (c : Instr) : List Rng :=
  match c with
  | .mma w =>
    (if w.src then [] else [rTile w.ta false]) ++ [rWhole s uid w.wh false, rFirn w.frb.toNat (mmaRows w.shape) true]
      ++ (match w.store with
          | some st => if st.dest then [] else [rWhole s uid st.sh true]
          | none => [])
  | .mmv w =>
    [rTile w.ta false, rWhole s uid w.wh false] ++ (if w.dv then [] else [rFirn w.dst.toNat (w.mm.toNat + 1) true])
  | .vld _ m => [rWhole s uid m.h false]
  | .vst _ m => [rWhole s uid m.h true]
  | .vldt _ x => [rTile x.tt false]
  | .vstt _ x => [rTile x.tt true]
  | .vrdf _ r => [rRows r 1 false]
  | .vwrf _ r => [rRows r 1 true]
  | .vout _ x => [if x.dk = 0 then rWhole s uid x.h true else rTile x.tt true]
  | .vsrd _ r _ => [rRows r 1 false]
  | .vswr _ r => [rRows r 1 true]
  | .vsmrg _ r _ => [rRows r 1 true]
  | .vsclf _ r x => [rRows r (x.nr.toNat + 1) true]
  | .tcfg t _ _ => [rTile t true]
  | .trel t => [rTile t true]
  | .tld m => [rTile m.tt true, rWhole s uid m.h false]
  | .tst m _ _ => [rTile m.tt false, rWhole s uid m.h true]
  | .dstr _ p image =>
    if patches p then rEvery s uid
    else
      let d := descOf image
      let e := descExtent d
      rBuf s uid d.h 0 (2 ^ 25) (descReads d) :: rGlob e.1 e.2 (!descReads d)
        :: (if d.kind = 2 then [rBuf s uid d.ih 0 (2 ^ 25) false] else [])
  | .aside p image =>
    if patches p then rEvery s uid
    else
      let (gva, dir, len, h, _) := asideFields image
      [rBuf s uid h 0 (2 ^ 25) (!dir), rGlob gva (gva + len : Nat) dir]
  | .rsend t => [rTile t false]
  | .rred w => rWhole s uid w.sh false :: (if w.df then [] else [rWhole s uid w.dh true])
  | .upd _ => rEvery s uid
  | _ => []

/-- The entries that an instruction takes in the scoreboard of R219. -/
def rngNeed (s : State) (uid : Nat) (c : Instr) : Nat :=
  match c with
  | .dstr _ _ _ => 3
  | .aside _ _ => 2
  | .upd _ => 7
  | _ => (touches s uid c).length

/-- The instruction uses the vector register file: those of the V queue, and MMV into registers (05 R134; DEDUCED, log 4). -/
def usesVec (e : Queued) : Bool :=
  e.q == .v ||
    match e.c with
    | .mmv w => w.dv
    | _ => false

/-- A WAITQ holds the instructions of a queue that follow it (10, R260). -/
def waitHolds (c : Instr) (q : Queue) : Bool :=
  match c with
  | .waitq _ hold =>
    match q with
    | .m => hold.getLsbD 0
    | .v => hold.getLsbD 1
    | .s => hold.getLsbD 2
    | .d => true
  | _ => false

/-- The instruction `e` may not issue while the earlier `a` has not: the order of a queue (R213), a WAITQ (R260), a scalar
register (R215), or a range of which one of them writes (R217). -/
def heldBy (s : State) (a e : Queued) : Bool :=
  a.q == e.q || waitHolds a.c e.q || (destReg a.c).any e.regs.contains || (destReg e.c).any a.regs.contains
    || (usesVec a && usesVec e)
    || (touches s a.uid a.c).any fun x => (touches s e.uid e.c).any (rngConflict x)

/-! ## What is complete (R221, R237; 12 R312) -/

/-- The run is going on. -/
def runAlive (s : State) (uid : Nat) : Bool :=
  match findInst s uid with
  | some i => i.ending.isNone
  | none => false

/-- The run's instructions that have not issued and stand before `bound`. -/
def queuedBefore (s : State) (uid bound : Nat) : List Queued :=
  s.seq.queue.filter fun e => e.uid == uid && decide (e.seq < bound)

/-- All work before `bound` in program order of the same run is complete but for its streams (R221). -/
def issuedDone (s : State) (uid bound : Nat) : Bool :=
  (queuedBefore s uid bound).isEmpty
    && !(s.mat.stores.any fun p => p.uid == uid && decide (p.seq < bound))
    && !(s.mat.jobs.any fun j => j.uid == uid && decide (j.seq < bound))
    && !(s.strm.asides.any fun a => a.uid == uid && decide (a.seq < bound))
    && !(s.rev.red.any fun r => r.uid == uid && decide (r.seq < bound))
    && !(s.upd.cur.any fun u => u.uid == uid && decide (u.seq < bound))
    && !(s.upd.writes.any fun w => w.uid == uid && !w.commit && decide (w.seq < bound))
    && !((s.rev.east.out ++ s.rev.west.out).any fun o => o.inject && o.uid == uid && o.vc != 3 && decide (o.seq < bound))

/-- All work before `bound` in program order of the same run is complete, but for the stream `except` (R237). -/
def workDone (s : State) (uid bound : Nat) (except : Option Nat) : Bool :=
  issuedDone s uid bound
    && !(s.strm.streams.any fun st => st.uid == uid && decide (st.seq < bound) && some st.id != except
          && !streamComplete s st)

/-- Every write of the run that stands before `bound` is complete: to global memory, or into a window buffer (12, R312
step 1). -/
def writesDone (s : State) (uid bound : Nat) : Bool :=
  let win := fun h => match findBuf s uid h with
    | some b => b.owner == none
    | none => false
  !((queuedBefore s uid bound).any fun e => (touches s uid e.c).any fun r =>
        r.wr && (r.kind == 3 || (r.kind == 1 && decide (r.key < 64))))
    && !(s.mat.stores.any fun p => p.uid == uid && decide (p.seq < bound) && !p.w.dest && win p.w.sh.toNat)
    && !(s.strm.streams.any fun st => st.uid == uid && decide (st.seq < bound) && !streamComplete s st
          && (!descReads (descOf st.image) || win (descOf st.image).h))
    && !(s.strm.asides.any fun a => a.uid == uid && decide (a.seq < bound) && match a.kind with
          | .read => win a.bufH
          | .acq .. => false
          | _ => true)
    && !(s.rev.red.any fun r => r.uid == uid && decide (r.seq < bound) && !r.w.df && win r.w.dh.toNat)
    && !(s.upd.cur.any fun u => u.uid == uid && decide (u.seq < bound))
    && !(s.upd.writes.any fun w => w.uid == uid && decide (w.seq < bound))

/-! ## Scalar registers that wait for a result (09, R215) -/

/-- Destination registers of the run's unfinished instructions. -/
def pendingRegs (s : State) (uid : Nat) : List (BitVec 5) :=
  (s.strm.asides.filter fun a => a.uid == uid).filterMap (·.sd)
    ++ (match s.upd.cur with
        | some u => if u.uid == uid then [u.sd] else []
        | none => [])

/-- Nothing but its own body holds the instruction `e`: no earlier one that has not issued, no scalar register that waits
for a result, room in the scoreboard (R213, R215, R217, R219). -/
def issueReady (s : State) (e : Queued) : Bool :=
  (s.seq.queue.filter fun a => decide (a.seq < e.seq)).all (fun a => !heldBy s a e)
    && !(e.regs.any (pendingRegs s e.uid).contains)
    && (rngNeed s e.uid e.c == 0 || decide (rangesHeld s + rngNeed s e.uid e.c ≤ 64))

/-- The granules for which a read of the ranges `rs`, at `bound`, waits: their delivery will be late (19, R455). -/
def lateUnits (s : State) (st : Stream) (bound : Nat) (rs : List Rng) : List Nat :=
  let d := descOf st.image
  rs.flatMap fun r =>
    if r.kind == 1 && !r.wr && r.key == bufKey s st.uid d.h && descReads d then
      ((gransOf d r.lo.toNat r.hi.toNat).filter (granBusy s st bound)).flatMap (granUnits d)
    else []

/-- A read waits for the ranges `rs`: the units of earlier read streams that it waits for are late (19, R455). -/
def markLate (s : State) (bound : Nat) (rs : List Rng) : State :=
  { s with strm := { s.strm with streams := s.strm.streams.map fun st =>
      if st.seq < bound then
        { st with late := st.late ++ (lateUnits s st bound rs).filter fun u => !st.late.contains u }
      else st } }

/-! ## Issue -/

/-- What the body of an instruction answers: it waits, for the ranges that it would access where it waits for some of them;
it raises a precise fault (of the vector engine with the element that VEC_FAULTLAST records; of the fetch that a branch
makes, at another code offset); it has its effect and the next word follows, or it has its effect and the fetch goes to a
code offset. -/
inductive Verdict where
  | wait
  | waitFor (rs : List Rng)
  | fault (c : Code)
  | vecFault (elem : Nat) (c : Code)
  | fetchFault (pc : Nat) (c : Code)
  | go (s : State)
  | jump (s : State) (pc : Nat)

/-- The running instance's scene. -/
def sceneOf (s : State) (i : Inst) : Option Scene := (s.seq.modl).bind fun m => m.scenes[i.scene]?

/-- Bytes of the running scene's code. -/
def codeLen (s : State) (i : Inst) : Nat := ((sceneOf s i).map (·.codeBytes)).getD 0

/-- A precise fault taken: SEQ_FAULT, VEC_FAULTLAST for the vector engine (07, R188), and the run ends (R221). -/
def takeFault (s : State) (r : Run) (f : HeldFault) : State :=
  match f.elem with
  | some n => preciseFault { s with vec := { s.vec with faultLast := ⟨true, BitVec.ofNat 11 n, f.code⟩ } } r f.code f.pc
  | none => preciseFault s r f.code f.pc

/-- A precise fault of an instruction: it and what follows it do not issue, nothing further is fetched, and the fault is
taken once every earlier instruction is complete; of two, the earlier in program order stands (R221). -/
def raiseFault (s : State) (r : Run) (f : HeldFault) : State :=
  let s := { s with seq := { s.seq with queue := s.seq.queue.filter fun e => !(e.uid == r.uid && decide (f.seq ≤ e.seq)) } }
  let f := match r.fault with
    | some g => if g.seq < f.seq then g else f
    | none => f
  if issuedDone s r.uid f.seq then takeFault s r f
  else { s with seq := { s.seq with run := some { r with fetching := false, fault := some f } } }

/-- A precise fault of the instruction that the sequencer fetches at `pc`. -/
def faultAt (s : State) (r : Run) (pc : Nat) (c : Code) : State := raiseFault s r ⟨s.seq.nextUid, c, pc, none⟩

/-- The code offset of the next fetch. -/
def setPc (s : State) (pc : Nat) : State :=
  { s with seq := { s.seq with run := s.seq.run.map fun r => { r with pc := pc } } }

/-- What the checks of a word know at its execution: the grant, the run's buffers, the scene's duties and slots. -/
def runCtx (s : State) (i : Inst) : LoadCtx :=
  let sc := sceneOf s i
  { g0 := s.feat.grant0, g1 := s.feat.grant1
    bufs := (s.strm.bufs.filter fun b => b.owner == some i.uid || b.owner == none).map fun b => (b.handle, b.size)
    duty := (sc.map (·.duty)).getD [], nstrm := (sc.map (·.nstrm)).getD 0 }

/-- The code word at offset `pc` of the running scene, where the instruction cache holds it (15, R370). -/
def cachedWord (s : State) (i : Inst) (pc : Nat) : Option IWord :=
  match s.seq.modl, sceneOf s i with
  | some m, some sc =>
    let va := m.va + sc.codeOffset + pc
    (s.seq.icache.find? fun l => l.1 == va / 64 * 64).map fun l => BitVec.ofNat 128 (byteField l.2 (va % 64) 16)
  | _, _ => none

/-- What the fetch finds where the sequencer would fetch the instruction `c` (R216). -/
inductive Fetched where
  | this
  | other
  | illegal
deriving DecidableEq, Repr, Inhabited

/-- The cached words of an instruction of `n` words, as far as they are cached one after another. -/
def cachedWords (s : State) (i : Inst) (pc : Nat) : Nat → List IWord
  | 0 => []
  | n + 1 =>
    match cachedWord s i pc with
    | some w => w :: cachedWords s i (pc + 16) n
    | none => []

/-- The fetch of `c` at `pc`: cached words that are no instruction of row 3 of Table 9-10 (R216), or another instruction
than `c`, and otherwise `c`, whose words the command brings where they are not cached (log 5). -/
def fetchOf (s : State) (i : Inst) (pc : Nat) (c : Instr) : Fetched :=
  match cachedWords s i pc 5 with
  | [] => .this
  | w :: ws =>
    if (w :: ws).length < wordCount w then
      if (encode c).take (w :: ws).length = w :: ws then .this else .other
    else
      match decodeWf ((w :: ws).take (wordCount w)) with
      | some (d, _) => if d = c then .this else .other
      | none => .illegal

/-- An instruction put in its queue; the next word follows (R213). -/
def enqueue (s : State) (e : Queued) : State :=
  { s with seq := { s.seq with
      queue := s.seq.queue ++ [e], nextUid := s.seq.nextUid + 1
      run := s.seq.run.map fun r => { r with pc := e.pc + 16 * e.words } } }

/-- The depth of a queue (Table 9-1). -/
def queueDepth (q : Queue) : Nat :=
  match q with
  | .m => 16
  | .v => 32
  | .d => 32
  | .s => 0

/-- The instructions in a queue. -/
def queueCount (s : State) (q : Queue) : Nat := (s.seq.queue.filter fun e => e.q == q).length

/-- An instruction that may not issue yet enters its queue; one of the sequencer's own, or one whose queue is full, waits
where it stands (R213, R214). -/
def holdBack (s : State) (e : Queued) : State :=
  if queueCount s e.q < queueDepth e.q then enqueue s e else s

/-- What the answer of a body makes of the state, for an instruction `e` as it is fetched. -/
def issued (s : State) (r : Run) (e : Queued) : Verdict → State
  | .wait => holdBack s e
  | .waitFor rs => markLate (holdBack s e) e.seq rs
  | .fault c => faultAt s r e.pc c
  | .vecFault n c => raiseFault s r ⟨e.seq, c, e.pc, some n⟩
  | .fetchFault pc c => faultAt s r pc c
  | .go t => setPc t (e.pc + 16 * e.words)
  | .jump t pc => setPc t pc

/-- An instruction leaves its queue with the effect `t`; the place in program order that the next instruction takes is
again `n`. -/
def leaveQueue (t : State) (seq n : Nat) : State :=
  { t with seq := { t.seq with queue := t.seq.queue.filter fun x => x.seq != seq, nextUid := n } }

/-- What the answer of a body makes of the state, for an instruction `e` of a queue. -/
def issuedLater (s : State) (r : Run) (e : Queued) : Verdict → State
  | .wait => s
  | .waitFor rs => markLate s e.seq rs
  | .fault c => raiseFault s r ⟨e.seq, c, e.pc, none⟩
  | .vecFault n c => raiseFault s r ⟨e.seq, c, e.pc, some n⟩
  | .fetchFault pc c => raiseFault s r ⟨e.seq, c, pc, none⟩
  | .go t => leaveQueue t e.seq s.seq.nextUid
  | .jump t _ => leaveQueue t e.seq s.seq.nextUid

/-- An instruction of a queue that a quiet cycle issues: its body runs at its own place in program order, and with the route
that was in force where it stands (11, R281). -/
def issueQueued (s : State) (e : Queued) (r : Run) (i : Inst) (body : State → Run → Inst → Verdict) : State :=
  let s := { s with seq := { s.seq with issuing := none } }
  if e.uid ≠ r.uid ∨ !issueReady s e then s
  else
    issuedLater s r e
      (body { s with seq := { s.seq with nextUid := e.seq } } { r with pc := e.pc, route := e.route } i)

/-- The issue of the instruction `c` of `words` code words on queue `q`, which uses the scalar registers `regs`. The state
is unchanged when no scene is running or a WAITQ holds the fetch (R260), and when the word stands where the sequencer
does not fetch it. A fetch beyond the code and a word that fails a check of Table 9-10 raise precise faults (R216). An
instruction that must wait enters its queue (R213), and a quiet cycle issues it (log 1). -/
def issue (s : State) (q : Queue) (words : Nat) (c : Instr) (regs : List (BitVec 5))
    (body : State → Run → Inst → Verdict) : State :=
  match s.seq.run with
  | none => s
  | some r =>
    match findInst s r.uid with
    | none => s
    | some i =>
      match s.seq.issuing with
      | some e => issueQueued s e r i body
      | none =>
        let e : Queued := ⟨c, q, r.uid, s.seq.nextUid, r.pc, words, regs, r.route⟩
        if !r.fetching || s.seq.queue.any fun a => waitHolds a.c .s then s
        else if codeLen s i < r.pc + 16 * words then faultAt s r (max r.pc (codeLen s i)) eCoderange
        else
          match fetchOf s i r.pc c with
          | .other => s
          | .illegal => faultAt s r r.pc eBadval
          | .this =>
            match executeCheck (runCtx s i) c with
            | some k => faultAt s r r.pc k
            | none => if issueReady s e then issued s r e (body s r i) else holdBack s e

end Sys2Proof.Machine
end

