-- ==== Sys2Proof/Machine/Firn.lean ====
section
/-! DEFINITION. Products and Firn: block sums (06, Tables 6-6 and 6-7), the Firn addition (06 Table 6-8), check words (05,
R104, R125, R126), comparison (05, R127, R128), row updates (05, R123). -/

namespace Sys2Proof.Machine

open Sys2Proof

/-! ## Block sums (06, R147) -/

/-- What the products of one column in one K block amount to. -/
structure KAcc where
  nan   : Bool
  inval : Bool
  pinf  : Bool
  ninf  : Bool
  sum   : Dy
deriving DecidableEq, Repr, Inhabited

/-- Which factor is a low part of R68: its zeros make exact zeros (06, R150). -/
inductive LowPart where
  | none
  | act
  | weight
deriving DecidableEq, Repr, Inhabited

/-- A decoded zero. -/
def fvZero : FVal → Bool
  | .fin _ m _ => m == 0
  | _ => false

def fvNan : FVal → Bool
  | .nan _ => true
  | _ => false

def fvInf : FVal → Bool
  | .inf _ => true
  | _ => false

/-- The high part of a nonzero FP32 operand when that part is a zero: the one zero of exponent 1 (06, R150; log 27). -/
def fvTiny : FVal → Bool
  | .fin _ 0 1 => true
  | _ => false

/-- An infinity of a block. -/
def kInf (acc : KAcc) (neg : Bool) : KAcc := if neg then { acc with ninf := true } else { acc with pinf := true }

/-- One product added to a block (06, R147). Of the passes of an FP32 pair (R68, R150; log 27), one with a low part adds an
exact zero where that part is zero or the other factor is infinite, and the pass of the high parts gives the signed infinity
for an infinite operand against any other operand but a zero. -/
def kAdd (low : LowPart) (acc : KAcc) (a w : FVal) : KAcc :=
  if (low = .act ∧ fvZero a) ∨ (low = .weight ∧ fvZero w) then acc
  else if fvNan a || fvNan w then { acc with nan := true }
  else if low ≠ .none ∧ (fvInf a || fvInf w) then acc
  else
    match fpMulVal a w with
    | none => if fvTiny a || fvTiny w then kInf acc (fvNeg a != fvNeg w) else { acc with inval := true }
    | some (.inf n) => kInf acc n
    | some (.fin n m e) => { acc with sum := dyAdd acc.sum (dyOfFin n m e) }
    | some (.nan _) => { acc with nan := true }

/-- The products of two rows of operands. -/
def kProducts (low : LowPart) : KAcc → List FVal → List FVal → KAcc
  | acc, a :: as, w :: ws => kProducts low (kAdd low acc a w) as ws
  | acc, _, _ => acc

/-- The block sum and its flags (06 Table 6-7); a sum is never -0 (R53). -/
def kResult (rm : Rm) (acc : KAcc) : Nat × Flags :=
  if acc.nan then (fmtNan .fp32, flagIf (acc.inval || (acc.pinf && acc.ninf)) flInvalid)
  else if acc.inval || (acc.pinf && acc.ninf) then (fmtNan .fp32, flInvalid)
  else if acc.pinf then (fpInfCode .fp32 false, 0)
  else if acc.ninf then (fpInfCode .fp32 true, 0)
  else
    let (c, fl) := dyRound .fp32 rm .ieee false acc.sum
    (if c = 2 ^ 31 then 0 else c, fl)

/-- The sum of products of one column in one K block, rounded once. -/
def blockSum (rm : Rm) (low : LowPart) (as ws : List FVal) : Nat × Flags :=
  kResult rm (kProducts low ⟨false, false, false, false, dyZero⟩ as ws)

/-- The exact integer block sum (06, R149). -/
def intSum : List Int → List Int → Int
  | a :: as, w :: ws => a * w + intSum as ws
  | _, _ => 0

/-- The Firn addition of FP32 words (06 Table 6-8). -/
def firnAdd (acc blk : Nat) : Nat × Flags :=
  if fpIsNan .fp32 acc || fpIsNan .fp32 blk then (fmtNan .fp32, 0)
  else
    let (c, fl) := fpAdd .fp32 .rne acc blk
    (if fpIsNan .fp32 c then fmtNan .fp32 else if c = 2 ^ 31 then 0 else c, fl)

/-- The same addition under another rounding mode, for check words (05, R126). -/
def chkAdd (rm : Rm) (acc blk : Nat) : Nat :=
  if fpIsNan .fp32 acc || fpIsNan .fp32 blk then fmtNan .fp32
  else
    let c := (fpAdd .fp32 rm acc blk).1
    if fpIsNan .fp32 c then fmtNan .fp32 else c

/-- The saturating INT32 addition: result and whether it saturated (03, R67). -/
def intAccum (acc : Nat) (blk : Int) : Nat × Bool :=
  let v := int32Val acc + blk
  if (2 ^ 31 - 1 : Int) < v then (2 ^ 31 - 1, true)
  else if v < -(2 ^ 31 : Int) then (2 ^ 31, true)
  else (int32Code v, false)

/-! ## Sums of words (05, R104, R125) -/

/-- A sum of FP32 values rounded once, with IEEE 754 addition for NaN and infinities. -/
def sumWords (rm : Rm) (vs : List FVal) : Nat :=
  (blockSum rm .none vs (vs.map fun _ => .fin false 1 0)).1

/-- The magnitude of a decoded value. -/
def fvAbs : FVal → FVal
  | .nan q => .nan q
  | .inf _ => .inf false
  | .fin _ m e => .fin false m e

/-- The check weights c and d of weight codes of a format (05, R104). -/
def checkWeights (f : Fmt) (ws : List Nat) : Nat × Nat :=
  if fmtIsInt f then
    (int32Code ((ws.map fun w => sext (fmtBits f) w).sum), 0)
  else
    let vs := ws.map (fpDecode f)
    (sumWords .rne vs, sumWords .rup (vs.map fvAbs))

/-! ## Check words of a row -/

/-- The 64-bit check sum of an INT32 row. -/
def rowSum64 (x : FirnRow) : Int := (x.abs ++ x.chk).toInt

/-- A row with its 64-bit check sum. -/
def setSum64 (x : FirnRow) (v : Int) : FirnRow :=
  let b := BitVec.ofInt 64 v
  { x with chk := b.truncate 32, abs := (b >>> 32).truncate 32 }

/-- The 128 words of a row, as codes. -/
def rowWords (x : FirnRow) : List Nat := if x.zero then List.replicate 128 0 else unpack 32 128 x.words.toNat

/-- What a comparison finds (05, R128). -/
inductive CmpResult where
  | pass
  | skip
  | mismatch
deriving DecidableEq, Repr, Inhabited

/-- The comparison of FP32 words with their check words (05, R128). -/
def compareFp (ws : List Nat) (blk chk abs : Nat) : CmpResult :=
  match fpDecode .fp32 chk, fpDecode .fp32 abs with
  | .fin cn cm ce, .fin an am ae =>
    if !(ws.all (fpIsFinite .fp32)) then .mismatch
    else
      match fpDecode .fp32 (sumWords .rne (ws.map (fpDecode .fp32))) with
      | .fin sn sm se =>
        let t := dyAdd (dyMul ⟨2 * blk + 4, -24⟩ (dyOfFin an am ae)) ⟨blk + 1, -141⟩
        if dyLt t (dyAbs (dyAdd (dyOfFin sn sm se) (dyNeg (dyOfFin cn cm ce)))) then .mismatch else .pass
      | _ => .mismatch
  | _, _ => .skip

/-- The comparison of a row that is not ZERO (05, R128). -/
def compareRow (x : FirnRow) : CmpResult :=
  if x.isInt then
    if x.sat then .skip
    else if ((rowWords x).map int32Val).sum = rowSum64 x then .pass
    else .mismatch
  else compareFp (rowWords x) x.blk.toNat x.chk.toNat x.abs.toNat

/-- A comparison counted, and a mismatch reported as a check event (05, R127 to R130, Table 5-7). -/
def countCompare (s : State) (res : CmpResult) (mv : Bool) (arr row : Nat) (who : Nat) : State :=
  let m := s.mat
  match res with
  | .pass => { s with mat := { m with chkComp := m.chkComp + 1 } }
  | .skip => { s with mat := { m with chkSkip := m.chkSkip + 1 } }
  | .mismatch =>
    checkEvent { s with mat := { m with
        chkComp := m.chkComp + 1, chkFail := m.chkFail + 1
        chkLast := ⟨true, mv, BitVec.ofNat 2 arr, BitVec.ofNat 11 row⟩ } }
      eChkmismatch (if mv then 2 else 1) arr row 0 (some who) 0

/-- A read of row `r` of slice `a` by the store path or the vector engine: it meets the storage errors that lie there (14,
R350), and makes the comparison of R127. -/
def checkRead (s : State) (a r : Nat) (who : Nat) : State :=
  let s := firnTake s who a r
  let x := firnRow s a r
  if x.checked then s
  else
    let s := setFirnRow s a r { x with checked := true }
    if x.zero then s else countCompare s (compareRow x) false a r who

/-- The reads of a list of rows of slices. DESIGN CHOICE (log 47): of several mismatches in one read, the slices are compared in
ascending order, so that MAT_CHKLAST names the highest and the run's own entry of the event log the lowest. -/
def checkReads (s : State) (rs : List (Nat × Nat)) (who : Nat) : State :=
  rs.foldl (fun s r => checkRead s r.1 r.2 who) s

/-! ## Row updates -/

/-- Row `r` of slice `a` written: no storage error lies there any more (14, R351). -/
def putFirnRow (s : State) (a r : Nat) (x : FirnRow) : State :=
  dropMarks (setFirnRow s a r x) (· == .firn a r)

/-- The start of an update: the overwrite form or a ZERO row begins from zero (05, R123). -/
def rowBegin (x : FirnRow) (ovw isInt : Bool) : FirnRow :=
  if ovw || x.zero then ⟨false, isInt, 0, false, false, 0, 0, 0⟩
  else { x with isInt := isInt, zero := false, checked := false }

/-- BLK after one more block (05, R123). -/
def blkNext (b : BitVec 16) : BitVec 16 := if b = 0xFFFF then b else b + 1

/-- One FP32 K block added into a row: block sums of 128 columns, check sums of the block (05 R123, R126; 06 R148). -/
def rowAddFp (x : FirnRow) (sums : List (Nat × Flags)) (chk abs : Nat) : FirnRow × Flags :=
  let rs := List.zipWith (fun acc b => let (c, fl) := firnAdd acc b.1; (c, fl ||| b.2)) (rowWords x) sums
  ({ x with zero := false, blk := blkNext x.blk, words := BitVec.ofNat 4096 (pack 32 (rs.map (·.1)))
            chk := BitVec.ofNat 32 (chkAdd .rne x.chk.toNat chk)
            abs := BitVec.ofNat 32 (chkAdd .rup x.abs.toNat abs) },
   orFlags (rs.map (·.2)))

/-- One INT32 K block added into a row (05 R123, R126; 06 R149). -/
def rowAddInt (x : FirnRow) (sums : List Int) (chk : Int) : FirnRow × Flags :=
  let rs := List.zipWith intAccum (rowWords x) sums
  let sat := rs.any (·.2)
  (setSum64 { x with zero := false, blk := blkNext x.blk, words := BitVec.ofNat 4096 (pack 32 (rs.map (·.1)))
                     sat := x.sat || sat } (rowSum64 x + chk),
   flagIf sat flOverflow)

/-- A row as a vector-engine write leaves it (05, R125). -/
def rowWritten (isInt : Bool) (ws : List Nat) : FirnRow :=
  let x : FirnRow := ⟨false, isInt, 1, false, false, 0, 0, BitVec.ofNat 4096 (pack 32 ws)⟩
  if isInt then setSum64 x ((ws.map int32Val).sum)
  else
    let vs := ws.map (fpDecode .fp32)
    { x with chk := BitVec.ofNat 32 (sumWords .rne vs), abs := BitVec.ofNat 32 (sumWords .rup (vs.map fvAbs)) }

end Sys2Proof.Machine
end

