-- ==== Sys2Proof/Machine/Matrix.lean ====
section
/-! DEFINITION. The matrix engine: weights, MMA, MMV, the weight swap (05; 06). -/

namespace Sys2Proof.Machine

open Sys2Proof

/-! ## Operands -/

/-- The high and low BF16 parts of an FP32 code, and the flags of the split (03 R68, 06 R150). -/
def splitFp32 (x : Nat) : Nat × Nat × Flags :=
  let h := (fpConvert .fp32 .bf16 .rne false x).1
  if fpIsFinite .bf16 h then
    (h, (fpConvert .fp32 .bf16 .rne false (fpSub .fp32 .rne x (h * 65536)).1).1, 0)
  else (h, 0, flagIf (fpIsFinite .fp32 x) (flOverflow ||| flInexact))

/-- Which part of an FP32 operand a pass uses: the code as it is, the high part, the low part. -/
inductive Part where
  | whole
  | high
  | low
deriving DecidableEq, Repr, Inhabited

/-- The code of a part; bit 16 marks the zero high part of an operand that is not zero (06, R150). -/
def partOf (p : Part) (c : Nat) : Nat :=
  match p with
  | .whole => c
  | .high =>
    let h := (splitFp32 c).1
    if h % 32768 = 0 ∧ !fpIsZero .fp32 c then h + 65536 else h
  | .low => (splitFp32 c).2.1

/-- The three passes of an FP32 K block in order, or the one pass of any other (06, R144): activation and weight part. -/
def passesOf (fp32 : Bool) : List (Part × Part) :=
  if fp32 then [(.high, .high), (.high, .low), (.low, .high)] else [(.whole, .whole)]

/-- The low-part factor of a pass. -/
def lowOf : Part × Part → LowPart
  | (.low, _) => .act
  | (_, .low) => .weight
  | _ => .none

/-- The value of a code of a pass; the zero of exponent 1 stands for a marked zero. -/
def partVal (f : Fmt) (c : Nat) : FVal :=
  if f = .bf16 ∧ 65536 ≤ c then .fin (c / 32768 % 2 == 1) 0 1 else fpDecode f c

/-- A processing-element row of weight codes with its check weights (05, R104; packed mode R126). -/
def mkWeightRow (f : Fmt) (packed : Bool) (codes : List Nat) : WeightRow :=
  let w := BitVec.ofNat 4096 (pack 32 codes)
  if packed then
    let (c, d) := checkWeights f (codes.take 64)
    let (c2, d2) := checkWeights f (codes.drop 64)
    ⟨w, BitVec.ofNat 32 c, BitVec.ofNat 32 d, BitVec.ofNat 32 c2, BitVec.ofNat 32 d2⟩
  else
    let (c, d) := checkWeights f codes
    ⟨w, BitVec.ofNat 32 c, BitVec.ofNat 32 d, 0, 0⟩

/-- The codes of one weight row of a buffer: `n` elements from offset `o` (06, R143). -/
def weightCodes (s : State) (uid : Nat) (h : BitVec 6) (o : Int) (n : Nat) (f : BitVec 3) : List Nat :=
  unpack (tileBits f) n (leNat (bufRead s uid h.toNat o.toNat (n * tileBits f / 8)))

/-- The codes of processing-element row `k` of array `a` in K block `j` of an MMA (06 R143, 05 R115). -/
def mmaWeightRow (s : State) (uid : Nat) (w : MmaWord) (off str : Int) (j a k : Nat) : List Nat :=
  if w.shape = 5 then
    let q := if k < 64 then 0 else 2
    let at_ := fun q => off + (((4 * a + q) * 64 + k % 64 : Nat) : Int) * str
    weightCodes s uid w.wh (at_ q) 64 w.wfmt ++ weightCodes s uid w.wh (at_ (q + 1)) 64 w.wfmt
  else
    weightCodes s uid w.wh (off + ((128 * j + k : Nat) : Int) * str + ((128 * a * tileBits w.wfmt / 8 : Nat) : Int))
      128 w.wfmt

/-- The format of the codes that a pass uses. -/
def passFmt (f : BitVec 3) : Fmt := if f = 0 then .bf16 else tileFmt f

/-- K blocks of an MMA (06 Table 6-5). -/
def mmaBlocks (sh : BitVec 3) : Nat :=
  match sh.toNat with
  | 1 => 2
  | 3 => 4
  | 4 => 8
  | _ => 1

/-- The passes of an MMA: three for FP32 pairs, otherwise one (06, R144). -/
def mmaPasses (w : MmaWord) : List (Part × Part) := passesOf (w.wfmt == 0)

/-- The codes that background load `k` of an MMA brings to row `row` of array `a`: those of its K block and pass, or, in an
array that it does not use, free ones (log 11). -/
def loadCodes (s : State) (uid seq : Nat) (w : MmaWord) (off str : Int) (k a row : Nat) : List Nat :=
  let np := (mmaPasses w).length
  if a ≤ w.narr.toNat then
    (mmaWeightRow s uid w off str (k / np) a row).map (partOf ((mmaPasses w).getD (k % np) (.whole, .whole)).2)
  else (unpack 32 128 (Config.idleWeights seq k a row).toNat).map (· % 2 ^ fmtBits (passFmt w.wfmt))

/-- The background loads of an MMA, in the order of its K blocks and passes, each of all four arrays (05, R103). -/
def mmaSets (s : State) (uid seq : Nat) (w : MmaWord) (off str : Int) : List WeightSet :=
  tabulate (mmaBlocks w.shape * (mmaPasses w).length) fun k =>
    { fmt := if w.wfmt = 0 then 2 else w.wfmt
      arrays := tabulate 4 fun a => tabulate 128 fun row =>
        mkWeightRow (passFmt w.wfmt) (w.shape == 5) (loadCodes s uid seq w off str k a row) }

/-- The flags of splitting FP32 operands (06, R150). -/
def splitFlags (codes : List Nat) : Flags := orFlags (codes.map fun c => (splitFp32 c).2.2)

/-! ## Accumulation of activation rows -/

/-- Column `n` of processing-element rows. -/
def weightCol (f : Fmt) (rows : List WeightRow) (n : Nat) : List FVal :=
  rows.map fun r => partVal f (bvGet r.w (32 * n) 32)

/-- One activation row, given by the codes that drive the left and right halves, added as one K block into a Firn row
through the processing-element rows `rows` (05 R116, R126; 06 R147 to R149). -/
def addBlock (x : FirnRow) (af wf : Fmt) (low : LowPart) (packed : Bool) (l r : List Nat) (rows : List WeightRow) :
    FirnRow × Flags :=
  let lv := l.map (partVal af)
  let rv := r.map (partVal af)
  let side := fun n => if n < 64 then lv else rv
  let ca := if packed then lv ++ rv else lv
  let c32 := fun (c : Word) => fpDecode (if fmtIsInt wf then .int32 else .fp32) c.toNat
  let cs := rows.map (c32 ·.c) ++ (if packed then rows.map (c32 ·.c2) else [])
  let ds := rows.map (c32 ·.d) ++ (if packed then rows.map (c32 ·.d2) else [])
  if fmtIsInt af then
    let acc := fun as ws => (kProducts .none ⟨false, false, false, false, dyZero⟩ as ws).sum.m
    rowAddInt x (tabulate 128 fun n => acc (side n) (weightCol wf rows n)) (acc ca cs)
  else
    rowAddFp x (tabulate 128 fun n => blockSum .rne low (side n) (weightCol wf rows n))
      (blockSum .rne low ca cs).1 (blockSum .rup low (ca.map fvAbs) ds).1

/-- The foreground set, against which activations enter the arrays (05, R101). -/
def fgSet (m : Mat) : WeightSet := if m.fgA then m.setA else m.setB

/-- The row of a Firn slice that a K block adds into: read, with the storage errors that lie there, unless the block begins
from zero (05, R123; 14, R350). -/
def blockRow (s : State) (uid : Nat) (ovw first : Bool) (a row : Nat) : State :=
  if first && (ovw || (firnRow s a row).zero) then s else firnTake s uid a row

/-- Activation row `m` of an MMA added through weight set `set` into the arrays that take part; `first` is its first
K block (05 R117, R118, R123; 06 R146). -/
def mmaAddRow (s : State) (uid : Nat) (w : MmaWord) (set : WeightSet) (low : LowPart) (first : Bool) (m : Nat)
    (l r : List Nat) : State :=
  let packed := w.shape = 5
  let isInt := w.afmt = 7
  let row := w.frb.toNat + m
  let s := perfAdd s 0x0101 (w.narr.toNat + 1)
  (List.range (w.narr.toNat + 1)).foldl (fun s a =>
    let rows := set.arrays.getD a []
    let rows := if packed then (rows.drop (m / 64 * 64)).take 64 else rows
    let s := blockRow s uid w.ovw first a row
    let x := firnRow s a row
    let x := if first then rowBegin x w.ovw isInt else x
    let (y, fl) := addBlock x (passFmt w.afmt) (tileFmt set.fmt) low packed l r rows
    raiseMat (putFirnRow s a row y) fl) s

/-- The codes of activation row `m` in K block `j` of a tile register: those that drive the left and right halves
(05 R116, 06 R142). -/
def mmaActRow (t : Tile) (sh : BitVec 3) (j m : Nat) : List Nat × List Nat :=
  if sh = 5 then
    let q := 2 * (m / 64)
    (tabulate 64 fun k => tileElem t (64 * q + m % 64) k, tabulate 64 fun k => tileElem t (64 * (q + 1) + m % 64) k)
  else
    let c := tabulate 128 fun k => tileElem t m (128 * j + k)
    (c, c)

/-! ## Background loads, swaps and K blocks (05, R101 to R107) -/

/-- The K blocks of an MMA, each pass of an FP32 pair counted as one (06, R144). -/
def jobBlocks (j : MmaJob) : Nat := mmaBlocks j.w.shape * (mmaPasses j.w).length

/-- An MMA in progress changed. -/
def setJob (s : State) (seq : Nat) (f : MmaJob → MmaJob) : State :=
  { s with mat := { s.mat with jobs := mapIf (fun j => j.seq == seq) f s.mat.jobs } }

/-- The weight bus writes the next load, in issue order, into the background set once that set is free (05, R103, R105). -/
def loadBg (s : State) : State :=
  match s.mat.bgFor, s.mat.jobs.find? fun j => !j.loads.isEmpty with
  | none, some j =>
    let l := j.loads.headD .reset
    let s := setJob s j.seq fun j => { j with loads := j.loads.drop 1 }
    { s with mat :=
      if s.mat.fgA then { s.mat with setB := l, bgFor := some j.seq } else { s.mat with setA := l, bgFor := some j.seq } }
  | _, _ => s

/-- Activation row `m` of the K block that an MMA is in, given by the codes of its left and right halves, enters the arrays
against the foreground set (05, R101, R105; 06, R144). -/
def jobRow (s : State) (j : MmaJob) (blk m : Nat) (l r : List Nat) : State :=
  let ps := mmaPasses j.w
  let p := ps.getD (blk % ps.length) (.whole, .whole)
  mmaAddRow s j.uid j.w (fgSet s.mat) (lowOf p) (blk == 0) m (l.map (partOf p.1)) (r.map (partOf p.1))

/-- An MMA has added its last K block: it leaves the matrix engine, and its store clause may run (06, R152). -/
def finishJob (s : State) (seq : Nat) : State :=
  { s with mat := { s.mat with
      jobs := s.mat.jobs.filter fun j => j.seq != seq
      stores := mapIf (fun p => p.seq == seq) (fun p => { p with ready := true }) s.mat.stores } }

/-- The rows of a tile register as K block `blk` of an MMA (06, R142, R144). -/
def tileBlock (s : State) (j : MmaJob) (blk : Nat) : State :=
  let t := getT s j.w.ta
  (List.range (mmaRows j.w.shape)).foldl (fun s m =>
    let c := mmaActRow t j.w.shape (blk / (mmaPasses j.w).length) m
    jobRow s j blk m c.1 c.2) s

/-- The MMA whose next K block is due: the oldest, when the background set holds its load and its last block has taken all
its rows (05, R106). -/
def swapDue (s : State) : Option MmaJob :=
  match s.mat.jobs with
  | [] => none
  | j :: _ =>
    if s.mat.bgFor = some j.seq ∧ (j.blk = 0 ∨ !j.w.src ∨ j.taken = mmaRows j.w.shape) then some j else none

/-- SWAP: the background set becomes the foreground set in all four arrays, and the first diagonal of the next K block
enters (05, R105, R106). From a tile register the block follows whole; from the Revolve port its rows come with their flits
(log 13). The bus may then write the other set. Nothing happens while no block is due. -/
def execSwap (s : State) : Host.Outcome State Fault Refusal :=
  match swapDue s with
  | none => .next s
  | some j =>
    let s := { s with mat := { s.mat with fgA := !s.mat.fgA, bgFor := none } }
    let s := if j.w.src then s else tileBlock s j j.blk
    let s :=
      if !j.w.src ∧ j.blk + 1 = jobBlocks j then finishJob s j.seq
      else setJob s j.seq fun j => { j with blk := j.blk + 1, taken := 0 }
    .next (loadBg s)

/-- Rows that a flit brings to an MMA with the Revolve source, whose K block they belong to has begun (06, R145; log 13). -/
def ringRows (s : State) (j : MmaJob) (rows : List (List Nat)) : State :=
  let s := (rows.zipIdx).foldl (fun s r => jobRow s j (j.blk - 1) (j.taken + r.2) r.1 r.1) s
  let taken := j.taken + rows.length
  if j.blk = jobBlocks j ∧ mmaRows j.w.shape ≤ taken then finishJob s j.seq
  else setJob s j.seq fun j => { j with taken := taken }

/-! ## MMA -/

/-- Rows and arrays whose TYPE is against the instruction's (05, R124). -/
def typeClash (s : State) (ovw isInt : Bool) (base rows arrays : Nat) : Bool :=
  !ovw && (List.range arrays).any fun a => (List.range rows).any fun m =>
    let x := firnRow s a (base + m)
    !x.zero && x.isInt != isInt

/-- The weight bus or the matrix-vector path reads rows of a buffer: granules are used, errors met (19 R455; 14 R350). -/
def takeRows (s : State) (uid : Nat) (h : BitVec 6) (off str : Int) (rows rowB : Nat) : State :=
  bufTakes s uid h.toNat ((List.range rows).map fun (k : Nat) => ((off + (k : Int) * str).toNat, rowB))

/-- The scalar registers of an MMA. -/
def mmaRegs (w : MmaWord) : List (BitVec 5) :=
  offRegs w.wor w.woff ++ strRegs w.wsr w.wstr ++
    (match w.store with
     | some st => offRegs st.sor st.soff ++ strRegs st.ssr st.sstr ++ (if st.scl then [st.sa, st.sb] else [])
     | none => [])

/-- The conditions of rows 8 to 10 of 06 Table 6-9 on an MMA. -/
def mmaFault (s : State) (uid : Nat) (w : MmaWord) : Option Code :=
  let t := getT s w.ta
  if !w.src && !t.full then some eTempty
  else if !w.src && (t.shape != w.shape || t.fmt != w.afmt) then some eTshape
  else
    let (k, rb) := mmaWeightShape w
    match r81 (offVal s w.wor w.woff) (strVal s w.wsr w.wstr) k rb (bufBytes s uid w.wh.toNat) with
    | some e => some e
    | none =>
      match w.store with
      | some st =>
        if st.dest then none
        else r81 (offVal s st.sor st.soff) (strVal s st.ssr st.sstr) (mmaRows w.shape) (storeRowBytes w.narr st.ofmt)
          (bufBytes s uid st.sh.toNat)
      | none => none

/-- The tracked ranges of an MMA but for its store (09 R218, 06 R143). -/
def mmaRngs (s : State) (uid : Nat) (w : MmaWord) : List Rng :=
  let (k, rb) := mmaWeightShape w
  let h := hull (offVal s w.wor w.woff) (strVal s w.wsr w.wstr) k rb
  (if w.src then [] else [rTile w.ta false])
    ++ [rBuf s uid w.wh.toNat h.1 h.2 false, rFirn w.frb.toNat (mmaRows w.shape) true]

/-- The store clause with its operands as read at issue (06, R153). -/
def mmaStore (s : State) (r : Run) (i : Inst) (w : MmaWord) (seq : Nat) (ready : Bool) : List PendingStore :=
  match w.store with
  | none => []
  | some st =>
    [{ uid := i.uid, seq := seq, w := st, frb := w.frb.toNat, m := mmaRows w.shape, narr := w.narr.toNat + 1
       off := offVal s st.sor st.soff, str := strVal s st.ssr st.sstr
       scaleA := (getS s st.sa).truncate 32, scaleB := (getS s st.sb).truncate 32
       mask := r.route.mask, gtag := i.gtag, run := i.grun, txch := r.route.txch, ready := ready }]

/-- The flags that the split of an FP32 MMA's operands raises (06, R150). -/
def mmaSplit (s : State) (uid : Nat) (w : MmaWord) (off str : Int) : Flags :=
  let t := getT s w.ta
  let rows := mmaRows w.shape
  let arrs := w.narr.toNat + 1
  if w.afmt = 0 then
    splitFlags ((List.range (rows * mmaBlocks w.shape)).flatMap fun n => (mmaActRow t w.shape (n / rows) (n % rows)).1)
      ||| splitFlags ((List.range (mmaBlocks w.shape * arrs * 128)).flatMap fun n =>
        mmaWeightRow s uid w off str (n / 128 / arrs) (n / 128 % arrs) (n % 128))
  else 0

/-- An MMA enters the matrix engine unless reading its operands has ended the run: its loads wait for the weight bus, and
its store clause for its last K block. -/
def mmaEnter (s : State) (j : MmaJob) (store : List PendingStore) (fl : Flags) : State :=
  if runAlive s j.uid then
    loadBg (raiseMat { s with mat := { s.mat with jobs := s.mat.jobs ++ [j], stores := s.mat.stores ++ store } } fl)
  else s

/-- MMA at issue: faults of rows 8 to 11 of 06 Table 6-9; then it is in progress, with the weights of its K blocks as they are
read (log 11), until its last K block has been added. -/
def mmaBody (w : MmaWord) (s : State) (r : Run) (i : Inst) : Verdict :=
  match mmaFault s i.uid w with
  | some e => .fault e
  | none =>
    if rngsBusy s s.seq.nextUid (mmaRngs s i.uid w) then .waitFor (mmaRngs s i.uid w)
    else if typeClash s w.ovw (w.afmt == 7) w.frb.toNat (mmaRows w.shape) (w.narr.toNat + 1) then .fault eTshape
    else
      let off := offVal s w.wor w.woff
      let str := strVal s w.wsr w.wstr
      let (k, rb) := mmaWeightShape w
      let sets := mmaSets s i.uid s.seq.nextUid w off str
      let fl := mmaSplit s i.uid w off str
      let store := mmaStore s r i w s.seq.nextUid false
      let (seq, s) := fresh s
      let s := takeRows s i.uid w.wh off str k rb
      let s := if w.src then s else tileTake s i.uid w.ta 0 65536
      .go (mmaEnter s ⟨i.uid, seq, w, r.route.rxch, i.gtag, i.grun, sets, 0, 0⟩ store fl)

def execMma (w : MmaWord) (s : State) : Host.Outcome State Fault Refusal :=
  .next (issue s .m (if w.store.isSome then 2 else 1) (.mma w) (mmaRegs w) (mmaBody w))

/-! ## MMV (05, R131 to R135) -/

/-- One vector's strip: K / 128 blocks added into a row (05, R133). -/
def mmvRow (x : FirnRow) (f : Fmt) (vec : List Nat) (blocks : List (List WeightRow)) : FirnRow × Flags :=
  (blocks.zipIdx).foldl (fun acc b =>
    let part := (vec.drop (128 * b.2)).take 128
    let (y, fl) := addBlock acc.1 f f .none false part part b.1
    (y, acc.2 ||| fl)) (x, 0)

/-- The weights of strip `n`: the rows of each K block. -/
def mmvStrip (s : State) (uid : Nat) (w : MmvWord) (off str : Int) (n : Nat) : List (List WeightRow) :=
  tabulate (w.kb.toNat + 1) fun b => tabulate 128 fun k =>
    mkWeightRow (tileFmt w.fmt) false
      (weightCodes s uid w.wh (off + ((128 * b + k : Nat) : Int) * str + ((128 * n * tileBits w.fmt / 8 : Nat) : Int))
        128 w.fmt)

/-- The result of vector `j` in strip `n`, added into `x`, with the check lane's comparison (05, R135; log 28). -/
def mmvOne (s : State) (uid : Nat) (w : MmvWord) (t : Tile) (blocks : List (List WeightRow)) (n j : Nat) (x : FirnRow) :
    State × FirnRow :=
  let f := tileFmt w.fmt
  let vec := tabulate (128 * (w.kb.toNat + 1)) fun k => tileElem t (w.srow.toNat + j) k
  let lane := (mmvRow (rowBegin .reset true (w.fmt == 7)) f vec blocks).1
  let (y, fl) := mmvRow x f vec blocks
  (countCompare (raiseMat s fl) (compareRow lane) true n j uid, y)

/-- Every vector of strip `n`, into Firn (05, R134). DESIGN CHOICE (log 47): of several mismatches in one strip, the vectors
are compared in ascending order. -/
def mmvFirn (s : State) (uid : Nat) (w : MmvWord) (t : Tile) (blocks : List (List WeightRow)) (n : Nat) : State :=
  (List.range (w.mm.toNat + 1)).foldl (fun s j =>
    let row := w.dst.toNat + j
    let s := blockRow s uid w.ovw true n row
    let (s, y) := mmvOne s uid w t blocks n j (rowBegin (firnRow s n row) w.ovw (w.fmt == 7))
    putFirnRow s n row y) s

/-- Every vector of strip `n`, into lanes 128n to 128n + 127 of its vector register (05, R134). -/
def mmvVec (s : State) (uid : Nat) (w : MmvWord) (t : Tile) (blocks : List (List WeightRow)) (n : Nat) : State :=
  (List.range (w.mm.toNat + 1)).foldl (fun s j =>
    let (s, y) := mmvOne s uid w t blocks n j (rowBegin .reset true (w.fmt == 7))
    let v := BitVec.ofNat 5 (w.dst.toNat + j)
    setV s v (bvPut (getV s v) (4096 * n) 4096 y.words.toNat)) s

/-- The destination vector registers start at +0 (05, R134). -/
def mmvClear (s : State) (w : MmvWord) : State :=
  (List.range (w.mm.toNat + 1)).foldl (fun s j => setV s (BitVec.ofNat 5 (w.dst.toNat + j)) 0) s

/-- MMV at issue (05 R131 to R135, 06 R140, R156). -/
def mmvBody (w : MmvWord) (s : State) (_ : Run) (i : Inst) : Verdict :=
  let t := getT s w.ta
  let off := offVal s w.wor w.woff
  let str := strVal s w.wsr w.wstr
  let k := 128 * (w.kb.toNat + 1)
  let rb := 128 * (w.ns.toNat + 1) * tileBits w.fmt / 8
  if !t.full then .fault eTempty
  else if t.shape != w.shape || t.fmt != w.fmt then .fault eTshape
  else
    match r81 off str k rb (bufBytes s i.uid w.wh.toNat) with
    | some e => .fault e
    | none =>
      let h := hull off str k rb
      let rs := [rTile w.ta false, rBuf s i.uid w.wh.toNat h.1 h.2 false]
        ++ (if w.dv then [] else [rFirn w.dst.toNat (w.mm.toNat + 1) true])
      if rngsBusy s s.seq.nextUid rs then .waitFor rs
      else if !w.dv && typeClash s w.ovw (w.fmt == 7) w.dst.toNat (w.mm.toNat + 1) (w.ns.toNat + 1) then .fault eTshape
      else
        let strips := tabulate (w.ns.toNat + 1) fun n => mmvStrip s i.uid w off str n
        let s := tileTake (takeRows s i.uid w.wh off str k rb) i.uid w.ta 0 65536
        let s := if w.dv then mmvClear s w else s
        .go (strips.zipIdx.foldl (fun s b =>
          if w.dv then mmvVec s i.uid w t b.1 b.2 else mmvFirn s i.uid w t b.1 b.2) s)

def execMmv (w : MmvWord) (s : State) : Host.Outcome State Fault Refusal :=
  .next (issue s .m 1 (.mmv w) (offRegs w.wor w.woff ++ strRegs w.wsr w.wstr) (mmvBody w))

end Sys2Proof.Machine
end

