-- ==== Sys2Proof/Machine/Xlt.lean ====
section
/-! DEFINITION. Translation (10, R264 to R269): the TLB, the walker's requests and its algorithm, and translation faults
with their records and notices (15, R382). -/

namespace Sys2Proof.Machine

open Sys2Proof

/-- The page-size exponent of a leaf level (Table 10-6). -/
def pageBits (lv : Nat) : Nat := if lv = 2 then 30 else if lv = 1 then 21 else 16

/-- The leaf level of a page-size exponent. -/
def pageLevel (bits : Nat) : Nat := if bits = 30 then 2 else if bits = 21 then 1 else 0

/-- The table index of a level (Table 10-6). -/
def levelIndex (va lv : Nat) : Nat :=
  match lv with
  | 0 => va / 2 ^ 16 % 32
  | 1 => va / 2 ^ 21 % 512
  | 2 => va / 2 ^ 30 % 512
  | 3 => va / 2 ^ 39 % 512
  | _ => va / 2 ^ 48 % 512

/-- Reasons of a translation fault (XLT_FAULTINFO.REASON). -/
def xNotValid : Nat := 0
def xNotWritable : Nat := 1
def xMalformed : Nat := 2
def xRootOff : Nat := 3

/-! ## Faults -/

/-- The slot numbers that name the update engine and an Aside transfer (Table 10-9). -/
def slotUpd : BitVec 6 := 0x3E
def slotAside : BitVec 6 := 0x3F

/-- The translation faults that suspend something (R268). -/
def heldFaults (s : State) : List XltFault :=
  s.strm.streams.filterMap (·.susp) ++ s.strm.asides.filterMap (·.susp)
    ++ (match s.upd.cur with
        | some u => u.susp.toList
        | none => [])
    ++ s.upd.writes.filterMap (·.susp)

/-- The records of translation faults that are held (15, R382). -/
def heldRecords (s : State) : List Nat := (heldFaults s).map (·.record)

/-- A translation fault: XLT_FAULTVA and XLT_FAULTINFO, a record, and a fault notice (R268, 15 Table 15-8). -/
def noteFault (s : State) (uid : Nat) (slot : BitVec 6) (va : Nat) (write : Bool) (level reason : Nat) :
    State × XltFault :=
  let rec_ := (lowestFree (heldRecords s) 0 128).getD 0
  let s := perfAdd s 0x0403 1
  let s := { s with strm := { s.strm with
    fault := ⟨true, BitVec.ofNat 57 va, slot, write, BitVec.ofNat 3 level, BitVec.ofNat 2 reason⟩ } }
  let s := match findInst s uid with
    | some i =>
      postNotice s (i.origin == .user) (noticeWord 2 stOk i.scene (instPos s uid) i.handle 0 0 (bit write) rec_ 0 0 0
        slot.toNat va (level + reason * 16) 0)
    | none => s
  (s, ⟨va, write, level, reason, rec_⟩)

/-! ## Lookup and walks -/

/-- What a translation gives at once: a physical address, a fault, or the need to walk. -/
inductive Xl where
  | hit (pa : Nat)
  | fault (level reason : Nat)
  | walk
deriving DecidableEq, Repr, Inhabited

/-- The TLB, then the enable (R265, R266). -/
def xlLookup (s : State) (va : Nat) (wr : Bool) : Xl :=
  match s.strm.tlb.find? fun e => decide (e.va ≤ va ∧ va < e.va + 2 ^ e.bits) with
  | some e => if wr && !e.w then .fault (pageLevel e.bits) xNotWritable else .hit (e.pa + (va - e.va))
  | none => if s.strm.rootEn then .walk else .fault 4 xRootOff

/-- The 8-byte read of an entry at physical address `a` (R265). -/
def walkReq (s : State) (tag a : Nat) (w : Walk) : Req := readReqOf s tag 1 a 0 3 w.uid (.walk w.n)

/-- The read of the level-4 entry with which a walk begins (R265). -/
def rootWalk (s : State) (w : Walk) : Walk := { w with level := 4, table := s.strm.rootAddr.toNat * 4096, redo := false }

/-- A walk begins with its level-4 read; none when no walker tag is free. -/
def startWalk (s : State) (va : Nat) (wr : Bool) (for_ : WalkFor) (uid : Option Nat) : Option State :=
  let w := rootWalk s ⟨s.strm.nextId, va, wr, 4, 0, for_, uid, false⟩
  (issueReq s tagsWalk.1 tagsWalk.2 fun t => walkReq s t (w.table + 8 * levelIndex va 4) w).map fun s =>
    perfAdd { s with strm := { s.strm with walks := s.strm.walks ++ [w], nextId := s.strm.nextId + 1 } } 0x0401 1

/-- What the walker does with an entry (R265). -/
inductive WalkStep where
  | next (table : Nat)
  | leaf (pa bits : Nat) (w : Bool)
  | fault (reason : Nat)
deriving DecidableEq, Repr, Inhabited

/-- One level of the walk (R265, Table 10-7). -/
def walkEntry (page1g : Bool) (lv : Nat) (wr : Bool) (va e : Nat) : WalkStep :=
  let addr := e / 256 % 2 ^ 44 * 256
  if e % 2 = 0 then .fault xNotValid
  else if e / 8 % 32 ≠ 0 then .fault xMalformed
  else if e / 2 % 2 = 1 then
    if lv > 2 ∨ (lv = 2 ∧ !page1g) then .fault xMalformed
    else if addr % 2 ^ pageBits lv ≠ 0 then .fault xMalformed
    else if wr && e / 4 % 2 == 0 then .fault xNotWritable
    else .leaf (addr + va % 2 ^ pageBits lv) (pageBits lv) (e / 4 % 2 == 1)
  else if lv = 0 then .fault xMalformed
  else if lv > 1 ∧ addr % 4096 ≠ 0 then .fault xMalformed
  else .next addr

/-- The TLB is emptied; a walk in progress has read by the old mapping and starts again (R267). -/
def tlbClear (s : State) : State :=
  { s with strm := { s.strm with tlb := [], walks := s.strm.walks.map fun w => { w with redo := true } } }

/-- What a resumed request walks afresh: entries of the TLB that cover its address are not used for it (R269). -/
def tlbForget (s : State) (va : Nat) : State :=
  { s with strm := { s.strm with tlb := s.strm.tlb.filter fun e => !decide (e.va ≤ va ∧ va < e.va + 2 ^ e.bits) } }

/-- A successful leaf entered in the TLB, at most 4,096 of them (R266; log 20). -/
def tlbAdd (s : State) (va pa bits : Nat) (w : Bool) : State :=
  let e : TlbEntry := ⟨va / 2 ^ bits * 2 ^ bits, bits, pa / 2 ^ bits * 2 ^ bits, w⟩
  let old := s.strm.tlb.filter fun x => !(x.va == e.va && x.bits == e.bits)
  { s with strm := { s.strm with tlb := (e :: old).take 4096 } }

/-! ## Endings of transfers -/

/-- STRM_ERRLAST (Table 10-9). -/
def errLast (s : State) (slot : BitVec 6) (code : Code) : State :=
  { s with strm := { s.strm with errLast := ⟨true, slot, code⟩ } }

/-- The status of an answer: TENANT, decode refusal, uncorrectable, or performed (12, R458). -/
inductive Answer where
  | tenant
  | decerr
  | uncorr
  | ok
deriving DecidableEq, Repr, Inhabited

/-- The order of R458. -/
def answerOf (resp rs : BitVec 2) : Answer :=
  if resp = 2 then .tenant else if resp ≠ 0 then .decerr else if rs ≠ 0 then .uncorr else .ok

/-- The completion status of an answer that is not `ok`. -/
def answerCode (a : Answer) : Code :=
  match a with
  | .tenant => eTenant
  | .decerr => eNotarget
  | .uncorr => eUncorr
  | .ok => stOk

/-- An access of a run ends with a refusal or an uncorrectable answer at a virtual address: recorded, and the run is
abandoned, or ended by a check event of Source 10 (R458 Table 12-8, R273). -/
def endAccess (s : State) (uid : Nat) (slot : BitVec 6) (a : Answer) (va : Nat) : State :=
  let s := errLast s slot (answerCode a)
  if a = .uncorr then checkEvent s eUncorr 10 0 0 va (some uid) 0
  else abandonRun s uid (answerCode a) true

end Sys2Proof.Machine
end

