-- ==== Sys2Proof/Machine/Streams.lean ====
section
/-! DEFINITION. Streams (10, R244 to R261): DSTR on a slot, Cues, WAITQ, requests, the gather sorter, deliveries; the end
of read streams at SCENE_END (R259, 09 R234). -/

namespace Sys2Proof.Machine

open Sys2Proof

/-! ## Opening a stream (R244 to R252) -/

/-- One enabled patch applied to an image of 64-bit fields (R245). -/
def patch1 {n : Nat} (s : State) (p : Patch) (img : BitVec n) : BitVec n :=
  if p.en then bvPut img (64 * p.idx.toNat) 64 (getS s p.reg).toNat else img

/-- The patches in the order PT0 to PT3 (R245). -/
def patched {n : Nat} (s : State) (p : Patches) (img : BitVec n) : BitVec n :=
  patch1 s p.pt3 (patch1 s p.pt2 (patch1 s p.pt1 (patch1 s p.pt0 img)))

def patchRegs (p : Patches) : List (BitVec 5) := ([p.pt0, p.pt1, p.pt2, p.pt3].filter (·.en)).map (·.reg)

/-- An extent lies in one set record that allows the access (R229). -/
def inSets (sets : List SetRec) (write : Bool) (lo hi : Int) : Bool :=
  sets.any fun r => (r.kind == 2 || r.kind == (if write then 1 else 0))
    && decide ((r.base : Int) ≤ lo) && decide (hi ≤ (r.base : Int) + r.bytes)

/-- Row 5 of Table 10-3. -/
def extentOk (sets : List SetRec) (write : Bool) (lo hi : Int) : Bool :=
  decide (0 ≤ lo) && decide (hi ≤ 2 ^ 57) && inSets sets write lo hi

/-- The checks of Table 10-3 on a stream image. -/
def openCheck (s : State) (i : Inst) (img : BitVec 512) : Option Code :=
  let c := runCtx s i
  let d := descOf img
  let e := descExtent d
  if !imageOk img then some eBadval
  else if !(imageNeeds img).all (ctxGranted c) then some eFeature
  else if !imageAligned img then some eAlign
  else if (ctxSize c d.h).isNone || (d.kind == 2 && (ctxSize c d.ih).isNone)
      || !imageFits (fun h => (ctxSize c h).getD 0) img then some eBufsize
  else if !extentOk (((sceneOf s i).map (·.sets)).getD []) (d.kind == 1) e.1 e.2 then some eOutset
  else none

/-- The stream that the run's latest DSTR on a slot opened. -/
def slotStream (s : State) (uid : Nat) (slot : BitVec 6) : Option Stream :=
  s.strm.streams.find? fun st => st.uid == uid && st.slot == slot.toNat

/-- A stream changed by its id. -/
def setStream (s : State) (id : Nat) (f : Stream → Stream) : State :=
  { s with strm := { s.strm with streams := mapIf (fun st => st.id == id) f s.strm.streams } }

/-- DSTR on a slot (R244 to R246, R252). A read stream that opens after its scene's SCENE_END requests nothing (R259). -/
def dstrBody (slot : BitVec 6) (pts : Patches) (image : BitVec 512) (s : State) (_ : Run) (i : Inst) : Verdict :=
  let busy : Bool := match slotStream s i.uid slot with
    | some st => !streamComplete s st
    | none => false
  if busy then .wait
  else
    let img := patched s pts image
    match openCheck s i img with
    | some e => .fault e
    | none =>
      let (seq, s) := fresh s
      let st : Stream :=
        { id := s.strm.nextId, uid := i.uid, slot := slot.toNat, phys := i.slots.getD slot.toNat 0, seq := seq
          image := img, next := 0, refetch := [], idxs := [], stage := [], wrote := [], late := [], cues := [], marks := []
          susp := none, walking := false
          stopped := i.st == .draining && descReads (descOf img), status := none }
      .go { s with strm := { s.strm with
        streams := (s.strm.streams.filter fun x => !(x.uid == i.uid && x.slot == slot.toNat)) ++ [st]
        nextId := s.strm.nextId + 1 } }

def execDstr (slot : BitVec 6) (pts : Patches) (image : BitVec 512) (s : State) : Host.Outcome State Fault Refusal :=
  .next (issue s .d 5 (.dstr slot pts image) (patchRegs pts) (dstrBody slot pts image))

/-! ## Cues and WAITQ (09 R236, R237; 10 R260; 12 R316) -/

/-- The position of a CUE; a scalar one is rounded down (R260). -/
def cuePos (s : State) (pr : Bool) (p : BitVec 25) : Nat :=
  if pr then (getS s (p.truncate 5)).toNat / 64 * 64 else p.toNat

def cueBody (slot : BitVec 6) (pr : Bool) (p : BitVec 25) (s : State) (_ : Run) (i : Inst) : Verdict :=
  match slotStream s i.uid slot with
  | none => .go s
  | some st =>
    let d := descOf st.image
    let pos := cuePos s pr p
    if !descReads d || decide (descLen d ≤ pos) then .go s
    else if 4 ≤ st.cues.length then .wait
    else
      let (seq, s) := fresh s
      .go (setStream s st.id fun st => { st with cues := st.cues ++ [⟨pos, seq⟩] })

def execCue (slot : BitVec 6) (pr : Bool) (p : BitVec 25) (s : State) : Host.Outcome State Fault Refusal :=
  .next (issue s .d 1 (.cue slot pr p) (if pr then [p.truncate 5] else []) (cueBody slot pr p))

/-- WAITQ: it stays at the head of its queue until the stream is complete, and holds the queues of HOLD as long (R260). -/
def waitqBody (slot : BitVec 6) (s : State) (_ : Run) (i : Inst) : Verdict :=
  match slotStream s i.uid slot with
  | none => .go s
  | some st => if streamComplete s st then .go s else .wait

def execWaitq (slot : BitVec 6) (hold : BitVec 3) (s : State) : Host.Outcome State Fault Refusal :=
  .next (issue s .d 1 (.waitq slot hold) [] (waitqBody slot))

/-! ## Addresses and units -/

/-- The index of gather row `row`: as read before, or from the index buffer (R249). -/
def gatherIndex (s : State) (st : Stream) (d : Desc) (row : Nat) : Nat :=
  match st.idxs[row]? with
  | some v => v
  | none => leNat (bufRead s st.uid d.ih (d.ioff + 4 * row) 4)

/-- The virtual address of unit `u`; none for a unit of a gather row whose index is at or above ILIM. -/
def unitAddr (s : State) (st : Stream) (u : Nat) : Option Int :=
  let d := descOf st.image
  if d.kind = 2 then
    let idx := gatherIndex s st d (u / rowUnits d)
    if idx < d.ilim then some (d.gbase + (idx : Int) * d.gstr + (u % rowUnits d * 64 : Nat)) else none
  else some (denseAddr d u)

/-- The next unit of a stream to request: one to refetch, or the next in request order. -/
def nextUnit (st : Stream) : Option Nat :=
  match st.refetch with
  | u :: _ => some u
  | [] => if st.next < unitCount (descOf st.image) then some st.next else none

/-- Unit `u` may follow in a request that began at an earlier unit. -/
def unitFollows (st : Stream) (u : Nat) : Bool :=
  if st.refetch.isEmpty then decide (u < unitCount (descOf st.image)) else st.refetch.contains u

/-- A unit, or under XP its tile, has a byte at or beyond the position of a pending Cue (R237, R255). -/
def cueHolds (st : Stream) (u : Nat) : Bool :=
  st.cues.any fun c => decide (c.p < unitReach (descOf st.image) u)

/-- The number of units of a request that starts at `u` and address `a`: one to four consecutive units with consecutive
addresses in one aligned 256-byte block, up to a pending Cue (R253, R255; log 29). -/
def runLen (s : State) (st : Stream) (u : Nat) (a : Int) : Nat → Nat
  | 0 => 1
  | fuel + 1 =>
    let n := runLen s st u a fuel
    if n = fuel + 1 ∧ (a + 64 * (n : Int)) / 256 = a / 256 ∧ unitFollows st (u + n) ∧ !cueHolds st (u + n)
        ∧ unitAddr s st (u + n) = some (a + 64 * (n : Int))
        ∧ ((descOf st.image).kind ≠ 2 ∨ (u + n) / rowUnits (descOf st.image) = u / rowUnits (descOf st.image)) then
      n + 1
    else n

/-- Units taken from what a stream has still to request. -/
def takeUnits (st : Stream) (u n : Nat) : Stream :=
  if st.refetch.isEmpty then { st with next := u + n }
  else { st with refetch := st.refetch.filter fun x => !decide (u ≤ x ∧ x < u + n) }

/-- Tags that a stream holds (R254). -/
def tagsHeld (s : State) (id : Nat) : Nat :=
  ((streamReqs s).filter fun r =>
    match r.owner with
    | .stream j _ _ _ => j == id
    | _ => false).length

/-- A stream may take another tag (R254). -/
def tagOk (s : State) (st : Stream) : Bool :=
  let q := (descOf st.image).tagq
  q == 0 || decide (tagsHeld s st.id < q)

/-! ## Delivery (R248, R257, R272) -/

/-- The buffer ranges, whole granules, of the image granules `gs`. -/
def granRngs (s : State) (st : Stream) (gs : List Nat) (wr : Bool) : List Rng :=
  let d := descOf st.image
  gs.map fun g => rBuf s st.uid d.h (d.boff + 64 * g : Nat) (d.boff + 64 * (g + 1) : Nat) wr

/-- The image granules in which the units `us` have positions. -/
def gransUnder (d : Desc) (us : List Nat) : List Nat :=
  (us.flatMap fun u => (unitPieces d u).flatMap fun p =>
    (List.range ((p.1 + p.2 + 63) / 64 - p.1 / 64)).map (p.1 / 64 + ·)).eraseDups

/-- The bytes of image granule `g` of a transposed tile, from the units that have arrived: element (r, c) of the tile
stands at position c * TR + r (R248). -/
def tileGranule (d : Desc) (stage : List (Nat × Granule)) (g : Nat) : List Byte :=
  let e := 2 ^ d.esz
  let p0 := 64 * g / (d.tr * d.tc) * (d.tr * d.tc)
  tabulate 64 fun k =>
    let q := 64 * g + k - p0
    let src := p0 + q / e % d.tr * d.tc + q / e / d.tr * e + q % e
    BitVec.ofNat 8 (byteField ((kGet stage (src / 64)).getD 0) (src % 64) 1)

/-- Image granule `g` of a transposed stream written whole once every unit that has a position in it has arrived and no
earlier access holds it (R257, R272). -/
def writeTileGranule (s : State) (id g : Nat) : State :=
  match s.strm.streams.find? fun st => st.id == id with
  | none => s
  | some st =>
    let d := descOf st.image
    if st.wrote.contains g || !(granUnits d g).all (fun u => (kGet st.stage u).isSome)
        || rngsBusy s st.seq (granRngs s st [g] true) then s
    else
      setStream (bufStore s st.uid d.h (d.boff + 64 * g) (tileGranule d st.stage g)) id fun st =>
        { st with wrote := st.wrote ++ [g] }

/-- Units of a transposed stream that have arrived take their places among the others; a unit that arrives again takes the
place of its old data. -/
def stageUnits (s : State) (id : Nat) (us : List (Nat × Granule)) : State :=
  setStream s id fun st => { st with stage := us.foldl (fun l u => u :: l.filter fun x => x.1 != u.1) st.stage }

/-- The bytes of memory that the positions of units occupy. -/
def unitCells (s : State) (st : Stream) (us : List Nat) : List (Nat × Nat) :=
  let d := descOf st.image
  match findBuf s st.uid d.h with
  | some b => us.flatMap fun u => (unitPieces d u).flatMap fun p => bufPieces b (d.boff + p.1) p.2
  | none => []

/-- Delivered units replace what stood in their cells: prefetched data there that nothing has read is dropped. -/
def dropCells (s : State) (cells : List (Nat × Nat)) : State :=
  let gone := fun (c : Nat × Nat) => cells.any fun x => decide (x.1 ≤ c.1) && decide (c.1 + c.2 ≤ x.1 + x.2)
  let left := s.pad.fresh.map fun u => { u with cells := u.cells.filter fun c => !gone c }
  padDiscard { s with pad := { s.pad with fresh := left } } fun u => u.cells.isEmpty

/-- The prefetched granules of a read request marked as unread, each with every place that it serves; `skip` names the
units that a Cue has discarded (19, R455; R316). -/
def markUnread (s : State) (st : Stream) (starts : List Nat) (n : Nat) (skip : List Nat) : State :=
  (List.range n).foldl (fun s k =>
    let us := (starts.map (· + k)).filter fun u => !skip.contains u
    if us.isEmpty then s
    else
      let cells := unitCells s st us
      let s := dropCells s cells
      { s with pad := { s.pad with fresh := s.pad.fresh ++ [⟨st.uid, cells, us.any st.late.contains⟩] } }) s

/-- The units of a read request with their data, but for those that a Cue has discarded (R316). -/
def landUnits (starts : List Nat) (n : Nat) (skip : List Nat) (addr : Nat) (data : BitVec 2048) : List (Nat × Granule) :=
  (starts.flatMap fun a => (List.range n).map fun k =>
      (a + k, BitVec.ofNat 512 (bvGet data (8 * ((addr + 64 * k) % 256)) 512))).filter fun u => !skip.contains u.1

/-- The delivery of a read request: none while an earlier access holds a granule that it writes. In place each unit is
written; under XP the units are kept, and the granules that have become whole are written (R257, R272). -/
def deliver (s : State) (st : Stream) (starts : List Nat) (n : Nat) (skip : List Nat) (addr : Nat) (data : BitVec 2048) :
    Option State :=
  let d := descOf st.image
  let us := landUnits starts n skip addr data
  let gs := gransUnder d (us.map (·.1))
  if d.xp then
    some (gs.foldl (fun s g => writeTileGranule s st.id g)
      (stageUnits (markUnread s st starts n skip) st.id us))
  else if rngsBusy s st.seq (granRngs s st gs true) then none
  else
    some (us.foldl (fun s u => bufStore s st.uid d.h (d.boff + 64 * u.1) (natBytes 64 u.2.toNat))
      (markUnread s st starts n skip))

/-- The granules that `n` units from `u` touch in the buffer. -/
def unitsRngs (s : State) (st : Stream) (u n : Nat) (wr : Bool) : List Rng :=
  granRngs s st (gransUnder (descOf st.image) ((List.range n).map (u + ·))) wr

/-! ## Requests (R253 to R256) -/

/-- The stream on a physical slot that may issue: not stopped, not suspended, not walking (R255, R268). -/
def readyStream (s : State) (slot : BitVec 6) (reads : Bool) : Option Stream :=
  s.strm.streams.find? fun st => st.phys == slot.toNat && !st.stopped && !st.walking && st.susp.isNone
    && (descReads (descOf st.image) == reads) && !streamComplete s st

/-- The stream is suspended by a translation fault of its next request (R268). -/
def suspendStream (s : State) (st : Stream) (va level reason : Nat) : State :=
  let (s, f) := noteFault s st.uid (BitVec.ofNat 6 st.phys) va (!descReads (descOf st.image)) level reason
  setStream s st.id fun st => { st with susp := some f, walking := false }

/-- A read request of `n` units at a physical address (17 Table 17-4: READ, class DATA). -/
def readReq (s : State) (uid : Nat) (id : Nat) (starts : List Nat) (n pa tag : Nat) : Req :=
  readReqOf s tag 0 pa (n - 1) 0 (some uid) (.stream id starts n [])

/-- The gather row of unit `u` whose index is at or above ILIM: zero bytes, no request (R249). -/
def zeroRow (s : State) (st : Stream) (u : Nat) : State :=
  let d := descOf st.image
  let row := u / rowUnits d
  let s := bufStore s st.uid d.h (d.boff + row * d.cols) (List.replicate d.cols 0)
  let s := { s with strm := { s.strm with gidxSkip := s.strm.gidxSkip + 1 } }
  setStream s st.id fun st => { st with next := (row + 1) * rowUnits d }

/-- The read of an index that the gather makes for unit `u`, if it has not been made (R257). -/
def indexRngs (s : State) (st : Stream) (u : Nat) : List Rng :=
  let d := descOf st.image
  let o := d.ioff + 4 * (u / rowUnits d)
  if d.kind = 2 ∧ st.idxs.length ≤ u / rowUnits d then [rBuf s st.uid d.ih (o : Nat) (o + 4 : Nat) false] else []

/-- The index of the gather row of unit `u` has been read: kept, and its granule is used (R249; 19, R455). -/
def useIndex (s : State) (st : Stream) (u : Nat) : State :=
  let d := descOf st.image
  let row := u / rowUnits d
  if d.kind = 2 ∧ row = st.idxs.length then
    let v := gatherIndex s st d row
    bufTake (setStream s st.id fun st => { st with idxs := st.idxs ++ [v] }) st.uid d.ih (d.ioff + 4 * row) 4
  else s

/-- A read stream issues its next request (R253 to R255, R261). -/
def readRequest (s : State) (st : Stream) : State :=
  match nextUnit st with
  | none => s
  | some u =>
    if cueHolds st u then s
    else if rngsBusy s st.seq (indexRngs s st u) then markLate s st.seq (indexRngs s st u)
    else
      match unitAddr s st u with
      | none =>
        let d := descOf st.image
        if rngsBusy s st.seq (unitsRngs s st (u / rowUnits d * rowUnits d) (rowUnits d) true) then s
        else zeroRow (useIndex s st u) st u
      | some a =>
        let n := runLen s st u a 3
        match xlLookup s a.toNat false with
        | .fault lv rs => suspendStream s st a.toNat lv rs
        | .walk =>
          match startWalk s a.toNat false (.stream st.id) (some st.uid) with
          | some s => setStream s st.id fun st => { st with walking := true }
          | none => s
        | .hit pa =>
          if (descOf st.image).sort then
            if 256 ≤ s.strm.sorter.length then s
            else
              let s := useIndex s st u
              let s := { s with strm := { s.strm with sorter := s.strm.sorter ++ [⟨st.id, u, n, pa⟩] } }
              setStream s st.id fun st => takeUnits st u n
          else if !tagOk s st then s
          else
            match issueReq s tagsStream.1 tagsStream.2 (readReq s st.uid st.id [u] n pa) with
            | some s => setStream (perfAdd (useIndex s st u) 0x0301 n) st.id fun st => takeUnits st u n
            | none => s

def execStreamReadRequest (slot : BitVec 6) (s : State) : Host.Outcome State Fault Refusal :=
  match readyStream s slot true with
  | some st => .next (readRequest s st)
  | none => .next s

/-- The bytes of unit `u` of a write stream in global format, and the flags of their conversion (R250). -/
def writeUnit (s : State) (st : Stream) (u : Nat) : List Byte × Flags :=
  let d := descOf st.image
  if d.cvt then
    let a := tileFmt d.sfmt
    let b := tileFmt d.dfmt
    let n := 512 / fmtBits b
    let cs := (unpack (fmtBits a) n (leNat (bufRead s st.uid d.h (d.boff + rho d (64 * u)) (rho d 64)))).map
      (tensorConvert a b d.sat)
    (natBytes 64 (pack (fmtBits b) (cs.map (·.1))), orFlags (cs.map (·.2)))
  else (bufRead s st.uid d.h (d.boff + 64 * u) 64, 0)

/-- The uncorrectable scratchpad word, if any, among the bytes that `n` units from `u` of a write stream read (R273). -/
def writeMark (s : State) (st : Stream) (u n : Nat) : Option Mark :=
  let d := descOf st.image
  match findBuf s st.uid d.h with
  | some b =>
    let ps := bufPieces b (d.boff + rho d (64 * u)) (n * rho d 64)
    s.chk.marks.find? fun m => m.hard && inPieces ps m.place
  | none => none

/-- A write stream meets an uncorrectable word: the request is not sent, the stream ends, and the scratchpad's check event
ends the run (R273, R350). -/
def failWrite (s : State) (st : Stream) (m : Mark) : State :=
  let s := setStream s st.id fun st => { stopStream st with status := some eUncorr }
  meetMark (errLast s (BitVec.ofNat 6 st.phys) eUncorr) (some st.uid) m

/-- A write stream issues its next request, once its global extent and the granules it reads are free (R256, R257). -/
def writeRequest (s : State) (st : Stream) : State :=
  match nextUnit st with
  | none => s
  | some u =>
    let d := descOf st.image
    let e := descExtent d
    let a := denseAddr d u
    let n := runLen s st u a 3
    let rs := rGlob e.1 e.2 true :: unitsRngs s st u n false
    if rngsBusy s st.seq rs then markLate s st.seq rs
    else
      match xlLookup s a.toNat true with
      | .fault lv rs => suspendStream s st a.toNat lv rs
      | .walk =>
        match startWalk s a.toNat true (.stream st.id) (some st.uid) with
        | some s => setStream s st.id fun st => { st with walking := true }
        | none => s
      | .hit pa =>
        if !tagOk s st then s
        else
          let us := (List.range n).map fun k => writeUnit s st (u + k)
          match writeMark s st u n with
          | some m => failWrite s st m
          | none =>
            match issueReq s tagsStream.1 tagsStream.2 fun t =>
              writeReqOf s t 2 pa (us.flatMap (·.1)) 0 (some st.uid) (.stream st.id [u] n []) with
            | some s =>
              let s := raiseVec s (orFlags (us.map (·.2)))
              let s := bufTake s st.uid d.h (d.boff + rho d (64 * u)) (n * rho d 64)
              setStream s st.id fun st => takeUnits st u n
            | none => s

def execStreamWriteRequest (slot : BitVec 6) (s : State) : Host.Outcome State Fault Refusal :=
  match readyStream s slot false with
  | some st => .next (writeRequest s st)
  | none => .next s

/-! ## The gather sorter (R261) -/

/-- Parity of a number of at most 52 bits. -/
def parity (x : Nat) : Bool := ((List.range 52).filter fun b => x / 2 ^ b % 2 == 1).length % 2 == 1

/-- A key of a physical address under masks held as bits [51:6]. -/
def sortKey {n : Nat} (masks : Vector (BitVec 46) n) (pa : Nat) : Nat :=
  bitsOf (masks.toList.map fun m => parity (pa &&& (m.toNat * 64)))

/-- An entry put into a list in ascending bank key, behind its equals. -/
def bankInsert (key : SortEntry → Nat) (e : SortEntry) : List SortEntry → List SortEntry
  | [] => [e]
  | x :: xs => if key e < key x then e :: x :: xs else x :: bankInsert key e xs

/-- The order of the requests of one page key. -/
def bankSort (key : SortEntry → Nat) (l : List SortEntry) : List SortEntry := l.foldl (fun acc e => bankInsert key e acc) []

/-- The whole window in the order of R261: the oldest request's page first, again and again. -/
def sortWindow (page bank : SortEntry → Nat) : Nat → List SortEntry → List SortEntry
  | 0, l => l
  | _, [] => []
  | fuel + 1, e :: l =>
    bankSort bank ((e :: l).filter fun x => page x == page e)
      ++ sortWindow page bank fuel ((e :: l).filter fun x => page x != page e)

/-- Entries of one stream with one address and length merge into one request (R261; log 29). -/
def sameRequest (a b : SortEntry) : Bool := a.id == b.id && a.pa == b.pa && a.n == b.n

/-- An entry of the window that a pending Cue holds: it has a position at or beyond P (09, R237). -/
def sortHeld (st : Stream) (e : SortEntry) : Bool := (List.range e.n).any fun k => cueHolds st (e.start + k)

/-- The entries of the window issued in order while tags are free; those that a Cue holds stay (R237). -/
def issueSorted (s : State) : Nat → List SortEntry → State
  | 0, _ => s
  | _, [] => s
  | fuel + 1, e :: rest =>
    match s.strm.streams.find? fun st => st.id == e.id with
    | none => s
    | some st =>
      let same := fun x => sameRequest e x && !sortHeld st x
      let group := e :: rest.filter same
      if sortHeld st e then issueSorted s fuel rest
      else if !tagOk s st then s
      else
        match issueReq s tagsStream.1 tagsStream.2 (readReq s st.uid st.id (group.map (·.start)) e.n e.pa) with
        | none => s
        | some s =>
          let s := perfAdd (perfAdd s 0x0301 e.n) 0x0309 (group.length - 1)
          let s := { s with strm := { s.strm with sorter := s.strm.sorter.filter fun x => !same x } }
          issueSorted s fuel (rest.filter fun x => !same x)

/-- SORTER_ISSUE: the window is issued by page and bank key (R261). -/
def execSorterIssue (s : State) : Host.Outcome State Fault Refusal :=
  let w := s.strm.sorter
  let page := fun e : SortEntry => sortKey s.strm.pgmask e.pa
  let bank := fun e : SortEntry => sortKey s.strm.bkmask e.pa
  .next (issueSorted s w.length (sortWindow page bank w.length w))

/-! ## Satisfied Cues (09 R237; 12 R316) -/

/-- The units of G: requested, at or beyond P, in the range of an ACQ before the CUE that was not complete when they were
requested (R316). -/
def cueUnits (s : State) (st : Stream) (c : Cue) : List Nat :=
  let d := descOf st.image
  (List.range st.next).filter fun u =>
    decide (c.p < unitEnd d u) && !st.refetch.contains u
      && !unitInSorter s st.id u &&
      match unitAddr s st u with
      | none => false
      | some a => st.marks.any fun m =>
          decide (m.seq < c.seq) && decide (u < m.next) && !m.gone.contains u && decide ((m.lo : Int) < a + 64) && decide (a < (m.hi : Int))

/-- Units of a stream discarded from its requests in flight. -/
def skipUnits (id : Nat) (us : List Nat) (r : Req) : Req :=
  match r.owner with
  | .stream j starts n skip => if j = id then { r with owner := .stream j starts n (skip ++ us) } else r
  | _ => r

/-- The requested granules of a request whose last place is discarded with the units `us` (19, R455). -/
def skippedGrans (id : Nat) (us : List Nat) (r : Req) : Nat :=
  match r.owner with
  | .stream j starts n skip =>
    if j = id then
      ((List.range n).filter fun k =>
        let live := (starts.map (· + k)).filter fun u => !skip.contains u
        !live.isEmpty && live.all us.contains).length
    else 0
  | _ => 0

/-- The first Cue of a stream removed; the granules of G are discarded and requested again ahead of any other (R316). -/
def satisfyCue (s : State) (st : Stream) (c : Cue) : State :=
  let us := cueUnits s st c
  let s := perfAdd s 0x0304 ((streamReqs s).map (skippedGrans st.id us)).sum
  let s := dropCells s (unitCells s st us)
  let s := { s with strm := { s.strm with
    reqs := s.strm.reqs.map (skipUnits st.id us)
    landed := s.strm.landed.map fun l => { l with req := skipUnits st.id us l.req } } }
  let gs := gransUnder (descOf st.image) us
  setStream s st.id fun st =>
    { st with cues := st.cues.drop 1, refetch := st.refetch ++ us
              stage := st.stage.filter fun x => !us.contains x.1
              wrote := st.wrote.filter fun g => !((descOf st.image).xp && gs.contains g)
              marks := mapIf (fun m => decide (m.seq < c.seq)) (fun m => { m with gone := m.gone ++ us }) st.marks }

/-- CUE_SATISFIED: the oldest Cue of the stream on a physical slot, once all that precedes it is complete (09, R237). -/
def execCueSatisfied (slot : BitVec 6) (s : State) : Host.Outcome State Fault Refusal :=
  match s.strm.streams.find? fun st => st.phys == slot.toNat && !st.cues.isEmpty with
  | none => .next s
  | some st =>
    match st.cues with
    | [] => .next s
    | c :: _ => if workDone s st.uid c.seq (some st.id) then .next (satisfyCue s st c) else .next s

/-! ## Answers -/

/-- A stream ends other than by delivering everything (Table 10-8). -/
def failStream (s : State) (st : Stream) (a : Answer) (va : Nat) : State :=
  let s := setStream s st.id fun st => { stopStream st with status := some (answerCode a) }
  let s := { s with strm := { s.strm with
    sorter := s.strm.sorter.filter fun e => e.id != st.id } }
  endAccess s st.uid (BitVec.ofNat 6 st.phys) a va

/-- The prefetched granules of a read request that will never be delivered are dropped (19, R455). -/
def dropRead (s : State) (starts : List Nat) (n : Nat) (skip : List Nat) : State :=
  perfAdd s 0x0304 ((List.range n).filter fun k => (starts.map (· + k)).any fun u => !skip.contains u).length

/-- The answer to a stream request, which has left the list of requests (R254, R257, R458). The delivery of a read waits for
earlier accesses to the granules that it writes. -/
def streamAnswer (s : State) (st : Stream) (r : Req) (starts : List Nat) (n : Nat) (skip : List Nat) (a : Answer)
    (data : BitVec 2048) : State :=
  let reads := descReads (descOf st.image)
  match a with
  | .ok =>
    if reads then
      match deliver s st starts n skip r.addr.toNat data with
      | some t => t
      | none => { s with strm := { s.strm with landed := s.strm.landed ++ [⟨r, data⟩] } }
    else perfAdd s 0x0308 n
  | _ =>
    failStream (if reads then dropRead s starts n skip else s) st a
      ((unitAddr s st (starts.headD 0)).getD 0).toNat

/-- A delivery that has waited is tried again (R257). -/
def landOne (s : State) (l : Landing) : State :=
  match l.req.owner with
  | .stream id starts n skip =>
    match s.strm.streams.find? fun st => st.id == id with
    | some st =>
      match deliver s st starts n skip l.req.addr.toNat l.data with
      | some t => t
      | none => { s with strm := { s.strm with landed := s.strm.landed ++ [l] } }
    | none => s
  | _ => s

/-- Every delivery that waits is tried again, and every transposed granule that has become whole (R257, R272). -/
def landAll (s : State) : State :=
  let s := s.strm.landed.foldl landOne { s with strm := { s.strm with landed := [] } }
  s.strm.streams.foldl (fun s st =>
    (gransUnder (descOf st.image) (st.stage.map (·.1))).foldl (fun s g => writeTileGranule s st.id g) s) s

/-! ## SCENE_END (09 R234, 10 R259) -/

/-- The read streams of a run issue nothing further. -/
def endReads (s : State) (uid : Nat) : State :=
  let mine := fun st : Stream => st.uid == uid && descReads (descOf st.image)
  let ids := (s.strm.streams.filter mine).map (·.id)
  { s with strm := { s.strm with
      streams := mapIf mine stopStream s.strm.streams
      sorter := s.strm.sorter.filter fun e => !ids.contains e.id } }

/-- SCENE_END: the fetch ends, the instance becomes DRAINING, its read streams end, a member tells its group (11, R293). The run's context stays until the
release or the next start. -/
def execSceneEnd (s : State) : Host.Outcome State Fault Refusal :=
  .next (issue s .s 1 .sceneEnd [] fun s r i =>
    let me := s.boot.ties.clusterId
    let s := setInst s i.uid fun i => { i with st := .draining, gends := i.gends ++ [(i.gtag, i.grun, me)] }
    let s := if i.ringScene then sendStage s (.groupEnd i.gtag i.grun me) else s
    .go (endReads { s with seq := { s.seq with run := some { r with fetching := false } } } i.uid))

end Sys2Proof.Machine
end

