-- ==== Sys2Proof/Machine/Ring.lean ====
section
/-! DEFINITION. The ring instructions RROUTE, RSEND and RRED, the store clause of MMA, and the reduction's partials (11 R280
to R292; 06 R152 to R155). -/

namespace Sys2Proof.Machine

open Sys2Proof

/-! ## Routes (R280 to R282) -/

/-- The mask bit of a cluster. -/
def maskBit (c : Nat) : BitVec 64 := BitVec.ofNat 64 (2 ^ c)

/-- The number of clusters that a mask names. -/
def maskCount (m : BitVec 64) : Nat := ((List.range 64).filter m.getLsbD).length

/-- Some cluster at or above `n` is named. -/
def maskAbove (m : BitVec 64) (n : Nat) : Bool := decide (2 ^ n ≤ m.toNat)

/-- The precise fault of RROUTE (R281, R282), given its mask and the word of FR. -/
def routeFault (s : State) (i : Inst) (mask fr : DWord) : Option Code :=
  let first := bvGet fr 0 6
  let gtag := BitVec.ofNat 16 (bvGet fr 16 16)
  let n := s.rev.n.toNat
  if bvGet fr 6 10 ≠ 0 ∨ bvGet fr 32 32 ≠ 0 then some eBadval
  else if maskAbove mask n || decide (n ≤ first) then some eBadval
  else if i.ringScene && i.gtag != gtag then some eBadval
  else if 1 < maskCount (mask &&& ~~~(maskBit (selfId s))) ∧ !feat1 s 4 then some eFeature
  else if mask &&& (s.rev.ptMap ||| s.rev.zc3) ≠ 0 then some eRingpart
  else none

/-- The scene is a member of a group from here on (R281); the GROUP_ENDs that have come for its run are counted (R293). -/
def groupEnter (s : State) (i : Inst) (gtag : BitVec 16) (mask : BitVec 64) : State :=
  let mine := fun (x : BitVec 16 × BitVec 4 × BitVec 6) => x.1 == gtag && x.2.1 == i.grun
  let ends := s.rev.gends.filter mine
  let s := { s with rev := { s.rev with gends := s.rev.gends.filter fun x => !mine x } }
  setInst s i.uid fun i => { i with ringScene := true, gtag := gtag, gmask := mask, gends := i.gends ++ ends }

def rrouteBody (w : RouteWord) (s : State) (r : Run) (i : Inst) : Verdict :=
  let mask := getS s w.mr
  let fr := getS s w.fr
  match routeFault s i mask fr with
  | some e => .fault e
  | none =>
    let route : Route := ⟨mask, BitVec.ofNat 6 (bvGet fr 0 6), w.txch, w.rxch⟩
    let s := { s with seq := { s.seq with run := some { r with route := route } } }
    if mask = 0 then .go s else .go (purgeStale (groupEnter s i (BitVec.ofNat 16 (bvGet fr 16 16)) mask))

def execRroute (w : RouteWord) (s : State) : Host.Outcome State Fault Refusal :=
  .next (issue s .s 1 (.rroute w) [w.mr, w.fr] (rrouteBody w))

/-! ## Operand rows (R145, R155, R283, R284) -/

/-- A list cut into pieces of `n`. -/
def chunks {α : Type} (n : Nat) : Nat → List α → List (List α)
  | 0, _ => []
  | _, [] => []
  | fuel + 1, l => l.take n :: chunks n fuel (l.drop n)

/-- The 256 data bytes of flits that carry rows of 128 codes of `bits` bits: one row of 16 bits, two of 8, four of 4. -/
def rowData (bits : Nat) (rows : List (List Nat)) : List (BitVec 2048) :=
  (chunks (16 / bits) rows.length rows).map fun rs => BitVec.ofNat 2048 (pack bits rs.flatten)

/-- The flits of a transfer queued east on VC0; with an empty mask they are discarded (R284). -/
def sendRows (s : State) (uid seq : Nat) (mask : BitVec 64) (ch : BitVec 2) (gtag : BitVec 16) (run : BitVec 4)
    (data : List (BitVec 2048)) : State :=
  let m := mask &&& ~~~(maskBit (selfId s))
  if m = 0 then s
  else
    let last := data.length - 1
    let fs := data.zipIdx.map fun d =>
      (⟨0, ch, true, uid, seq, false,
        .flit ⟨BitVec.ofNat 160 (flHeader 0 (if d.2 = last then 1 else 0) (selfId s) ch m gtag run), d.1⟩⟩ : OutFlit)
    { s with rev := { s.rev with east := { s.rev.east with out := s.rev.east.out ++ fs } } }

def rsendBody (ta : BitVec 4) (s : State) (r : Run) (i : Inst) : Verdict :=
  let t := getT s ta
  if !t.full then .fault eTempty
  else if t.shape = 5 ∨ t.fmt = 0 ∨ t.fmt = 1 then .fault eTshape
  else if rngsBusy s s.seq.nextUid [rTile ta false] then .waitFor [rTile ta false]
  else
    let (seq, s) := fresh s
    let s := tileTake s i.uid ta 0 (tileBytes t.shape t.fmt)
    let rows := (List.range (mmaBlocks t.shape)).flatMap fun j =>
      (List.range (mmaRows t.shape)).map fun m => (mmaActRow t t.shape j m).1
    .go (if runAlive s i.uid then
        sendRows s i.uid seq r.route.mask r.route.txch i.gtag i.grun (rowData (tileBits t.fmt) rows)
      else s)

def execRsend (ta : BitVec 4) (s : State) : Host.Outcome State Fault Refusal :=
  .next (issue s .d 1 (.rsend ta) [] (rsendBody ta))

/-! ## The store clause (06, R152 to R155) -/

/-- One word of a row on the store path: scaled when SCL is 1 (R62), then converted (R152); its flags. -/
def storeWord (w : StoreWord) (isInt : Bool) (sc : Nat) (c : Nat) : Nat × Flags :=
  if w.scl then
    let (x, f0) := if isInt then fpConvert .int32 .fp32 .rne false c else (c, 0)
    let (y, f1) := fpMul .fp32 .rne sc x
    let (z, f2) := tensorConvert .fp32 (tileFmt w.ofmt) w.sat y
    (z, f0 ||| f1 ||| f2)
  else tensorConvert (if isInt then .int32 else .fp32) (tileFmt w.ofmt) w.sat c

/-- Output row `m` of each array used: its codes and flags (R152, R154). -/
def storeRow (s : State) (p : PendingStore) (sc m : Nat) : List (Nat × Flags) :=
  (List.range p.narr).flatMap fun a =>
    let x := firnRow s a (p.frb + m)
    (rowWords x).map (storeWord p.w (!x.zero && x.isInt) sc)

/-- The comparisons of the reads of row `m` (R127), and with DEST 0 the write of the output row; its flags are raised. A read
that ends the run completes with the words as stored; after it no row is read (05, R129). -/
def storeOne (s : State) (p : PendingStore) (sc m : Nat) : State :=
  if !runAlive s p.uid then s
  else
    let s := checkReads s ((List.range p.narr).map fun a => (a, p.frb + m)) p.uid
    let cs := storeRow s p sc m
    let s := raiseMat s (orFlags (cs.map (·.2)))
    if p.w.dest then s
    else
      bufStore s p.uid p.w.sh.toNat (p.off + (m : Int) * p.str).toNat
        (natBytes (storeRowBytes (BitVec.ofNat 2 (p.narr - 1)) p.w.ofmt) (pack (tileBits p.w.ofmt) (cs.map (·.1))))

/-- The rows of the arrays in the order of R155: array by array, rows ascending. -/
def storeBlocks (s : State) (p : PendingStore) (sc : Nat) : List (List Nat) :=
  (List.range p.narr).flatMap fun a => (List.range p.m).map fun m =>
    (((storeRow s p sc m).drop (128 * a)).take 128).map (·.1)

/-- The store path runs one store clause (R152 to R155). -/
def runStore (s : State) (p : PendingStore) : State :=
  let (sc, fl) := fpMul .fp32 .rne p.scaleA.toNat p.scaleB.toNat
  let s := { s with mat := { s.mat with stores := s.mat.stores.filter fun q => q.seq != p.seq } }
  let s := if p.w.scl then raiseMat s fl else s
  let s := (List.range p.m).foldl (fun s m => storeOne s p sc m) s
  if p.w.dest && runAlive s p.uid then
    sendRows s p.uid p.seq p.mask p.txch p.gtag p.run (rowData (tileBits p.w.ofmt) (storeBlocks s p sc))
  else s

/-- STORE_CLAUSE: the oldest store clause whose MMA has added its last K block runs, once the buffer rows it writes are
free of earlier work (R152, R154; log 12). -/
def execStoreClause (s : State) : Host.Outcome State Fault Refusal :=
  match s.mat.stores.find? (·.ready) with
  | none => .next s
  | some p => if rngsBusy s p.seq (storeRngs s p) then .next s else .next (runStore s p)

/-! ## Reduction (R287 to R292) -/

/-- The clusters that a mask names, eastward from FIRST: rank order. -/
def ranksOf (mask : BitVec 64) (first n : Nat) : List Nat :=
  ((List.range n).map fun k => (first + k) % n).filter mask.getLsbD

/-- rne(acc + x), with the canonical NaN (R287). -/
def redAdd (acc x : Word) : Word :=
  let c := (fpAdd .fp32 .rne acc.toNat x.toNat).1
  BitVec.ofNat 32 (if fpIsNan .fp32 c then fmtNan .fp32 else c)

/-- Elements of a shard, and flits of a half shard. -/
def redShard (r : Red) : Nat := r.len / r.n
def redHalf (r : Red) : Nat := redShard r / 128

/-- 64 elements of the source: of shard `i` from element `e`. -/
def redSrc (r : Red) (i e : Nat) : List Word := (r.src.drop (i * redShard r + e)).take 64

/-- A VC1 flit of the reduction (R292, Table 11-2). -/
def redFlit (s : State) (r : Red) (ch : BitVec 2) (last : Bool) (ws : List Word) : Flit :=
  ⟨BitVec.ofNat 160 (flHeader 1 (bit last) (selfId s) ch r.mask r.gtag r.run + r.w.rid.toNat * 2 ^ 96
      + r.w.op.toNat * 2 ^ 104 + bit r.w.sf * 2 ^ 106 + bit r.w.df * 2 ^ 107 + r.len * 2 ^ 108),
   BitVec.ofNat 2048 (pack 32 (ws.map (·.toNat)))⟩

/-- A VC1 flit queued on one side: injected here, or forwarded from a receive buffer. -/
def redOut (s : State) (east inject : Bool) (uid seq : Nat) (f : Flit) : State :=
  let o : OutFlit := ⟨1, 0, inject, uid, seq, !inject, .flit f⟩
  if east then { s with rev := { s.rev with east := { s.rev.east with out := s.rev.east.out ++ [o] } } }
  else { s with rev := { s.rev with west := { s.rev.west with out := s.rev.west.out ++ [o] } } }

/-- Final sums of shard `i` from element `e`: written to the destination, or kept for the update engine (R288). -/
def redStore (s : State) (r : Red) (east : Bool) (i e : Nat) (ws : List Word) : State :=
  if r.w.df then
    { s with rev := { s.rev with red := s.rev.red.map fun r =>
        if east then { r with sumE := r.sumE ++ ws } else { r with sumW := r.sumW ++ ws } } }
  else
    let at_ := if r.w.op = 0 then e else i * redShard r + e
    bufStore s r.uid r.w.dh.toNat (r.w.doff.toNat + 4 * at_) (natBytes (4 * ws.length) (pack 32 (ws.map (·.toNat))))

/-- Half-shard flit `q` of a phase: which hop, which flit of its half. -/
def redHop (r : Red) (q : Nat) : Nat × Nat := (q / redHalf r, q % redHalf r)

/-- The first element, within a shard, of flit `j` of its half. -/
def redElem (r : Red) (east : Bool) (j : Nat) : Nat := (if east then 0 else redShard r / 2) + 64 * j

/-- A partial of the reduce phase: added; sent on, or final at its owner, which starts the gather (R287, R288). DESIGN CHOICE
(log 47): a partial sent on is a flit that this member injects, with the two credits of R276, and the entry in which it
arrived is free at once. -/
def redReduce (s : State) (r : Red) (east : Bool) (f : Flit) : State :=
  let (p, j) := redHop r (if east then r.gotE else r.gotW)
  let i := if east then (r.rank + 2 * r.n - 2 - p) % r.n else (r.rank + 2 + p) % r.n
  let e := redElem r east j
  let ws := List.zipWith redAdd ((unpack 32 64 f.data.toNat).map (BitVec.ofNat 32)) (redSrc r i e)
  let s := perfAdd s 0x0506 64
  let s := { s with rev := { s.rev with red := s.rev.red.map fun r =>
    if east then { r with gotE := r.gotE + 1 } else { r with gotW := r.gotW + 1 } } }
  let last := decide (j + 1 = redHalf r)
  if p + 2 = r.n then
    let s := redStore s r east i e ws
    if r.w.op = 1 then redOut s east true r.uid r.seq (redFlit s r 1 last ws) else s
  else redOut s east true r.uid r.seq (redFlit s r 0 last ws)

/-- Final sums of the gather phase: written, and forwarded unchanged until they have been round (R288). -/
def redGather (s : State) (r : Red) (east : Bool) (f : Flit) : State × Bool :=
  let (p, j) := redHop r (if east then r.gatE else r.gatW)
  let i := if east then (r.rank + r.n - 1 - p) % r.n else (r.rank + 1 + p) % r.n
  let s := { s with rev := { s.rev with red := s.rev.red.map fun r =>
    if east then { r with gatE := r.gatE + 1 } else { r with gatW := r.gatW + 1 } } }
  let s := redStore s r east i (redElem r east j) ((unpack 32 64 f.data.toNat).map (BitVec.ofNat 32))
  if p + 2 < r.n then (redOut s east false r.uid r.seq f, true) else (s, false)

/-- The RRED has received and sent everything it owes (R291). -/
def redComplete (s : State) (r : Red) : Bool :=
  let all := (r.n - 1) * redHalf r
  r.gotE == all && r.gotW == all && (r.w.op == 0 || (r.gatE == all && r.gatW == all))
    && !((s.rev.east.out ++ s.rev.west.out).any fun o => o.seq == r.seq && o.vc == 1)

/-- A complete RRED ends; with DF 1 its shard is the gradient of the armed update (R288, R291; 13 R332). -/
def redFinish (s : State) : State :=
  match s.rev.red with
  | some r =>
    if redComplete s r then
      let s := { s with rev := { s.rev with red := none } }
      if r.w.df then
        { s with upd := { s.upd with cur := s.upd.cur.map fun u => { u with grad := r.sumE ++ r.sumW } } }
      else s
    else s
  | none => s

/-- The entry of a VC1 flit freed at the port it arrived at. -/
def free1 (s : State) (east : Bool) (f : Flit) : State :=
  if east then { s with rev := { s.rev with west := freeEntries s.rev.west [f] } }
  else { s with rev := { s.rev with east := freeEntries s.rev.east [f] } }

/-- A VC1 flit of the current run addressed to this cluster meets the RRED in progress: none when it waits for a later
one (R292). -/
def redArrive (s : State) (east : Bool) (f : Flit) : Option State :=
  match s.rev.red with
  | none => none
  | some r =>
    if r.gtag ≠ flGtag f ∨ r.run ≠ flRun f then none
    else if r.w.rid.toNat < flRid f then none
    else if flRid f ≠ r.w.rid.toNat ∨ flRed f ≠ (r.w.op.toNat, r.w.sf, r.w.df, r.len) then
      some (abandonRun (free1 s east f) r.uid eRingmatch true)
    else if flCh f = 0 then some (redFinish (free1 (redReduce s r east f) east f))
    else
      let (s, held) := redGather s r east f
      some (redFinish (if held then s else free1 s east f))

/-- The waiting VC1 flits meet a new RRED. -/
def redDrain (s : State) : State :=
  let w := s.rev.rx1W
  let e := s.rev.rx1E
  let s := { s with rev := { s.rev with rx1W := [], rx1E := [] } }
  let s := w.foldl (fun s f =>
    match redArrive s true f with
    | some t => t
    | none => { s with rev := { s.rev with rx1W := s.rev.rx1W ++ [f] } }) s
  e.foldl (fun s f =>
    match redArrive s false f with
    | some t => t
    | none => { s with rev := { s.rev with rx1E := s.rev.rx1E ++ [f] } }) s

/-- An update that waits for its gradient from the ring (13, R332). -/
def armed (s : State) (uid : Nat) : Option Upd :=
  match s.upd.cur with
  | some u => if u.uid = uid ∧ byteField u.recd 4 1 = 0 ∧ u.grad = [] then some u else none
  | none => none

/-- The number of elements L. -/
def rredLen (s : State) (w : RredWord) : Nat := if w.lr then (getS s (w.len.truncate 5)).toNat else w.len.toNat

/-- Bytes of the destination. -/
def rredDestBytes (w : RredWord) (l n : Nat) : Nat := if w.op = 0 then l / n * 4 else l * 4

/-- The precise fault of RRED (R290; 13 R332). -/
def rredFault (s : State) (r : Run) (i : Inst) (w : RredWord) : Option Code :=
  let l := rredLen s w
  let n := maskCount r.route.mask
  let size := bufBytes s i.uid
  let fed : Bool := match armed s i.uid with
    | some u => byteField u.recd 8 4 == l / n
    | none => false
  if !i.ringScene || !r.route.mask.getLsbD (selfId s) || decide (2 ≤ w.op.toNat) || (w.df && w.op == 1) then some eBadval
  else if l = 0 ∨ 8388608 < l ∨ l % (128 * n) ≠ 0 then some eBadval
  else if w.df && !fed then some eBadval
  else if !feat1 s 5 || (w.df && !someRule (runCtx s i)) then some eFeature
  else if w.soff.toNat % 64 ≠ 0 ∨ w.doff.toNat % 64 ≠ 0 then some eAlign
  else if size w.sh.toNat < w.soff.toNat + l * (if w.sf then 2 else 4) then some eBufsize
  else if !w.df && decide (size w.dh.toNat < w.doff.toNat + rredDestBytes w l n) then some eBufsize
  else none

/-- The source elements as FP32 words; BF16 is widened exactly (R287). -/
def rredSource (s : State) (uid : Nat) (w : RredWord) (l : Nat) : List Word :=
  if w.sf then (unpack 16 l (leNat (bufRead s uid w.sh.toNat w.soff.toNat (2 * l)))).map fun c => BitVec.ofNat 32 (c * 65536)
  else (unpack 32 l (leNat (bufRead s uid w.sh.toNat w.soff.toNat (4 * l)))).map (BitVec.ofNat 32)

/-- The partials that this rank injects: shard r - 1 east, shard r + 1 west (R287); a lone member has its sums at once. -/
def redInject (s : State) (r : Red) : State :=
  let per := redHalf r
  if r.n = 1 then
    let s := (List.range per).foldl (fun s j => redStore s r true 0 (redElem r true j) (redSrc r 0 (redElem r true j))) s
    (List.range per).foldl (fun s j => redStore s r false 0 (redElem r false j) (redSrc r 0 (redElem r false j))) s
  else
    let put := fun (east : Bool) (i : Nat) (s : State) (j : Nat) =>
      redOut s east true r.uid r.seq (redFlit s r 0 (decide (j + 1 = per)) (redSrc r i (redElem r east j)))
    let s := (List.range per).foldl (put true ((r.rank + r.n - 1) % r.n)) s
    (List.range per).foldl (put false ((r.rank + 1) % r.n)) s

def rredBody (w : RredWord) (s : State) (r : Run) (i : Inst) : Verdict :=
  match rredFault s r i w with
  | some e => .fault e
  | none =>
    let l := rredLen s w
    let ranks := ranksOf r.route.mask r.route.first.toNat s.rev.n.toNat
    let n := ranks.length
    let srcB := l * (if w.sf then 2 else 4)
    let rs := rBuf s i.uid w.sh.toNat w.soff.toNat ((w.soff.toNat + srcB : Nat) : Int) false ::
      (if w.df then [] else
        [rBuf s i.uid w.dh.toNat w.doff.toNat ((w.doff.toNat + rredDestBytes w l n : Nat) : Int) true])
    if s.rev.red.isSome then .wait
    else if rngsBusy s s.seq.nextUid rs then .waitFor rs
    else
      let (seq, s) := fresh s
      let red : Red := ⟨i.uid, seq, w, l, n, ranks.findIdx (· == selfId s), r.route.mask, i.gtag, i.grun,
        rredSource s i.uid w l, 0, 0, 0, 0, [], []⟩
      let s := bufTake s i.uid w.sh.toNat w.soff.toNat srcB
      .go (if runAlive s i.uid then redDrain (redFinish (redInject { s with rev := { s.rev with red := some red } } red))
        else s)

def execRred (w : RredWord) (s : State) : Host.Outcome State Fault Refusal :=
  .next (issue s .d 1 (.rred w) (if w.lr then [w.len.truncate 5] else []) (rredBody w))

end Sys2Proof.Machine
end

