-- ==== Sys2Proof/Machine/Stop.lean ====
section
/-! DEFINITION. Endings that reach a run from outside it: a group's abandonment (11, R296), ABORT and the Curtain (15 R380; 16
R404 to R406), and a ring stop's entry into pass-through (11, R299). -/

namespace Sys2Proof.Machine

open Sys2Proof

/-- A run that is ending by a check event ends by `e` instead: its entry is logged, and with `tell` its group is told
(14 Table 14-2; 11 R296; 16 R404). -/
def overrideCheck (s : State) (i : Inst) (o e : Ending) (tell : Bool) : State :=
  let s := match o.entry with
    | some w => logAdd s w
    | none => s
  settle (setInst (if tell then sendAbandon s i e.status else s) i.uid fun i => { i with ending := some e })

/-- An instance is abandoned with a status by something other than its own instruction, in whatever state of its run:
running, draining, already ending by a check event, or waiting for its replay. -/
def abandonInst (s : State) (uid : Nat) (status : Code) (tell : Bool) : State :=
  match findInst s uid with
  | none => s
  | some i =>
    let e : Ending := ⟨.leave, status, 0, false, false, none⟩
    if i.st = .replayPending then finishEnd (if tell then sendAbandon s i status else s) i e
    else if !instActive i then s
    else
      match i.ending with
      | none => abandonRun s uid status tell
      | some o => if o.kind = .check then overrideCheck s i o e tell else s

/-- The RUNNING instance ended by ABORT; an ending in progress becomes this one (R380; 14 Table 14-2). -/
def abortRunning (s : State) (remove : Bool) : State :=
  match s.seq.insts.find? fun i => i.st == .running with
  | none => s
  | some i =>
    let e : Ending := ⟨.abort, eAborted, 0, remove, false, none⟩
    match i.ending with
    | none => settle (endRun s i.uid e true)
    | some o =>
      if o.kind = .check then overrideCheck s i o e true
      else settle (setInst s i.uid fun i => { i with ending := some { o with remove := remove || o.remove } })

/-- Instances removed with one completion notice each and their leases reported as unfinished (R380, R404). -/
def removeWith (s : State) (p : Inst → Bool) : State :=
  let s := (s.seq.insts.filter p).foldl (fun s i => completionNotice (endLeases s i.uid 0) i eAborted false 0 0) s
  removeInsts s p

/-- ABORT with SCOPE 1 (R380): the RUNNING instance ends and is removed, and so is every instance that is not DRAINING. -/
def abortAll (s : State) : State :=
  let s := abortRunning s true
  removeWith s fun i => i.st != .draining && i.st != .running

/-- The Curtain acts at the cluster, once in a stop event (R405, R406, Table 16-6). -/
def curtainAct (s : State) : State :=
  if s.pwr.stopEvent || s.chk.withdrawn || !s.boot.released || !s.boot.poreset || !s.boot.clreset then s
  else
    let s := { s with pwr := { s.pwr with stopEvent := true } }
    purgeRx (abortAll s) fun _ => true

/-- Every instance of a group is abandoned with a status. -/
def abandonGroups (s : State) (status : Code) (tell : Bool) : State :=
  (s.seq.insts.filter inGroup).foldl (fun s i => abandonInst s i.uid status tell) s

/-- The stop sends REJOIN and is rejoining (11, R300). -/
def rejoinOut (s : State) : State :=
  sendStage { s with rev := { s.rev with pt := true, rejoining := true, rejoinBack := false, rejoinTick := false } }
    (.rejoin s.boot.ties.clusterId)

/-- The stop enters pass-through: a rejoin is cancelled, FENCE is sent, what the stop holds for its cluster is discarded, and
its own bit of REV_PT.MAP is set (R299, R300; 15 R383). -/
def fenceOut (s : State) : State :=
  let map := if s.rev.done then bvSet s.rev.ptMap (selfId s) true else s.rev.ptMap
  let s := { s with rev := { s.rev with ptMap := map, rejoining := false, rejoinBack := false, rejoinTick := false } }
  purgeRx (sendStage s (.fence s.boot.ties.clusterId)) fun _ => true

end Sys2Proof.Machine
end

