-- ==== Sys2Proof/Machine/Link.lean ====
section
/-! DEFINITION. The links of the ring stop (11 R275 to R279, R285, R292 to R301; 17 R428 to R431): flits with CRC, retry and
credits, training, Stage Door messages, groups, fence and rejoin. -/

namespace Sys2Proof.Machine

open Sys2Proof

/-! ## CRC-32C (17, R428) -/

/-- One bit of a reflected CRC. -/
def crcStep (poly c : BitVec 32) (b : Bool) : BitVec 32 := if (c.getLsbD 0) != b then (c >>> 1) ^^^ poly else c >>> 1

/-- `n` bits of `v`, least significant first. -/
def crcBits (poly : BitVec 32) : Nat → Nat → BitVec 32 → BitVec 32
  | 0, _, c => c
  | n + 1, v, c => crcBits poly n (v / 2) (crcStep poly c (v % 2 == 1))

/-- CRC-32C of a flit: header, then data, each bit 0 first (R428). -/
def flitCrc (f : Flit) : BitVec 32 :=
  ~~~(crcBits 0x82F63B78 2048 f.data.toNat (crcBits 0x82F63B78 160 f.hdr.toNat (BitVec.allOnes 32)))

/-! ## What the lanes of a link carry (17, R429, Table 17-6) -/

/-- The flit of an arrival: at generation 1 bytes 0 to 127 are in the low half of FI_D of its first beat and bytes 128 to 255
in that of its second; the upper halves are ignored (R429). -/
def linkFlit (s : State) (f : LinkFlit) : Flit :=
  if s.rev.gen = 1 then ⟨f.flit.hdr, (f.data2.truncate 1024 : BitVec 1024) ++ (f.flit.data.truncate 1024 : BitVec 1024)⟩
  else f.flit

/-- The beats that carry a flit: one at generation 2, two at generation 1 (R429). -/
def flitBeats (gen : BitVec 2) (seq : BitVec 5) (f : Flit) : List LinkBeat :=
  if gen = 1 then
    [⟨false, f.hdr, seq, (f.data.truncate 1024 : BitVec 1024).zeroExtend 2048, 0⟩,
     ⟨true, 0, 0, ((f.data >>> 1024).truncate 1024 : BitVec 1024).zeroExtend 2048, flitCrc f⟩]
  else [⟨false, f.hdr, seq, f.data, flitCrc f⟩]

/-- The items of a training report, as numbers. -/
def trainItems (i : TrainId) : List Nat :=
  [i.cluster.toNat, i.gen.toNat, i.die.toNat, i.vc0.toNat, i.vc1.toNat, i.vc2.toNat, i.vc3.toNat]

/-- The sender of a Stage Door message, and its items as numbers (Table 11-6). -/
def stageItems (m : StageMsg) : BitVec 6 × List Nat :=
  match m with
  | .train (.collect ids) => (0, 0 :: ids.flatMap trainItems)
  | .train (.outcome st n g ids) => (0, 1 :: st.toNat :: n.toNat :: g.toNat :: ids.flatMap trainItems)
  | .curtain o => (o, [2, o.toNat])
  | .groupEnd g r c => (c, [3, g.toNat, r.toNat, c.toNat])
  | .groupReplay g r c => (c, [4, g.toNat, r.toNat, c.toNat])
  | .groupAbandon g r st c => (c, [5, g.toNat, r.toNat, st.toNat, c.toNat])
  | .fence c => (c, [6, c.toNat])
  | .rejoin c => (c, [7, c.toNat])
  | .ringDown c e => (c, [8, c.toNat, bit e])

/-- The flit that an entry of an output queue is; the data of a Stage Door message are a free layout of its items (log 22). -/
def bodyFlit (b : OutBody) : Flit :=
  match b with
  | .flit f => f
  | .stage m =>
    let (c, items) := stageItems m
    ⟨BitVec.ofNat 160 (flHeader 3 2 c.toNat 0 0 0 0), Config.stageData items⟩

/-! ## Ports -/

def getPort (s : State) (side : Side) : Port :=
  match side with
  | .east => s.rev.east
  | .west => s.rev.west

def setPort (s : State) (side : Side) (p : Port) : State :=
  match side with
  | .east => { s with rev := { s.rev with east := p } }
  | .west => { s with rev := { s.rev with west := p } }

/-- The port on the other side. -/
def opposite (side : Side) : Side :=
  match side with
  | .east => .west
  | .west => .east

/-- A flit queued at a port that forwards it; it holds its receive-buffer entry until it goes (R276). -/
def forward (s : State) (side : Side) (uid seq : Nat) (f : Flit) : State :=
  let p := getPort s side
  let ch := if flVc f = 0 then flCh f else 0
  setPort s side { p with out := p.out ++ [⟨BitVec.ofNat 2 (flVc f), ch, false, uid, seq, true, .flit f⟩] }

/-- A receive-buffer entry of a port freed: one credit (R276). -/
def freeAt (s : State) (side : Side) (f : Flit) : State := setPort s side (freeEntries (getPort s side) [f])

/-- A Stage Door message forwarded on a side whose link is up (R297). -/
def forwardStage (s : State) (side : Side) (m : StageMsg) : State :=
  let p := getPort s side
  if p.dead then s else setPort s side { p with out := p.out ++ [⟨3, 0, false, 0, 0, false, .stage m⟩] }

/-! ## A link that fails (R301) -/

/-- Firmware abandons every ring scene with E_LINK (R301). -/
def ringLost (s : State) : State :=
  abandonGroups { s with rev := { s.rev with down := true, line := true } } eLink false

/-- The link of a side is down: logged, recorded, told to the far end of the line (R301, R302). -/
def linkDown (s : State) (side : Side) : State :=
  let p := getPort s side
  if p.dead then s
  else
    let s := setPort s side { p with dead := true }
    let s := logAdd s (logWord eLink 11 0 s.pwr.tickNum 0xFFFF 0 0 0 0)
    let s := { s with rev := { s.rev with linkLast := ⟨true, side == .east, eLink⟩ } }
    ringLost (forwardStage s (opposite side) (.ringDown s.boot.ties.clusterId (side == .east)))

/-! ## Reception (R430) -/

/-- One more CRC failure at a port (REV_CRCERR, saturating). -/
def countCrc (s : State) (side : Side) : State :=
  let inc := fun c : BitVec 16 => if c = 0xFFFF then c else c + 1
  match side with
  | .east => { s with rev := { s.rev with crcE := inc s.rev.crcE } }
  | .west => { s with rev := { s.rev with crcW := inc s.rev.crcW } }

/-- A flit at a port: accepted and acknowledged when it is the next one and its CRC passes; refused when the CRC fails,
twice in a row marks the link down; discarded while a refused flit is awaited (R430). -/
def receive (s : State) (a : Arrival) : State × Bool :=
  let p := getPort s a.side
  if p.dead || a.seq != p.rxSeq then (s, false)
  else if a.ok then
    (setPort s a.side { p with rxSeq := p.rxSeq + 1, nakked := false, rxFail := none, koAck := true, koNak := false
                               koSeq := a.seq }, true)
  else
    let again := p.rxFail == some a.seq
    let s := countCrc (setPort s a.side
      { p with nakked := true, rxFail := some a.seq, koAck := false, koNak := true, koSeq := a.seq }) a.side
    (if again then linkDown s a.side else s, false)

/-- How a flit of the other channels arrives: its CRC passes when it is that of the flit (17, R428). -/
def flitArrival (s : State) (side : Side) (f : LinkFlit) : Arrival := ⟨side, f.seq, flitCrc (linkFlit s f) == f.crc⟩

/-- A Stage Door flit at a port; one that is accepted leaves its receive-buffer entry at once (R276, R297). -/
def stageArrive (s : State) (a : Arrival) : State × Bool :=
  let (s, ok) := receive s a
  if ok then
    let p := getPort s a.side
    (setPort s a.side { p with crRet := p.crRet ++ [(3, 0)] }, true)
  else (s, false)

/-- RING_DOWN arrives at a port: DOWN is set and it travels on (R301). -/
def execRingDown (cut : RingCut) (s : State) : Host.Outcome State Fault Refusal :=
  let a := cut.sender.at_
  let (s, ok) := stageArrive s a
  .next (if ok then ringLost (forwardStage s (opposite a.side) (.ringDown cut.sender.cluster cut.east)) else s)

/-! ## Operand and reduction flits (R285, R292, R295, R299) -/

/-- VC0_FLIT: an operand flit at the west port. One that does not name this cluster goes on, behind any earlier one of its sender
and channel that waits here (R277). -/
def execVc0Flit (lf : LinkFlit) (s : State) : Host.Outcome State Fault Refusal :=
  let f := linkFlit s lf
  if flVc f ≠ 0 then .next s
  else
    let (s, ok) := receive s (flitArrival s .west lf)
    let kept := { s with rev := { s.rev with rx0 := s.rev.rx0 ++ [f] } }
    if !ok then .next s
    else if !namesUs s f then .next (if s.rev.rx0.any (sameLine f) then kept else forwardEast s 0 0 f)
    else if passThrough s || staleFlit s f then .next (freeAt s .west f)
    else .next kept

/-- The rows that a flit carries: codes of `bits` bits (05 R107, 06 R145). -/
def flitRows (bits : Nat) (f : Flit) : List (List Nat) :=
  tabulate (16 / bits) fun k => unpack bits 128 (bvGet f.data (128 * bits * k) (128 * bits))

/-- The first element for which `p` holds, and the list without it. -/
def takeFirst {α : Type} (p : α → Bool) : List α → Option (α × List α)
  | [] => none
  | x :: xs => if p x then some (x, xs) else (takeFirst p xs).map fun r => (r.1, x :: r.2)

/-- The MMA that takes rows from a channel of the Revolve port now: the oldest one, while a K block of it has room for rows
(05 R107; 06 R145). -/
def ringTaker (s : State) (ch : BitVec 2) : Option MmaJob :=
  match s.mat.jobs with
  | [] => none
  | j :: _ => if j.w.src && j.rxch == ch && j.blk != 0 && decide (j.taken < mmaRows j.w.shape) then some j else none

/-- VC0_FLIT_USED: the oldest flit of a channel for the MMA that takes it enters the feeders, unless one of its sender stands
before it (R277); its bit is cleared and it is forwarded, or discarded when no cluster is left (R285). -/
def execVc0FlitUsed (ch : BitVec 2) (s : State) : Host.Outcome State Fault Refusal :=
  match ringTaker s ch with
  | none => .next s
  | some j =>
    match findInst s j.uid with
    | none => .next s
    | some i =>
      if !i.ringScene then .next s
      else
        match takeClear (fun f => namesUs s f && flCh f == ch && flGtag f == i.gtag && flRun f == i.grun) [] s.rev.rx0 with
        | none => .next s
        | some (f, rest) =>
          let s := ringRows { s with rev := { s.rev with rx0 := rest } } j (flitRows (tileBits j.w.afmt) f)
          let left := flMask f &&& ~~~(maskBit (selfId s))
          let s := if left = 0 then freeAt s .west f else forwardEast s j.uid j.seq (setMask f left)
          .next (passRx0 s.rev.rx0.length s)

/-- VC1_FLIT: a reduction flit at a port; it travels on to the other side. -/
def execVc1Flit (side : Side) (lf : LinkFlit) (s : State) : Host.Outcome State Fault Refusal :=
  let f := linkFlit s lf
  if flVc f ≠ 1 then .next s
  else
    let (s, ok) := receive s (flitArrival s side lf)
    if !ok then .next s
    else if !namesUs s f then .next (forward s (opposite side) 0 0 f)
    else if passThrough s || staleFlit s f then .next (freeAt s side f)
    else
      let east := side == .west
      let kept := if east then { s with rev := { s.rev with rx1W := s.rev.rx1W ++ [f] } }
        else { s with rev := { s.rev with rx1E := s.rev.rx1E ++ [f] } }
      if currentFlit s f then .next ((redArrive s east f).getD kept) else .next kept

/-- VC2_MESSAGE: a control message names no receiver; it is forwarded until it is back at its sender (R275; log 22). -/
def execVc2Message (side : Side) (lf : LinkFlit) (s : State) : Host.Outcome State Fault Refusal :=
  let f := linkFlit s lf
  if flVc f ≠ 2 then .next s
  else
    let (s, ok) := receive s (flitArrival s side lf)
    if !ok then .next s
    else if flSrc f = selfId s then .next (freeAt s side f)
    else .next (forward s (opposite side) 0 0 f)

/-! ## Sending (R275, R276, R430, R431) -/

/-- Credits held for a channel. -/
def creditOf (c : Credits) (vc ch : BitVec 2) : Nat :=
  match vc.toNat, ch.toNat with
  | 0, 0 => c.c0
  | 0, 1 => c.c1
  | 0, 2 => c.c2
  | 0, _ => c.c3
  | 1, _ => c.v1
  | 2, _ => c.v2
  | _, _ => c.v3

/-- The credits of a channel changed. -/
def creditMap (c : Credits) (vc ch : BitVec 2) (f : Nat → Nat) : Credits :=
  match vc.toNat, ch.toNat with
  | 0, 0 => { c with c0 := f c.c0 }
  | 0, 1 => { c with c1 := f c.c1 }
  | 0, 2 => { c with c2 := f c.c2 }
  | 0, _ => { c with c3 := f c.c3 }
  | 1, _ => { c with v1 := f c.v1 }
  | 2, _ => { c with v2 := f c.v2 }
  | _, _ => { c with v3 := f c.v3 }

/-- A queued flit may go: two credits to inject on VC0 or VC1, otherwise one (R276); nothing of this cluster's own on VC0
to VC2 in pass-through (R299), nor injected on VC0 or VC1 on a ring that is down (R301). -/
def mayGo (s : State) (p : Port) (o : OutFlit) : Bool :=
  let own := o.inject && o.vc != 3
  decide ((if own && o.vc != 2 then 2 else 1) ≤ creditOf p.cr o.vc o.ch)
    && !(own && passThrough s) && !(own && o.vc != 2 && s.rev.line)

/-- The queued flit is of a channel. -/
def ofChannel (vc ch : BitVec 2) (o : OutFlit) : Bool := o.vc == vc && (vc != 0 || o.ch == ch)

/-- What the counters see of a flit that goes (19 Table 19-2). -/
def countSend (s : State) (side : Side) (o : OutFlit) : State :=
  if o.inject then perfAdd s (if side = .east then 0x0501 else 0x0502) 1
  else if o.vc = 0 ∧ o.seq ≠ 0 then s
  else perfAdd s 0x0503 1

/-- The receive-buffer entry of a forwarded flit, freed as it goes. -/
def freeSent (s : State) (side : Side) (o : OutFlit) : State :=
  match o.holds, o.body with
  | true, .flit f => freeAt s (opposite side) f
  | _, _ => s

/-- The flit of a channel that goes next, and the queue without it: the oldest one that may. A forwarded flit with its one
credit goes by an injected one that lacks its second (R276). -/
def nextFlit (s : State) (p : Port) (vc ch : BitVec 2) : Option (OutFlit × List OutFlit) :=
  takeFirst (fun o => ofChannel vc ch o && mayGo s p o) p.out

/-- A virtual channel of a port has a flit and the credits for it. -/
def vcReady (s : State) (p : Port) (vc : BitVec 2) : Bool := p.out.any fun o => o.vc == vc && mayGo s p o

/-- The virtual channel that a port serves at a flit boundary: VC3 always wins; VC0, VC1 and VC2 take turns (R275). -/
def arbiter (s : State) (p : Port) : Option (BitVec 2) :=
  if vcReady s p 3 then some 3
  else ([0, 1, 2].map fun k => BitVec.ofNat 2 ((p.turn.toNat + k) % 3)).find? (vcReady s p)

/-- FLIT_SEND: a refused flit and those after it go again first; otherwise, while the retry buffer has room, a flit of the
virtual channel that the arbiter serves goes (R275, R276, R430). -/
def execFlitSend (side : Side) (vc ch : BitVec 2) (s : State) : Host.Outcome State Fault Refusal :=
  let p := getPort s side
  if p.dead then .next s
  else
    match p.resend with
    | o :: rest =>
      if ofChannel vc ch o.2 then
        .next (perfAdd (setPort s side { p with resend := rest, fo := flitBeats s.rev.gen o.1 (bodyFlit o.2.body) }) 0x0507 1)
      else .next s
    | [] =>
      if arbiter s p ≠ some vc ∨ 16 ≤ p.retry.length then .next s
      else
        match nextFlit s p vc ch with
        | none => .next s
        | some (o, rest) =>
          let s := setPort s side
            { p with out := rest, cr := creditMap p.cr o.vc o.ch (· - 1), retry := p.retry ++ [(p.txSeq, o)]
                     txSeq := p.txSeq + 1, turn := if vc = 3 then p.turn else BitVec.ofNat 2 ((vc.toNat + 1) % 3)
                     fo := flitBeats s.rev.gen p.txSeq (bodyFlit o.body) }
          .next (redFinish (countSend (freeSent s side o) side o))

/-- CREDIT_RETURN: the neighbour returns one credit (R276, R431). -/
def execCreditReturn (side : Side) (vc ch : BitVec 2) (s : State) : Host.Outcome State Fault Refusal :=
  let p := getPort s side
  .next (setPort s side { p with cr := creditMap p.cr vc ch (· + 1) })

/-- LINK_ACK: the named flit and every earlier one leave the retry buffer (R430). -/
def execLinkAck (side : Side) (seq : BitVec 5) (s : State) : Host.Outcome State Fault Refusal :=
  let p := getPort s side
  if p.retry.any fun e => e.1 == seq then
    let left := (p.retry.dropWhile fun e => e.1 != seq).drop 1
    .next (setPort s side { p with
      retry := left, resend := p.resend.filter fun e => left.any fun x => x.1 == e.1, txFail := none })
  else .next s

/-- LINK_NAK: the named flit and every later one go again, in order; a flit refused twice in a row marks the link down
(R430, R301). -/
def execLinkNak (side : Side) (seq : BitVec 5) (s : State) : Host.Outcome State Fault Refusal :=
  let p := getPort s side
  if p.dead then .next s
  else if p.retry.any fun e => e.1 == seq then
    let s' := setPort s side { p with resend := p.retry.dropWhile fun e => e.1 != seq, txFail := some seq }
    if p.txFail = some seq then .next (linkDown s' side) else .next s'
  else .next s

/-! ## Training (R278, R279, R431) -/

/-- What this stop reports (R278, Table 11-1; a ZC-4 supports generation 2). -/
def trainId (s : State) : TrainId := ⟨s.boot.ties.clusterId, 2, s.boot.ties.dieId, 64, 32, 16, 4⟩

/-- The outcome of a closed ring (R278). -/
def trainStatus (ids : List TrainId) : BitVec 3 :=
  let n := ids.length
  if n < 16 ∨ 64 < n then 3
  else if ids.map (·.cluster.toNat) ≠ List.range n then 2
  else if ids.any fun i => i.die != (ids.headD default).die then 4
  else 0

/-- The generation of the ring (R279). -/
def trainGen (ids : List TrainId) : BitVec 2 := if ids.all fun i => decide (2 ≤ i.gen.toNat) then 2 else 1

/-- Credits for a neighbour's buffers; VC3 credits in use stay so (R431). -/
def trainCredits (c : Credits) (i : TrainId) : Credits :=
  let q := i.vc0.toNat / 4
  ⟨q, q, q, q, i.vc1.toNat, i.vc2.toNat, c.v3 + i.vc3.toNat - 4⟩

/-- The outcome recorded once; on success a cluster that is not released sends FENCE, and one that was released before leaves
pass-through (R278, R300; 16 Table 16-5). -/
def trainRecord (s : State) (status : BitVec 3) (n : BitVec 7) (gen : BitVec 2) (ids : List TrainId) : State :=
  if s.rev.done || s.rev.status != 1 then s
  else if status ≠ 0 then { s with rev := { s.rev with status := status } }
  else
    let me := selfId s
    let k := ids.length
    let e := ids.getD ((me + 1) % k) default
    let w := ids.getD ((me + k - 1) % k) default
    let old := (ids.filter fun i => decide (i.gen.toNat < 2)).foldl (fun m i => m ||| maskBit i.cluster.toNat) (0 : BitVec 64)
    let s := { s with rev := { s.rev with
      done := true, status := 0, n := n, gen := gen, zc3 := old
      east := { s.rev.east with cr := trainCredits s.rev.east.cr e }
      west := { s.rev.west with cr := trainCredits s.rev.west.cr w } } }
    if !s.boot.released then fenceOut s else if s.rev.pt && s.boot.cold then rejoinOut s else s

/-- A TRAIN message at a stop that is ready (R278). -/
def trainTake (s : State) (m : TrainMsg) : State :=
  match m with
  | .collect ids =>
    if selfId s = 0 then
      let st := trainStatus ids
      let n := BitVec.ofNat 7 ids.length
      trainRecord (pushStage s (.train (.outcome st n (trainGen ids) ids))) st n (trainGen ids) ids
    else pushStage s (.train (.collect (ids ++ [trainId s])))
  | .outcome st n gen ids =>
    if selfId s = 0 then s else trainRecord (forwardStage s .east (.train m)) st n gen ids

/-- TRAIN: held until the stop is ready (R278). -/
def execTrain (m : TrainFlit) (s : State) : Host.Outcome State Fault Refusal :=
  let (s, ok) := stageArrive s m.at_
  if !ok then .next s
  else if s.rev.ready then .next (trainTake s m.msg)
  else .next { s with rev := { s.rev with heldTrain := some m.msg } }

/-- The stop becomes ready to train: cluster 0 sends TRAIN, and a held message is taken (R278). -/
def trainReady (s : State) : State :=
  let s := { s with rev := { s.rev with ready := true } }
  let s := if selfId s = 0 then pushStage s (.train (.collect [trainId s])) else s
  match s.rev.heldTrain with
  | some m => trainTake { s with rev := { s.rev with heldTrain := none } } m
  | none => s

/-- TRAINING_TIMEOUT: no outcome 2,000,000 cycles after the stop became ready: STATUS 5 (R278). -/
def execTrainingTimeout (s : State) : Host.Outcome State Fault Refusal :=
  if s.rev.ready && !s.rev.done && s.rev.status == 1 then .next { s with rev := { s.rev with status := 5 } }
  else .next s

/-! ## Stage Door messages (R293 to R300) -/

/-- A message of another stop, acted on and then forwarded away from the port it came by; one's own is removed (R297, R301). -/
def stageTake (s : State) (sender : StageFrom) (m : StageMsg) (act : State → State) : State :=
  let (s, ok) := stageArrive s sender.at_
  if !ok || sender.cluster == s.boot.ties.clusterId then s else forwardStage (act s) (opposite sender.at_.side) m

/-- As `stageTake`, for a message that a stop in pass-through only forwards (R299). -/
def stageOpen (s : State) (sender : StageFrom) (m : StageMsg) (act : State → State) : State :=
  stageTake s sender m fun s => if passThrough s then s else act s

/-- CURTAIN (R298, R299; 16 R405). -/
def execCurtain (orig : StageFrom) (s : State) : Host.Outcome State Fault Refusal :=
  .next (stageTake s orig (.curtain orig.cluster) curtainAct)

/-- A member's GROUP_END: counted for the run of the group that this cluster is in, whose earlier runs count no more; kept for the
run that it has not started (R293; log 26). -/
def groupEndTake (x : BitVec 16 × BitVec 4 × BitVec 6) (s : State) : State :=
  match s.seq.insts.find? fun i => inGroup i && i.gtag == x.1 with
  | some i =>
    if i.grun ≠ x.2.1 then s
    else if i.gends.contains x then { s with rev := { s.rev with gends := s.rev.gends ++ [x] } }
    else setInst s i.uid fun i => { i with gends := i.gends ++ [x] }
  | none => { s with rev := { s.rev with gends := s.rev.gends ++ [x] } }

/-- GROUP_END: recorded toward the release of the group's scenes (R293). -/
def execGroupEnd (gtag : BitVec 16) (run : BitVec 4) (sender : StageFrom) (s : State) : Host.Outcome State Fault Refusal :=
  .next (stageOpen s sender (.groupEnd gtag run sender.cluster) (groupEndTake (gtag, run, sender.cluster)))

/-- A member of the run treats GROUP_REPLAY as a check event of its own, which its replay counter does not count; an
instance that still waits for its replay takes the next RUN; a run that an abort or an abandonment is ending goes on ending
so (R294; 14 R355, R358; log 26). -/
def groupReplay (gtag : BitVec 16) (run : BitVec 4) (s : State) : State :=
  match s.seq.insts.find? fun i => inGroup i && i.gtag == gtag && i.grun == run with
  | none => s
  | some i =>
    let entry := fun flags => logWord eReplayed 12 flags s.pwr.tickNum i.scene i.replays 0 0 0
    let next := fun s => purgeStale (setInst s i.uid fun i => { i with grun := i.grun + 1, gends := [] })
    match i.ending with
    | none =>
      if i.st = .replayPending then next (logAdd s (entry 9))
      else endRun s i.uid ⟨.check, eReplayed, 0, false, false, some (entry 9)⟩ false
    | some e =>
      match e.kind with
      | .fault => endRun s i.uid ⟨.check, eReplayed, 0, false, false, some (entry 9)⟩ false
      | .check => next (logAdd s (entry 25))
      | _ => logAdd s (entry 24)

def execGroupReplay (gtag : BitVec 16) (run : BitVec 4) (sender : StageFrom) (s : State) : Host.Outcome State Fault Refusal :=
  .next (stageOpen s sender (.groupReplay gtag run sender.cluster) (groupReplay gtag run))

/-- GROUP_ABANDON: the run is abandoned with the originating status; what members have sent for it counts no more (R296). -/
def groupAbandon (gtag : BitVec 16) (run : BitVec 4) (status : BitVec 16) (s : State) : State :=
  let s := { s with rev := { s.rev with gends := s.rev.gends.filter fun x => !(x.1 == gtag && x.2.1 == run) } }
  match s.seq.insts.find? fun i => inGroup i && i.gtag == gtag && i.grun == run with
  | some i => abandonInst s i.uid status false
  | none => s

def execGroupAbandon (gtag : BitVec 16) (run : BitVec 4) (status : BitVec 16) (sender : StageFrom) (s : State) :
    Host.Outcome State Fault Refusal :=
  .next (stageOpen s sender (.groupAbandon gtag run status sender.cluster) (groupAbandon gtag run status))

/-- FENCE: the sender's bit of REV_PT.MAP is set (R299). -/
def execFence (sender : StageFrom) (s : State) : Host.Outcome State Fault Refusal :=
  .next (stageTake s sender (.fence sender.cluster) fun s =>
    { s with rev := { s.rev with ptMap := bvSet s.rev.ptMap sender.cluster.toNat true } })

/-- REJOIN: the sender's bit of REV_PT.MAP is cleared; one's own message has returned (R300). -/
def execRejoin (sender : StageFrom) (s : State) : Host.Outcome State Fault Refusal :=
  let back := sender.cluster == s.boot.ties.clusterId && s.rev.rejoining && (stageArrive s sender.at_).2
  let t := stageTake s sender (.rejoin sender.cluster) fun s =>
    { s with rev := { s.rev with ptMap := bvSet s.rev.ptMap sender.cluster.toNat false } }
  .next (if back then { t with rev := { t.rev with rejoinBack := true } } else t)

/-- REJOIN_COMPLETE: at the first tick after its REJOIN has returned the stop leaves pass-through (R300). -/
def execRejoinComplete (s : State) : Host.Outcome State Fault Refusal :=
  if s.rev.rejoining && s.rev.rejoinBack && s.rev.rejoinTick then
    .next { s with rev := { s.rev with
      pt := false, rejoining := false, rejoinBack := false, rejoinTick := false
      ptMap := bvSet s.rev.ptMap (selfId s) false } }
  else .next s

end Sys2Proof.Machine
end

