-- ==== Sys2Proof/Machine/Mailbox.lean ====
section
/-! DEFINITION. The mailboxes (15, R371 to R375): slots, doorbells, acknowledgements, notice tails, the acceptance of a command
by firmware and its completion. -/

namespace Sys2Proof.Machine

open Sys2Proof

/-! ## Generations and ports -/

/-- The ABI generation in force (02, R37). -/
def abiGen (s : State) : Nat :=
  if !s.feat.granted then 1 else if feat0 s 2 then 3 else if feat0 s 1 then 2 else 1

/-- Bytes of a slot that a command uses (15, Table 15-2). -/
def slotBytes (s : State) : Nat := 16 * 2 ^ abiGen s

def getBox (s : State) (m : Mbx) : Mailbox :=
  match m with
  | .mgmt => s.ctl.mgmt
  | .user => s.ctl.user

def setBox (s : State) (m : Mbx) (b : Mailbox) : State :=
  match m with
  | .mgmt => { s with ctl := { s.ctl with mgmt := b } }
  | .user => { s with ctl := { s.ctl with user := b } }

/-- The cluster holds under R365 (14, 16 R399). -/
def holding (s : State) : Bool := s.chk.cfgState == 2 || s.chk.cfgState == 3

/-- No reset holds the cluster, and its domain is powered (16, R401, R412). -/
def clusterUp (s : State) : Bool := s.boot.poreset && s.boot.clreset && !s.boot.off

/-- Firmware, or the boot ROM of a cluster that holds, takes commands, one at a time (16, R398, R399; R353, R371). -/
def serving (s : State) : Bool :=
  clusterUp s && (s.boot.released || holding s) && !s.ctl.restarting && s.ctl.load.isNone

/-- The doorbell to be taken next, and those after it: in their order, but that the boot ROM serves the management mailbox only
(R371; 16, R399). -/
def nextDoorbell (s : State) : Option ((Mbx × BitVec 3) × List (Mbx × BitVec 3)) :=
  if serving s then
    (s.ctl.order.find? fun d => s.boot.released || d.1 == .mgmt).map fun d => (d, s.ctl.order.erase d)
  else none

/-- The debug state in force: the lowest of DBGFUSE, REQ and the security limit (16, R416). -/
def debugState (s : State) : Nat :=
  min (min s.boot.dbgfuse.toNat s.pwr.dbgReq.toNat) (if s.ctl.owner = 0 || (s.feat.granted && s.feat.service) then 2 else 1)

/-! ## Slot writes by the host (R374) -/

/-- A slot's state and bytes. -/
def slotState (s : State) (m : Mbx) (k : BitVec 3) : SlotState := (getBox s m).st[k.toNat]

def slotWord (s : State) (m : Mbx) (k : BitVec 3) : BitVec 1024 := (getBox s m).slots[k.toNat]

def setSlot (s : State) (m : Mbx) (k : BitVec 3) (st : SlotState) (w : BitVec 1024) : State :=
  let b := getBox s m
  setBox s m { b with st := b.st.set k.toNat st, slots := b.slots.set k.toNat w }

/-- What a write answers: accepted, or rejected with a status. -/
abbrev Written := Option Code × State

/-- MBX_DOORBELL: an EMPTY slot becomes POSTED (Table 15-3). -/
def doorbell (s : State) (m : Mbx) (v : Word) : Written :=
  let k := v.truncate 3
  if 8 ≤ v.toNat then (some eBadval, s)
  else if slotState s m k = .empty then
    let s := setSlot s m k .posted (slotWord s m k)
    (none, { s with ctl := { s.ctl with order := s.ctl.order ++ [(m, k)] }, pwr := { s.pwr with idle := false } })
  else (some eBadstate, s)

/-- MBX_ACK: a DONE slot becomes EMPTY (Table 15-3). -/
def acknowledge (s : State) (m : Mbx) (v : Word) : Written :=
  let k := v.truncate 3
  if 8 ≤ v.toNat then (some eBadval, s)
  else if slotState s m k = .done then (none, setSlot s m k .empty (slotWord s m k))
  else (some eBadstate, s)

/-- A word of the slot area, at its offset there: writable while the slot is EMPTY (R374). -/
def slotWrite (s : State) (m : Mbx) (off : Nat) (v : Word) : Written :=
  let k := BitVec.ofNat 3 (off / 128)
  if slotState s m k = .empty then (none, setSlot s m k .empty (bvPut (slotWord s m k) (8 * (off % 128)) 32 v.toNat))
  else (some eBadstate, s)

/-- MBX_NTC_TAIL: not beyond HEAD and not below its value; held notices follow (R384). -/
def ntcTail (s : State) (m : Mbx) (v : Word) : Written :=
  let b := getBox s m
  if (v - b.tail).toNat ≤ (b.head - b.tail).toNat then
    let b' := { b with tail := v }
    let b'' := mbxFlush b' b'.held
    let s := setBox s m b''
    (none, if m = .mgmt && b''.head != b.head then irqSet s 2 else s)
  else (some eBadval, s)

/-! ## Completion (Table 15-3) -/

/-- The slot after completion: STATUS, reserved 0, and the payload of the response in the bytes the command uses. -/
def response (w : BitVec 1024) (size : Nat) (status : Code) (payload : Nat) : BitVec 1024 :=
  bvPut (bvPut w 32 32 status.toNat) 64 (8 * size - 64) payload

/-- A command completes: its slot is DONE and MBX_IRQ_STAT.DONE is set (R374); `size` is the slot size it was posted with. -/
def completeCmd (s : State) (m : Mbx) (k : BitVec 3) (size : Nat) (status : Code) (payload : Nat) : State :=
  let s := setSlot s m k .done (response (slotWord s m k) size status payload)
  if m = .mgmt then irqSet s 1 else s

/-! ## Acceptance (R372, R375) -/

/-- The operation codes of Table 15-5. -/
def knownOpc (op : Nat) : Bool := decide (1 ≤ op ∧ op ≤ 14)

/-- The payload bytes of a command's fields (Table 15-6): byte offset and size. -/
def cmdFields (w : BitVec 1024) (op : Nat) : List (Nat × Nat) :=
  match op with
  | 1 => [(8, 17)]
  | 2 => [(8, 1)]
  | 3 => [(8, 13)]
  | 5 => [(8, 3), (12, 4 + 8 * byteField w 10 1)]
  | 6 => [(8, 1)]
  | 7 => [(8, 1)]
  | 8 => [(8, 1)]
  | 9 => [(8, 1)]
  | 10 => [(8, 2)]
  | _ => []

/-- Row 1: a known code, the generation in force, zeros elsewhere. -/
def row1 (s : State) (w : BitVec 1024) : Bool :=
  let op := byteField w 0 1
  knownOpc op && byteField w 1 1 == abiGen s && byteField w 6 2 == 0
    && (List.range (slotBytes s - 8)).all fun j =>
        byteField w (8 + j) 1 == 0 || (cmdFields w op).any fun f => decide (f.1 ≤ 8 + j ∧ 8 + j < f.1 + f.2)

/-- Row 3: the commands that the port of a slot carries: of the management port all, of the debug port none, QUERY or all by the
debug state in force, of the user mailbox those of Table 15-5 (R372). -/
def row3 (s : State) (m : Mbx) (k : BitVec 3) (op : Nat) : Bool :=
  match m with
  | .mgmt => !s.ctl.dport.getLsbD k.toNat || debugState s == 2 || (debugState s == 1 && op == 2)
  | .user => decide (2 ≤ op ∧ op ≤ 9) && feat1 s 6 && s.ctl.owner != 0

/-- Row 7: the ranges of Table 15-6. -/
def row7 (s : State) (w : BitVec 1024) (op : Nat) : Bool :=
  match op with
  | 1 => decide (byteField w 0x18 1 ≤ 1)
  | 2 => decide (byteField w 8 1 ≤ 2)
  | 3 =>
    decide (byteField w 8 8 < 2 ^ 57) && byteField w 8 8 % 64 == 0
      && decide (64 ≤ byteField w 0x10 4 ∧ byteField w 0x10 4 ≤ 2 ^ 28)
      && decide (1 ≤ byteField w 0x14 1 ∧ byteField w 0x14 1 ≤ 100)
  | 5 =>
    decide (byteField w 8 2 ≤ 4095)
      && decide (byteField w 10 1 ≤ (if abiGen s = 1 then 2 else if abiGen s = 2 then 6 else 8))
  | 6 => decide (byteField w 8 1 ≤ 1)
  | 7 => decide (byteField w 8 1 ≤ 1)
  | 8 => decide (byteField w 8 1 ≤ 127)
  | 9 => decide (byteField w 8 1 ≤ 127)
  | 10 => decide (byteField w 8 2 ≤ 4095)
  | _ => true

/-- The first failing row of Table 15-4. No command needs a feature beyond row 3. -/
def acceptFault (s : State) (m : Mbx) (k : BitVec 3) (w : BitVec 1024) : Option Code :=
  let op := byteField w 0 1
  if !row1 s w then some eBadval
  else if holding s && op != 2 then some (if s.chk.cfgState = 2 then eConfigConflict else eNoimage)
  else if !row3 s m k op then some ePort
  else if s.chk.withdrawn && op != 2 then some eWithdrawn
  else if !s.feat.granted && op != 1 && op != 2 then some eBadstate
  else if s.ctl.wipe.isSome && op != 2 then some eBadstate
  else if !row7 s w op then some eBadval
  else none

/-- What a command's own part answers: a status with the state unchanged, success with the payload of its response, or
a completion that comes later (R377, R387). -/
inductive Served where
  | reject (c : Code)
  | done (s : State) (payload : Nat)
  | later (s : State)

/-- Firmware takes the command whose doorbell is next when it is this one, carries it out and completes it (R371, R375; log
9). -/
def serve (s : State) (m : Mbx) (k : BitVec 3) (op : Nat) (body : State → BitVec 1024 → Served) : State :=
  match nextDoorbell s with
  | none => s
  | some (d, rest) =>
    let w := slotWord s m k
    let o := byteField w 0 1
    if d != (m, k) || (knownOpc o && o != op) then s
    else
      let size := slotBytes s
      let s := setSlot { s with ctl := { s.ctl with order := rest } } m k .busy w
      match acceptFault s m k w with
      | some c => completeCmd s m k size c 0
      | none =>
        match body s w with
        | .reject c => completeCmd s m k size c 0
        | .done s p => completeCmd s m k size stOk p
        | .later s => s

end Sys2Proof.Machine
end

