-- ==== Sys2Proof/Machine/Check.lean ====
section
/-! DEFINITION. Control-core restarts (14, R353), the entry into REPLAY_PENDING (R354), and withdrawal (R360 to R363). -/

namespace Sys2Proof.Machine

open Sys2Proof

/-! ## Control-core restarts (R353) -/

/-- Both cores stop. A LOAD in progress is cut off, and what it reads is not used; otherwise `taken` says that the command whose
doorbell is next had been taken and had not reached its final step (log 10). -/
def restartCore (s : State) (taken : Bool) : State :=
  let t := { s with ctl := { s.ctl with restarting := true } }
  match s.ctl.load, taken, nextDoorbell s with
  | some j, _, _ => { t with ctl := { t.ctl with load := none, cut := some (j.mbx, j.slot) } }
  | none, true, some (d, rest) =>
    setSlot { t with ctl := { t.ctl with order := rest, cut := some d } } d.1 d.2 .busy (slotWord s d.1 d.2)
  | _, _, _ => t

/-- LOCKSTEP_DIVERGENCE: the restart, and a check event with E_LOCKSTEP (R353). -/
def execLockstepDivergence (loc : BitVec 32) (taken : Bool) (s : State) : Host.Outcome State Fault Refusal :=
  if !clusterUp s || s.ctl.restarting then .next s
  else .next (checkEvent (restartCore s taken) eLockstep 8 0 loc.toNat 0 none 0)

/-- CONTROL_SRAM_UNCORRECTABLE: the same restart, and a check event with E_UNCORR at the SRAM word (R353). -/
def execControlSramUncorrectable (word : BitVec 16) (taken : Bool) (s : State) : Host.Outcome State Fault Refusal :=
  if !clusterUp s || s.ctl.restarting then .next s
  else .next (checkEvent (restartCore s taken) eUncorr 9 0 0 0 none (word.toNat + 1))

/-- CONTROL_RESTART: the restart is complete; a command that it cut off completes with E_CTLRESTART (R353). -/
def execControlRestart (s : State) : Host.Outcome State Fault Refusal :=
  if !s.ctl.restarting then .next s
  else
    let t := { s with ctl := { s.ctl with restarting := false, cut := none } }
    match s.ctl.cut with
    | some (m, k) => .next (completeCmd t m k (slotBytes s) eCtlrestart 0)
    | none => .next t

/-! ## REPLAY_PENDING (R354 steps 4 to 6) -/

/-- The first run ended by a check event that has nothing in flight. -/
def checkedRun (s : State) : Option (Inst × Ending) :=
  s.seq.insts.findSome? fun i =>
    match i.ending with
    | some e => if e.kind == .check && quiesced s i.uid then some (i, e) else none
    | none => none

/-- REPLAY_PENDING_ENTRY: frames and slots are freed, the atomic log and the leases stay, the event is logged. -/
def execReplayPendingEntry (s : State) : Host.Outcome State Fault Refusal :=
  if s.chk.withdrawn then .next s
  else
    match checkedRun s with
    | none => .next s
    | some (i, e) =>
      let s := freeRun s i.uid
      let s := setInst s i.uid fun i => { i with st := .replayPending, ending := none, slots := [] }
      .next (match e.entry with
        | some w => logAdd s w
        | none => s)

/-! ## Withdrawal (R360 to R363) -/

/-- GROUP_ABANDON with E_RINGPART for each instance that is a member of a group (11, R296). -/
def abandonOut (s : State) : State :=
  (s.seq.insts.filter inGroup).foldl (fun s i =>
    sendStage s (.groupAbandon i.gtag i.grun eRingpart s.boot.ties.clusterId)) s

/-- Every run that goes on stops (Table 14-5: steps 1 to 3 of R354). -/
def stopAll (s : State) : State :=
  (s.seq.insts.filter fun i => instActive i && i.ending.isNone).foldl (fun s i =>
    stopRun s i.uid ⟨.check, s.chk.causeCode, 0, false, false, none⟩) s

/-- WITHDRAWAL: the runs stop, FENCE and GROUP_ABANDON go out, the ring stop stays in pass-through, WITHDRAW rises (Table
14-5, R363). -/
def execWithdrawal (s : State) : Host.Outcome State Fault Refusal :=
  if !s.chk.withdrawn || s.chk.wdPhase != 0 || s.chk.retValid then .next s
  else
    let s := abandonOut (fenceOut (stopAll s))
    .next { s with chk := { s.chk with wdPhase := 1 }, pwr := { s.pwr with withdrawPin := true } }

/-- A write is in flight on the fabric port. -/
def writeInFlight (s : State) : Bool := s.strm.reqs.any fun r => decide (2 ≤ r.op.toNat)

/-- WITHDRAWAL_TIMEOUT: 2,000,000 cycles have passed without the last acknowledgement (Table 14-5). -/
def execWithdrawalTimeout (s : State) : Host.Outcome State Fault Refusal :=
  if s.chk.wdPhase = 1 && writeInFlight s then .next { s with chk := { s.chk with wdPhase := 2 } } else .next s

/-- The STATE code of a returned instance (Table 14-6). -/
def retState (st : InstState) : Nat :=
  match st with
  | .waiting => 0
  | .ready => 1
  | .running => 2
  | .replayPending => 2
  | .draining => 3
  | .abandoned => 4

/-- A returned instance entry (Table 14-6). -/
def retInst (i : Inst) (pos : Nat) : BitVec 640 :=
  BitVec.ofNat 640 (i.scene % 65536 + retState i.st * 2 ^ 16 + i.replays % 256 * 2 ^ 24 + pos % 65536 * 2 ^ 32
    + pack 64 (i.args.map (·.toNat)) % 2 ^ 512 * 2 ^ 64)

/-- A returned lease entry (Table 14-7). -/
def retLease (s : State) (l : Lease) : BitVec 256 :=
  BitVec.ofNat 256 (l.addr % 2 ^ 57 + l.epoch.toNat * 2 ^ 64 + l.count.toNat * 2 ^ 80 + l.first.toNat * 2 ^ 96
    + instPos s l.uid % 65536 * 2 ^ 128 + l.lease.toNat * 2 ^ 144 + l.tick.toNat * 2 ^ 192)

/-- RETURN_RECORD: once the writes in flight are acknowledged, or after the timeout, the return record is complete, and
the withdrawal notice is posted (R361, R362, 15 R385). -/
def execReturnRecord (s : State) : Host.Outcome State Fault Refusal :=
  if s.chk.wdPhase = 0 || s.chk.retValid || (s.chk.wdPhase = 1 && writeInFlight s) then .next s
  else
    let s := { s with chk := { s.chk with
      retValid := true, retUnq := s.chk.wdPhase == 2
      retInsts := s.seq.insts.zipIdx.map fun x => retInst x.1 x.2
      retLeases := s.strm.leases.map (retLease s) } }
    .next (postNotice (irqSet s 4) false
      (noticeWord 4 s.chk.causeCode 0xFFFF 0 0 0 0 0 0 0 0 0 s.chk.causeSrc.toNat 0 0 0))

end Sys2Proof.Machine
end

