-- ==== Sys2Proof/Machine/Sched.lean ====
section
/-! DEFINITION. Ticks and the scheduler (09 R230 to R235; 14 R356; 16 R410 to R413): the sampled tick, scene start and replay
start, late runs, lease expiry, release. -/

namespace Sys2Proof.Machine

open Sys2Proof

/-! ## Loads (02 R30, 01 R17) -/

/-- The load of a scene's duties, four arrays first, with the weights in force (R30). -/
def loadOf (weights duty : List Nat) : Nat :=
  let w := fun k => weights.getD k 0
  let d := fun k => duty.getD k 0
  ceilDiv (w 0 * (d 0 + d 1 + d 2 + d 3) + w 1 * d 4 + w 2 * d 5 + w 3 * d 6) 256

/-- The load of a scene. -/
def sceneLoad (s : State) (sc : Scene) : Nat := loadOf s.boot.weights sc.duty

/-! ## The choice at a tick (R232, R356) -/

/-- Physical stream slots that no instance holds. -/
def freeSlots (s : State) : List Nat :=
  let used := s.seq.insts.flatMap (·.slots)
  (List.range 48).filter fun k => !used.contains k

/-- Frames that the scene buffers take (04, R93). -/
def framesNeeded (sc : Scene) : Nat := (sc.bufs.map fun b => ceilDiv b.2 65536).sum

/-- The frames, the slots and the cap allow a start. -/
def startFits (s : State) (sc : Scene) : Bool :=
  decide (framesNeeded sc ≤ (freeFrames s).length) && decide (sc.nstrm ≤ (freeSlots s).length)
    && decide (sceneLoad s sc ≤ s.pwr.capin.toNat)

/-- The first of the READY instances with the highest priority that may start. -/
def bestReady (s : State) : Option Inst :=
  let ok := s.seq.insts.filter fun i => i.st == .ready && ((sceneOf s i).map (startFits s)).getD false
  let prio := fun i => ((sceneOf s i).map (·.prio)).getD 0
  let top := (ok.map prio).foldl max 0
  ok.find? fun i => prio i == top

/-- No start is considered: not released, withdrawn, a cap of 0, or an instance RUNNING. -/
def startBarred (s : State) : Bool :=
  !s.boot.released || s.chk.withdrawn || s.pwr.capin == 0 || s.seq.insts.any fun i => i.st == .running

/-- The instance to start at this tick: the one that waits for its replay, otherwise by R232 unless R222 holds. -/
def chooseStart (s : State) : Option Nat :=
  if startBarred s then none
  else
    match s.seq.insts.find? fun i => i.st == .replayPending with
    | some i => if ((sceneOf s i).map (startFits s)).getD false then some i.uid else none
    | none => if s.seq.held then none else (bestReady s).map (·.uid)

/-! ## The tick (16, R410, R413) -/

/-- A counter field that saturates at all ones. -/
def satInc {w : Nat} (c : BitVec w) : BitVec w := if c = BitVec.allOnes w then c else c + 1

/-- A run that is late at a tick number (R235). -/
def lateAt (s : State) (num : DWord) (i : Inst) : Bool :=
  instActive i && i.ending.isNone && !i.runLate
    && ((sceneOf s i).map fun sc => decide (i.tick0.toNat + sc.span ≤ num.toNat)).getD false

/-- The state in which a tick has been used. -/
def tickTake (s : State) (num : DWord) (cap : Byte) : State :=
  let jump := !s.pwr.firstTick && num != s.pwr.tickNum + 1
  let s := { s with pwr := { s.pwr with
    tickNum := num, firstTick := false, capin := if 100 < cap.toNat then 100 else cap
    jump := if jump then satInc s.pwr.jump else s.pwr.jump } }
  let due := fun l : Lease => { l with due := l.due || (!l.expired && decide (l.expiry.toNat ≤ num.toNat)) }
  let overdue := (s.seq.insts.filter (lateAt s num)).map (·.uid)
  let s := { s with
    strm := { s.strm with leases := s.strm.leases.map due }
    rev := { s.rev with rejoinTick := s.rev.rejoinTick || s.rev.rejoinBack }
    seq := { s.seq with lateDue := overdue } }
  { s with seq := { s.seq with startSel := chooseStart s } }

/-- TICK: sampled while no reset is low (17, R435); used, or ignored as stale (R410). -/
def execTick (num : BitVec 64) (cap : BitVec 8) (s : State) : Host.Outcome State Fault Refusal :=
  if !clusterUp s then .next s
  else
    let s := { s with pwr := { s.pwr with tickNumIn := num, capIn := cap } }
    if s.pwr.firstTick || decide (s.pwr.tickNum.toNat < num.toNat) then .next (tickTake s num cap)
    else .next { s with pwr := { s.pwr with stale := satInc s.pwr.stale } }

/-- MISSING_TICK: an interval of more than twice the period without a tick (R411). -/
def execMissingTick (s : State) : Host.Outcome State Fault Refusal :=
  if clusterUp s then .next { s with pwr := { s.pwr with missing := satInc s.pwr.missing } } else .next s

/-- SCENE_LATE: a run that is late at the tick sampled last is counted (R235). -/
def execSceneLate (pos : BitVec 8) (s : State) : Host.Outcome State Fault Refusal :=
  match s.seq.insts[pos.toNat]? with
  | none => .next s
  | some i =>
    if s.seq.lateDue.contains i.uid then
      let s := setInst s i.uid fun i => { i with runLate := true, everLate := true }
      .next { s with seq := { s.seq with late := s.seq.late + 1, lateDue := s.seq.lateDue.erase i.uid } }
    else .next s

/-- LEASE_EXPIRY: a held lease whose expiry tick has been sampled is counted, logged and reported (12 R322, 15 R385). -/
def execLeaseExpiry (idx : BitVec 6) (s : State) : Host.Outcome State Fault Refusal :=
  match s.strm.leases[idx.toNat]? with
  | none => .next s
  | some l =>
    if !l.due then .next s
    else
      let done := fun l : Lease => { l with due := false, expired := true }
      let s := { s with strm := { s.strm with
        leases := mapIf (fun x => x.key == l.key) done s.strm.leases, leaseExp := satInc s.strm.leaseExp } }
      let i := findInst s l.uid
      let s := logAdd s (logWord stOk 16 0 s.pwr.tickNum ((i.map (·.scene)).getD 0xFFFF) ((i.map (·.replays)).getD 0) 0 0
        l.addr)
      .next (leaseNotice s l 1)

/-! ## Starting (R233) -/

/-- The tile registers, Firn, the row statistics, the vector state and the scalar registers at a start (R233 step 3). -/
def resetWork (s : State) (args : List DWord) : State :=
  dropMarks { s with
    tiles := Vector.replicate 16 .reset
    firn := ⟨[], []⟩
    vec := { s.vec with v := Vector.replicate 32 0, k := Vector.replicate 8 (BitVec.allOnes 512), vl := 512 }
    seq := { s.seq with s := Vector.ofFn fun r => if r.val < 24 then 0 else args.getD (r.val - 24) 0 }
    strm := { s.strm with dcache := [] } } inWork

/-- An instance takes its frames and slots, the tick and the numeric status are recorded, and its run begins (R233). -/
def startRun (s : State) (i : Inst) (sc : Scene) (f : Inst → Inst) : State :=
  let bufs := allocBufs i.uid (freeFrames s) sc.bufs
  let slots := (freeSlots s).take sc.nstrm
  let s := clearFrames s (bufs.flatMap (·.frames))
  let s := { s with strm := { s.strm with bufs := s.strm.bufs ++ bufs } }
  let s := resetWork s i.args
  let nm := s.mat.numstat
  let nv := s.vec.numstat
  let nu := s.upd.numstat
  let now := s.pwr.tickNum
  let s := setInst s i.uid fun i =>
    f { i with
      st := .running, slots := slots, tick0 := now, runLate := false, numMat := nm, numVec := nv, numUpd := nu
      ringScene := false, upds := [], alogPos := 0, ending := none, faultPc := 0 }
  let s := { s with
    seq := { s.seq with startSel := none, run := some ⟨i.uid, 0, true, ⟨0, 0, 0, 0⟩, 0, none⟩ }
    pwr := { s.pwr with idle := false } }
  perfAdd s 0x0701 1

/-- Instructions of a draining scene have not issued, or still add into Firn or read it (log 12). -/
def oldWork (s : State) : Bool := !s.seq.queue.isEmpty || !s.mat.stores.isEmpty || !s.mat.jobs.isEmpty

/-- No READY instance is started: one waits for its replay, or a fault holds them (R222; 14 R356). -/
def readyBarred (s : State) : Bool := s.seq.held || s.seq.insts.any fun i => i.st == .replayPending

/-- The instance chosen at the tick, in the state that a start takes it from, with its scene. -/
def chosen (s : State) (st : InstState) : Option (Inst × Scene) :=
  match s.seq.startSel.bind (findInst s) with
  | some i =>
    if i.st = st && !startBarred s && !oldWork s && !(st == .ready && readyBarred s) then
      match sceneOf s i with
      | some sc => if startFits s sc then some (i, sc) else none
      | none => none
    else none
  | none => none

/-- SCENE_START: the READY instance chosen at the tick starts (R232, R233). -/
def execSceneStart (s : State) : Host.Outcome State Fault Refusal :=
  match chosen s .ready with
  | none => .next s
  | some (i, sc) =>
    .next (startRun s i sc fun i =>
      { i with gtag := 0, grun := 0, gmask := 0, gends := [], alog := [], alogReplay := false })

/-- The atomic log of the last run, to be matched from its first entry (12, R325). -/
def replayLog (l : List AlogEntry) : List AlogEntry := l.zipIdx.map fun e => { e.1 with idx := e.2 }

/-- REPLAY_START: a REPLAY_PENDING instance starts again, with the numeric status restored (14 R356; 03 R72). -/
def execReplayStart (s : State) : Host.Outcome State Fault Refusal :=
  match chosen s .replayPending with
  | none => .next s
  | some (i, sc) =>
    let s := { s with
      mat := { s.mat with numstat := i.numMat }
      vec := { s.vec with numstat := i.numVec }
      upd := { s.upd with numstat := i.numUpd }
      chk := { s.chk with nReplay := s.chk.nReplay + 1 } }
    let s := startRun s i sc fun i => { i with alog := replayLog i.alog, alogReplay := true, replayed := true }
    .next (perfAdd s 0x0702 1)

/-! ## Release (R234; 11 R293; 12 R322, R325; 14 R357; 15 R385) -/

/-- GROUP_END has come from every member of the MASK for the group and run of a ring scene (R293). -/
def groupEnded (i : Inst) : Bool :=
  !i.ringScene || (List.range 64).all fun c =>
    !i.gmask.getLsbD c || i.gends.contains (i.gtag, i.grun, BitVec.ofNat 6 c)

/-- The conditions of R234 and R293. -/
def releasable (s : State) (i : Inst) : Bool :=
  i.st == .draining && i.ending.isNone && workDone s i.uid s.seq.nextUid none && quiesced s i.uid
    && !(s.upd.writes.any fun w => w.uid == i.uid) && !(s.upd.commits.any fun c => c.uid == i.uid) && groupEnded i

/-- The status of a release (R385). -/
def releaseStatus (i : Inst) : Code := if i.replays ≠ 0 then eReplayed else if i.everLate then eScenelate else stOk

/-- The instance is released: frames and slots freed, leases done, the completion notice posted, and protected updates of
ended runs logged (R234, R322, R343). -/
def releaseInst (s : State) (i : Inst) : State :=
  let s := freeRun s i.uid
  let s := endLoggedLeases s (if i.alogReplay then i.alog.drop i.alogPos else [])
  let n := (s.strm.leases.filter fun l => l.uid == i.uid).length
  let s := endLeases s i.uid 2
  let s := completionNotice s i (releaseStatus i) true n 0
  let s := s.chk.logTodo.foldl logAdd { s with chk := { s.chk with logTodo := [] } }
  removeInsts s fun j => j.uid == i.uid

/-- SCENE_RELEASE of the instance at a position. -/
def execSceneRelease (pos : BitVec 8) (s : State) : Host.Outcome State Fault Refusal :=
  match s.seq.insts[pos.toNat]? with
  | none => .next s
  | some i => if releasable s i then .next (releaseInst s i) else .next s

/-! ## IDLE (16, R412) -/

/-- IDLE_ENTRY: 1,024 cycles in which nothing runs, waits for a replay, is open or is posted. -/
def execIdleEntry (s : State) : Host.Outcome State Fault Refusal :=
  let quiet := !(s.seq.insts.any fun i => instActive i || i.st == .replayPending)
    && s.strm.streams.isEmpty && s.upd.cur.isNone
    && !((s.ctl.mgmt.st.toList ++ s.ctl.user.st.toList).any fun st => st == .posted || st == .busy)
  if clusterUp s && s.boot.released && quiet then .next { s with pwr := { s.pwr with idle := true } } else .next s

end Sys2Proof.Machine
end

