-- ==== Sys2Proof/Machine/Power.lean ====
section
/-! DEFINITION. Sensors, the wired Curtain, resets and power (16 R401 to R408, R412 to R415; 17 R418 to R421, R435 to R438). -/

namespace Sys2Proof.Machine

open Sys2Proof

/-! ## Throttling and telemetry (16, R415; 17, R437) -/

/-- The thermal cause of R415: from LIMIT on, until LIMIT - 20. -/
def thermalNext (p : Pwr) : Pwr :=
  { p with thermal :=
      if p.tempLimit.toNat ≤ p.tempNow.toNat then true
      else if p.tempNow.toNat + 20 ≤ p.tempLimit.toNat then false
      else p.thermal }

/-- THROTTLE takes a level. -/
def execThrottle (level : Bool) (s : State) : Host.Outcome State Fault Refusal :=
  .next { s with pwr := { s.pwr with throttle := level } }

/-- TEMP_IN takes a value. -/
def execTempIn (v : BitVec 10) (s : State) : Host.Outcome State Fault Refusal :=
  .next { s with pwr := thermalNext { s.pwr with tempNow := v, tempIn := v } }

/-- CURR_IN takes a value. -/
def execCurrIn (v : BitVec 12) (s : State) : Host.Outcome State Fault Refusal :=
  .next { s with pwr := { s.pwr with currNow := v, currIn := v } }

/-- CCLK_CHANGE: the cluster goes on, and only rates change (01 R16, 17 R418; log 17). -/
def execCclkChange (_ : BitVec 32) (s : State) : Host.Outcome State Fault Refusal := .next s

/-! ## The wired Curtain (16, R405, R406; 17, R436) -/

/-- CURTAIN_IN takes a level; a high level is a Curtain, ignored in a reset and before release. -/
def execCurtainIn (level : Bool) (s : State) : Host.Outcome State Fault Refusal :=
  let s := { s with pwr := { s.pwr with curtainIn := level } }
  if level then .next (curtainAct s) else .next s

/-- CURTAIN_PULSE_END: CURTAIN_OUT has been high for 256 cycles. -/
def execCurtainPulseEnd (s : State) : Host.Outcome State Fault Refusal :=
  .next { s with pwr := { s.pwr with curtainOut := false } }

/-- STOP_EVENT_END: CURTAIN_IN is low and 8,192 cycles have passed. -/
def execStopEventEnd (s : State) : Host.Outcome State Fault Refusal :=
  if s.pwr.curtainIn then .next s else .next { s with pwr := { s.pwr with stopEvent := false } }

/-! ## Resets (16, R401, R402, Table 16-5; 17, R419) -/

/-- GROUP_ABANDON with E_RINGPART while REV_GROUP.ACTIVE is 1 (R402). -/
def resetAbandon (s : State) : State :=
  (s.seq.insts.filter fun i => i.ringScene && instActive i).foldl (fun s i =>
    sendStage s (.groupAbandon i.gtag i.grun eRingpart s.boot.ties.clusterId)) s

/-- The power state after a reset: the registers as Table 16-8 resets them; the pins keep their levels. -/
def pwrReset (p : Pwr) : Pwr :=
  { Pwr.reset with
    throttle := p.throttle, tempIn := p.tempIn, currIn := p.currIn, tickNumIn := p.tickNumIn
    capIn := p.capIn, curtainIn := p.curtainIn }

/-- The DBG block and the CSR ports after a reset; the TAP is as it was (17, R440). -/
def dbgReset (d : Dbg) : Dbg :=
  { Dbg.reset with ir := d.ir, bypass := d.bypass, capture := d.capture, update := d.update, extest := d.extest
                   freeCount := d.freeCount, irOut := d.irOut }

/-- A port whose own flits on VC0 to VC2 that have not gone are dropped; what it forwards stays. -/
def dropOwn (p : Port) : Port := { p with out := p.out.filter fun o => !(o.inject && o.vc != 3) }

/-- What either reset leaves of the cluster domain, given the ring stop, boot and update states that it keeps. Responses
to requests issued before it will be discarded (R402); the numbers that name instances go on. -/
def clusterReset (s : State) (rev : Rev) (boot : Boot) (record : List (Nat × Nat × DWord × DWord)) : State :=
  let r := State.reset
  { r with
    pending := s.pending
    seq := { r.seq with nextUid := s.seq.nextUid }
    strm := { r.strm with nextId := s.strm.nextId, orphans := s.strm.orphans ++ s.strm.reqs.map (·.tag) }
    upd := { r.upd with record := record, nextKey := s.upd.nextKey }
    chk := { r.chk with upsets := s.chk.upsets }
    rev := rev
    boot := boot
    pwr := pwrReset s.pwr
    dbg := dbgReset s.dbg }

/-- PORESET_N falls: FENCE and GROUP_ABANDON go out, everything is reset but the tie-offs and the fuse values, which its
rise reads again; the TAP is reset (17, R440). -/
def execPoresetNFall (s : State) : Host.Outcome State Fault Refusal :=
  if !s.boot.poreset then .next s
  else
    let s := resetAbandon (fenceOut s)
    let boot := { Boot.reset with
      poreset := false, clreset := s.boot.clreset, ties := s.boot.ties, keyhash := s.boot.keyhash
      dbgfuse := s.boot.dbgfuse, off := s.boot.off }
    let t := clusterReset s { Rev.reset with east := s.rev.east, west := s.rev.west } boot []
    .next { t with dbg := { Dbg.reset with freeCount := s.dbg.freeCount } }

/-- PORESET_N rises: the tie-offs are sampled, the ring stop is released with four VC3 credits for each neighbour
(16 R398; 17 R419, R431). -/
def execPoresetNRise (ties : TieOffs) (s : State) : Host.Outcome State Fault Refusal :=
  if s.boot.poreset then .next s
  else .next { s with boot := { s.boot with poreset := true, ties := ties }, rev := Rev.reset }

/-- CLRESET_N falls: no effect while PORESET_N is low (17, R419); otherwise the cluster domain is reset, and the ring stop
keeps its training, REV_PT and its links, and is in pass-through until a REJOIN; REV_STATE.DOWN takes its reset value (R10,
Table 16-5, 11 R302). -/
def execClresetNFall (s : State) : Host.Outcome State Fault Refusal :=
  if !s.boot.clreset then .next s
  else if !s.boot.poreset then .next { s with boot := { s.boot with clreset := false } }
  else
    let s := resetAbandon (fenceOut s)
    let boot := { Boot.reset with
      poreset := true, clreset := false, ties := s.boot.ties, keyhash := s.boot.keyhash, dbgfuse := s.boot.dbgfuse
      fuseErr := s.boot.fuseErr, fusesIn := s.boot.fusesIn, cold := false }
    let rev := { s.rev with
      pt := true, down := false, crcE := 0, crcW := 0, linkLast := Rev.reset.linkLast, red := none, gends := []
      east := dropOwn s.rev.east, west := dropOwn s.rev.west }
    .next (clusterReset s rev boot s.upd.record)

/-- CLRESET_N rises: the cluster domain leaves reset; with PORESET_N high the warm release, or the cold release of that
PORESET_N, begins (16 R400; 17 R419). -/
def execClresetNRise (s : State) : Host.Outcome State Fault Refusal :=
  if s.boot.clreset then .next s else .next { s with boot := { s.boot with clreset := true, off := false } }

/-- POWER_DOWN: with CLRESET_N low, the cluster supply is removed (16, R401, R412). -/
def execPowerDown (s : State) : Host.Outcome State Fault Refusal :=
  if s.boot.clreset then .next s else .next { s with boot := { s.boot with off := true } }

end Sys2Proof.Machine
end

