-- ==== Sys2Proof/Machine/Boot.lean ====
section
/-! DEFINITION. Bring-up (16, R392 to R400, R409; 14, R365): the fuse load, the examination and choice of configuration copies,
release. -/

namespace Sys2Proof.Machine

open Sys2Proof

/-! ## Fuses (R392, R393) -/

/-- The CRC-32 of IEEE 802.3 over fuse bits [991:0] (R392). -/
def fuseCrc (bits : BitVec 1024) : BitVec 32 := ~~~(crcBits 0xEDB88320 992 bits.toNat (BitVec.allOnes 32))

/-- FUSE_LOAD: the fuse values are taken or, when their CRC fails, replaced; the ring stop is ready to train (R392, R393;
11 R278). -/
def execFuseLoad (bits : BitVec 1024) (s : State) : Host.Outcome State Fault Refusal :=
  if !s.boot.poreset || s.boot.fusesIn then .next s
  else
    let ok := decide (bvGet bits 992 32 = (fuseCrc bits).toNat)
    let dbg := bvGet bits 384 2
    .next (trainReady { s with boot := { s.boot with
      fusesIn := true, fuseErr := !ok
      keyhash := if ok then BitVec.ofNat 384 (bvGet bits 0 384) else BitVec.allOnes 384
      dbgfuse := if ok && dbg != 3 then BitVec.ofNat 2 dbg else 0 } })

/-! ## Copies (R394 to R397) -/

/-- The fields of R396 that are checked before any signature. -/
def copyHeadOk (b : List Byte) : Bool :=
  let n := leAt b 0x0C 4
  leAt b 0 4 == 0x49435A2E && n % 64 == 0 && decide (4096 ≤ n ∧ n ≤ 196608) && leAt b 6 2 == 0
    && ((b.drop 0x1D).take 35).all (· == 0)

/-- The fields of R396 that are checked after the signature. -/
def copyTailOk (b : List Byte) : Bool :=
  let n := leAt b 0x0C 4
  let off := leAt b 0x10 4
  let len := leAt b 0x14 4
  leAt b 4 2 != 0 && off % 64 == 0 && leAt b 0x18 4 % 8 == 0 && decide (leAt b 0x1C 1 ≤ 8) && decide (len ≤ 131072)
    && decide (off + len ≤ n - 96)

/-- The load-unit table entries that lie within bytes 0 to IMAGE_BYTES - 97 (R397). -/
def copyLut (b : List Byte) : List (BitVec 64) :=
  ((List.range (leAt b 0x1C 1)).filter fun k => decide (leAt b 0x18 4 + 8 * k + 8 ≤ leAt b 0x0C 4 - 96)).map fun k =>
    BitVec.ofNat 64 (leAt b (leAt b 0x18 4 + 8 * k) 8)

/-- A copy that is not valid. -/
def badCopy : Copy := ⟨false, 0, 0, 0, []⟩

/-- What the boot ROM makes of the bytes of a copy that it has read (R396): a read that was refused or uncorrectable makes it
invalid (R394). -/
def examine (keyhash : BitVec 384) (r : ImageRead) : Copy :=
  let b := r.image
  let n := leAt b 0x0C 4
  if r.failed || !copyHeadOk b then badCopy
  else
    let key := (b.drop 0x40).take 96
    let body := b.take (n - 96)
    let h := sha384 body
    if leNat (sha384 key) = keyhash.toNat ∧ ecdsaVerify key h ((b.drop (n - 96)).take 96) ∧ copyTailOk b then
      ⟨true, BitVec.ofNat 16 (leAt b 4 2), leNat h, BitVec.ofNat 32 (leAt b 8 4), copyLut b⟩
    else badCopy

/-- The physical address of byte `off` of copy `n` (R394). -/
def imageAddr (s : State) (n off : Nat) : Nat := s.boot.ties.imgBase.toNat * 2 ^ 18 + n * 0x40000 + off

/-- A 256-byte read of an image copy: tenant ID 0, ordering class DATA, no translation (R394). -/
def imageReq (s : State) (n off tag : Nat) : Req :=
  { readReqOf s tag 0 (imageAddr s n off) 3 0 none (.image n off) with tid := 0 }

/-- A read of an image copy is in flight. -/
def imageBusyRead (s : State) : Bool :=
  s.strm.reqs.any fun r =>
    match r.owner with
    | .image _ _ => true
    | _ => false

/-- The next read of the copy that the boot ROM is reading, one at a time (R394; log 8). -/
def imageNext (s : State) : State :=
  match s.boot.reads with
  | [] => s
  | r :: _ =>
    if imageBusyRead s then s
    else (issueFirmware s r.first (imageReq s r.n r.image.length)).getD s

/-- The examined copy is kept; an invalid one is logged with Source 15 (R396, 14 R365). -/
def keepCopy (s : State) (r : ImageRead) : State :=
  let c := examine s.boot.keyhash r
  let s := { s with boot := { s.boot with reads := s.boot.reads.drop 1, copies := s.boot.copies ++ [(r.n, c)] } }
  if c.valid then s else logAdd s (logWord eNoimage 15 0 s.pwr.tickNum 0xFFFF 0 r.n 0 0)

/-- What follows a read of the copy: its examination once every byte is there or no further one is read, otherwise the next
read (R394, R396). -/
def imageStep (s : State) : State :=
  match s.boot.reads with
  | [] => s
  | r :: _ =>
    if r.failed || !copyHeadOk r.image || decide (leAt r.image 0x0C 4 ≤ r.image.length) then keepCopy s r else imageNext s

/-- The answer to a read of an image copy: 256 bytes more, or the copy is invalid (R394; 12 Table 12-8). -/
def imageAnswer (s : State) (a : Answer) (data : BitVec 2048) : State :=
  let put := fun r : ImageRead =>
    if a = .ok then { r with image := r.image ++ natBytes 256 data.toNat } else { r with failed := true }
  match s.boot.reads with
  | [] => s
  | r :: rest => imageStep { s with boot := { s.boot with reads := put r :: rest } }

/-- COPY_EXAMINE: the boot ROM begins to read the next copy, in ascending order; the copy is examined as its bytes arrive
(R394, R396). -/
def execCopyExamine (n : BitVec 2) (first : BitVec 4) (s : State) : Host.Outcome State Fault Refusal :=
  if !clusterUp s || !s.boot.fusesIn || s.boot.chosen || !s.boot.reads.isEmpty || s.boot.copies.length != n.toNat
      || decide (s.boot.ties.imgCopies.toNat < n.toNat) then .next s
  else .next (imageNext { s with boot := { s.boot with reads := [⟨n.toNat, [], false, first⟩] } })

/-! ## Choice (14, R365) -/

/-- CONFIG_CHOOSE: the highest generation among the valid copies; equal digests choose the lowest-numbered copy, different
ones or no valid copy make the cluster hold. -/
def execConfigChoose (s : State) : Host.Outcome State Fault Refusal :=
  if !clusterUp s || s.boot.chosen || s.boot.copies.length != s.boot.ties.imgCopies.toNat + 1 then .next s
  else
    let good := s.boot.copies.filter fun c => c.2.valid
    let map := BitVec.ofNat 4 (bitsOf (s.boot.copies.map fun c => c.2.valid))
    let top := (good.map fun c => c.2.gen.toNat).foldl max 0
    let s := { s with boot := { s.boot with chosen := true }, chk := { s.chk with cfgValid := map } }
    match good.filter fun c => c.2.gen.toNat == top with
    | [] => .next { s with chk := { s.chk with cfgState := 3 } }
    | c :: cs =>
      if cs.all fun d => d.2.digest == c.2.digest then
        .next { s with chk := { s.chk with cfgState := 0, cfgCopy := BitVec.ofNat 2 c.1, cfgGen := c.2.gen } }
      else
        .next (logAdd { s with chk := { s.chk with cfgState := 2 } }
          (logWord eConfigConflict 15 0 s.pwr.tickNum 0xFFFF 0 0xFF 0 0))

/-! ## Release (R397, R398, R409) -/

/-- The stepping letter and digit of IDENT_VER (02, Table 2-1). -/
def stepCode : Nat × Nat :=
  match Config.stepping with
  | .b1 => (2, 1)
  | .c0 => (3, 0)

/-- The weights of Table 1-4. -/
def weightsDefault : List Nat := [18, 10, 8, 10]

/-- The weights of the first table entry of this stepping, when each lies within 1 to 64 (R397). -/
def weightsOf (lut : List (BitVec 64)) : List Nat :=
  match lut.find? fun e => byteField e 0 1 == stepCode.1 && byteField e 1 1 == stepCode.2 with
  | some e =>
    let w := tabulate 4 fun k => byteField e (2 + k) 1
    if w.all fun x => decide (1 ≤ x ∧ x ≤ 64) then w else weightsDefault
  | none => weightsDefault

/-- After a warm release the uncommitted-update record is logged and cleared (R409). -/
def reportRecord (s : State) : State :=
  let s' := s.upd.record.foldl (fun t r => logAdd t (logWord eAborted 13 0 t.pwr.tickNum 0xFFFF 0 0 0 r.2.2.1.toNat)) s
  { s' with upd := { s'.upd with record := [] } }

/-- RELEASE: firmware starts with the chosen copy; after a cold release the stop of a trained ring rejoins, and that of a ring
that has not trained yet stays in pass-through until it has (Tables 16-4, 16-5). -/
def execRelease (s : State) : Host.Outcome State Fault Refusal :=
  if !clusterUp s || !s.boot.chosen || s.chk.cfgState != 0 || s.boot.released then .next s
  else
    let c := ((s.boot.copies.find? fun c => c.1 == s.chk.cfgCopy.toNat).map (·.2)).getD badCopy
    let s := { s with
      boot := { s.boot with released := true, fwver := c.fwver, weights := weightsOf c.lut }
      pwr := { s.pwr with firstTick := true, idle := false } }
    if s.boot.cold then .next (if s.rev.done then rejoinOut s else { s with rev := { s.rev with pt := true } })
    else .next (reportRecord s)

end Sys2Proof.Machine
end

