-- ==== Sys2Proof/Machine/Sync.lean ====
section
/-! DEFINITION. The Aside path (10, R262, R263) and ordering and atomics (12): Aside transfers, ACQ, REL, ATOM, CLAIM, their
requests, answers, the atomic log and leases. -/

namespace Sys2Proof.Machine

open Sys2Proof

/-! ## Cluster data cache (12, R309) -/

/-- The line at a physical line address. -/
def lineGet (s : State) (pa : Nat) : Option Granule :=
  (s.strm.dcache.find? fun l => l.1 == pa).map (·.2.2)

/-- A line filled. -/
def linePut (s : State) (pa va : Nat) (d : Granule) : State :=
  { s with strm := { s.strm with dcache := (pa, va, d) :: s.strm.dcache.filter fun l => l.1 != pa } }

/-- Lines that meet a virtual range invalidated (R314 step 4). -/
def lineInval (s : State) (lo hi : Nat) : State :=
  { s with strm := { s.strm with
      dcache := s.strm.dcache.filter fun l => !(decide (l.2.1 < hi) && decide (lo < l.2.1 + 64)) } }

/-- The number of 64-byte lines that `n` bytes from `a` cover. -/
def lineCount (a n : Nat) : Nat := (a + n + 63) / 64 - a / 64

/-! ## The atomic log (R325) -/

/-- An entry put in program order. -/
def alogInsert (e : AlogEntry) : List AlogEntry → List AlogEntry
  | [] => [e]
  | x :: xs => if e.idx < x.idx then e :: x :: xs else x :: alogInsert e xs

/-- What the log says of the next logged instruction of a run: its logged result, or that it is performed. -/
def alogMatch (i : Inst) (addr op : Nat) (a b : DWord) : Option AlogEntry :=
  if i.alogReplay then
    match i.alog[i.alogPos]? with
    | some e => if e.addr = addr ∧ e.op = op ∧ e.opsA = a ∧ e.opsB = b then some e else none
    | none => none
  else none

/-- The next logged instruction is performed: what a replay has left of the log is discarded (R325). -/
def alogMiss (s : State) (i : Inst) : State :=
  let rest := if i.alogReplay then i.alog.drop i.alogPos else []
  let s := setInst s i.uid fun i =>
    { i with alog := if i.alogReplay then i.alog.take i.alogPos else i.alog, alogReplay := false, alogPos := i.alogPos + 1 }
  endLoggedLeases s rest

/-- The result of a logged instruction kept, for the first 256 (R325). -/
def alogKeep (s : State) (a : Aside) (op : Nat) (res : DWord) (lease : Option Nat) : State :=
  match a.logIdx with
  | some k =>
    if k < 256 then
      setInst s a.uid fun i => { i with alog := alogInsert ⟨k, a.va, op, a.fv, a.cv, res, lease⟩ i.alog }
    else s
  | none => s

/-- The operation code that the log compares. -/
def alogOp (k : AsideKind) : Nat :=
  match k with
  | .atom aop sz => aop.toNat * 2 + bit sz
  | .claim lease => 256 + lease.toNat
  | _ => 512

/-! ## Sending (17 Table 17-4) -/

/-- An Aside entry changed by its tag. -/
def setAside (s : State) (tag : Nat) (f : Aside → Aside) : State :=
  { s with strm := { s.strm with asides := mapIf (fun a => a.tag == tag) f s.strm.asides } }

def dropAside (s : State) (tag : Nat) : State :=
  { s with strm := { s.strm with asides := s.strm.asides.filter fun a => a.tag != tag } }

/-- The access writes (R311). -/
def asideWrites (k : AsideKind) : Bool :=
  match k with
  | .read => false
  | .acq _ _ _ => false
  | _ => true

/-- The request of an Aside entry at its physical address. -/
def asideReq (s : State) (a : Aside) (pa : Nat) : Req :=
  let t := 4096 + a.tag
  let u := some a.uid
  let o := Owner.aside a.tag
  match a.kind with
  | .read => readReqOf s t 0 (pa / 64 * 64) (lineCount pa a.len - 1) 0 u o
  | .write => writeReqOf s t 3 pa (bufRead s a.uid a.bufH a.boff a.len) 0 u o
  | .atom aop sz => atomReqOf s t 4 pa aop sz (a.fv.toNat + a.cv.toNat * 2 ^ 64) u o
  | .claim _ => atomReqOf s t 5 pa 0 false (a.fv.toNat % 65536 + a.cv.toNat % 65536 * 65536) u o
  | .acq _ _ _ => readReqOf s t 1 pa 0 1 u o
  | .rel add => if add then atomReqOf s t 4 pa 0 true a.fv.toNat u o else writeReqOf s t 3 pa (natBytes 8 a.fv.toNat) 1 u o

/-- The lines of the cluster data cache that `n` bytes from `a` cover are read: a corrected error is counted, and a line
whose error cannot be corrected is invalidated and counted (14 Table 14-1, Source 6). -/
def cacheTake (s : State) (a n : Nat) : State :=
  let here := fun (p : Place) =>
    match p with
    | .dcache l => decide (l < a + n) && decide (a < l + 64) && (lineGet s l).isSome
    | _ => false
  (s.chk.marks.filter fun m => here m.place).foldl (fun s m =>
    let s := countCorr s m.place
    if m.hard then
      dropMarks { s with strm := { s.strm with dcache := s.strm.dcache.filter fun l => Place.dcache l.1 != m.place } }
        (· == m.place)
    else s) s

/-- The bytes of an Aside read from lines that are all present (R263). -/
def cachedBytes (s : State) (pa len : Nat) : Option (List Byte) :=
  ((List.range (lineCount pa len)).mapM fun k => lineGet s (pa / 64 * 64 + 64 * k)).map fun ls =>
    ((ls.flatMap fun l => natBytes 64 l.toNat).drop (pa % 64)).take len

/-- Present lines that an Aside write covers take its bytes (R263). -/
def cacheWrite (s : State) (pa : Nat) (bs : List Byte) : State :=
  { s with strm := { s.strm with dcache := s.strm.dcache.map fun l =>
      (l.1, l.2.1, BitVec.ofNat 512 (leNat (tabulate 64 fun k =>
        if pa ≤ l.1 + k ∧ l.1 + k < pa + bs.length then bs.getD (l.1 + k - pa) 0 else BitVec.ofNat 8 (byteField l.2.2 k 1)))) } }

/-- The uncorrectable scratchpad word, if any, among the bytes that an Aside write reads: it is not sent (R273). -/
def asideMark (s : State) (a : Aside) : Option Mark :=
  if a.kind = .write then
    match findBuf s a.uid a.bufH with
    | some b => s.chk.marks.find? fun m => m.hard && inPieces (bufPieces b a.boff a.len) m.place
    | none => none
  else none

/-- An Aside entry is sent: translated, then served by the cache or issued; a miss walks, a fault suspends it
(R262, R263, R268, R311). -/
def asideSend (s : State) (tag : Nat) : State :=
  match s.strm.asides.find? fun a => a.tag == tag with
  | none => s
  | some a =>
    match xlLookup s a.va (asideWrites a.kind) with
    | .fault lv rs =>
      let (s, f) := noteFault s a.uid slotAside a.va (asideWrites a.kind) lv rs
      setAside s tag fun a => { a with susp := some f, walking := false }
    | .walk =>
      match startWalk s a.va (asideWrites a.kind) (.aside tag) (some a.uid) with
      | some s => setAside s tag fun a => { a with walking := true }
      | none => s
    | .hit pa =>
      let s := if a.kind = .read then cacheTake s pa a.len else s
      let hit := if a.kind = .read then cachedBytes s pa a.len else none
      match hit with
      | some bs => dropAside (bufStore s a.uid a.bufH a.boff bs) tag
      | none =>
        match asideMark s a with
        | some m => meetMark (errLast (dropAside s tag) slotAside eUncorr) (some a.uid) m
        | none =>
          let r := asideReq s a pa
          let s := if a.kind = .write then
              cacheWrite (bufTake s a.uid a.bufH a.boff a.len) pa (bufRead s a.uid a.bufH a.boff a.len)
            else s
          let s := { s with strm := { s.strm with reqs := s.strm.reqs ++ [r] } }
          setAside s tag fun a => { a with issued := true, walking := false, waiting := false }

/-- An entry waits for the earlier writes of its run (R312, R313). -/
def asideHeld (s : State) (a : Aside) : Bool := a.rls && !writesDone s a.uid a.seq

/-- Entries that have been neither sent nor suspended and wait for nothing are sent. -/
def kickAsides (s : State) : State :=
  (s.strm.asides.filter fun a => !a.issued && !a.walking && !a.waiting && a.susp.isNone && !asideHeld s a).foldl
    (fun s a => asideSend s a.tag) s

/-- A new Aside entry: it takes a tag, counted as an Aside request (19), and is sent unless earlier writes hold it. -/
def asideStart (s : State) (tag : Nat) (a : Aside) : State :=
  let t := perfAdd { s with strm := { s.strm with asides := s.strm.asides ++ [a] } } 0x030A 1
  if asideHeld s a then t else asideSend t tag

/-- The lowest free Aside tag. -/
def asideTag (s : State) : Option Nat :=
  lowestFree (s.strm.asides.map (·.tag) ++ (s.strm.orphans.filter fun t => decide (4096 ≤ t)).map (· - 4096)) 0 64

/-! ## Aside transfers (10, R262) -/

/-- The checks of Table 10-3 on an Aside image. -/
def asideCheck (s : State) (i : Inst) (img : BitVec 128) : Option Code :=
  let c := runCtx s i
  let (gva, dir, len, h, boff) := asideFields img
  if !asideOk img then some eBadval
  else if !ctxGranted c (1, 0) then some eFeature
  else if !asideAligned img then some eAlign
  else if (ctxSize c h).getD 0 < boff + len then some eBufsize
  else if !extentOk (((sceneOf s i).map (·.sets)).getD []) dir gva ((gva + len : Nat) : Int) then some eOutset
  else none

/-- An ACQ in progress whose range an Aside read meets; one with a range length of 0 has none (12, R315, R319). -/
def acqMeets (s : State) (uid lo hi : Nat) : Bool :=
  s.strm.asides.any fun a => a.uid == uid &&
    match a.kind with
    | .acq _ rb rn => rn != 0 && decide (lo < rb + rn) && decide (rb < hi)
    | _ => false

def asideBody (pts : Patches) (image : BitVec 128) (s : State) (_ : Run) (i : Inst) : Verdict :=
  let img := patched s pts image
  match asideCheck s i img with
  | some e => .fault e
  | none =>
    let (gva, dir, len, h, boff) := asideFields img
    let rs := [rBuf s i.uid h boff ((boff + len : Nat) : Int) (!dir), rGlob gva ((gva + len : Nat) : Int) dir]
    match asideTag s with
    | none => .wait
    | some t =>
      if rngsBusy s s.seq.nextUid rs then .waitFor rs
      else if !dir && acqMeets s i.uid gva (gva + len) then .wait
      else
        let (seq, s) := fresh s
        .go (asideStart s t ⟨t, i.uid, seq, if dir then .write else .read, gva, h, boff, len, 0, 0, none, none, false,
          false, false, false, none⟩)

def execAside (pts : Patches) (image : BitVec 128) (s : State) : Host.Outcome State Fault Refusal :=
  .next (issue s .d 2 (.aside pts image) (patchRegs pts) (asideBody pts image))

/-! ## Synchronization and atomics at issue (12, R311 to R322) -/

/-- An address with a nonzero bit in [63:57] (R319). -/
def addrBad (a : DWord) : Bool := decide (2 ^ 57 ≤ a.toNat)

/-- A synchronization instruction enters the Aside path. -/
def syncStart (s : State) (i : Inst) (t : Nat) (k : AsideKind) (va : Nat) (fv cv : DWord) (sd : Option (BitVec 5))
    (logIdx : Option Nat) (rls : Bool) : State :=
  let (seq, s) := fresh s
  asideStart s t ⟨t, i.uid, seq, k, va, 0, 0, 0, fv, cv, sd, logIdx, rls, false, false, false, none⟩

/-- An instruction of the atomic log: a replay's match writes the logged result without reaching the home; otherwise it
is performed and its result will be logged (R325). -/
def loggedStart (s : State) (i : Inst) (t : Nat) (k : AsideKind) (va : Nat) (fv cv : DWord) (sd : BitVec 5) (rls : Bool) :
    State :=
  match alogMatch i va (alogOp k) fv cv with
  | some e => setS (setInst s i.uid fun i => { i with alogPos := i.alogPos + 1 }) sd e.res
  | none => syncStart (alogMiss s i) i t k va fv cv (some sd) (some i.alogPos) rls

def acqBody (w : AcqWord) (s : State) (_ : Run) (i : Inst) : Verdict :=
  let fa := getS s w.fa
  let rb := (getS s w.rb).toNat
  let rn := (getS s w.rn).toNat
  if addrBad fa || (rn != 0 && decide (2 ^ 57 < rb + rn)) then .fault eBadval
  else if fa.toNat % 8 ≠ 0 ∨ (rn ≠ 0 ∧ (rb % 64 ≠ 0 ∨ rn % 64 ≠ 0)) then .fault eAlign
  else
    match asideTag s with
    | none => .wait
    | some t => .go (syncStart s i t (.acq w.cond rb rn) fa.toNat (getS s w.fv) 0 (some w.sd) none false)

def execAcq (w : AcqWord) (s : State) : Host.Outcome State Fault Refusal :=
  .next (issue s .d 1 (.acq w) [w.fa, w.fv, w.rb, w.rn, w.sd] (acqBody w))

/-- ACQ_POLL: an ACQ whose last read failed its condition reads again, while its run goes on (R314 step 2). -/
def execAcqPoll (tag : BitVec 6) (s : State) : Host.Outcome State Fault Refusal :=
  match s.strm.asides.find? fun a => a.tag == tag.toNat && a.waiting && runAlive s a.uid with
  | none => .next s
  | some a =>
    let s := { s with strm := { s.strm with acqPoll := s.strm.acqPoll + 1 } }
    .next (asideSend (setAside (perfAdd s 0x030A 1) a.tag fun a => { a with waiting := false }) a.tag)

/-- REL takes its place on the Aside path; its request goes once the run's earlier writes are complete, and no later
instruction waits for that (R312). -/
def relBody (w : RelWord) (s : State) (_ : Run) (i : Inst) : Verdict :=
  let fa := getS s w.fa
  if addrBad fa then .fault eBadval
  else if fa.toNat % 8 ≠ 0 then .fault eAlign
  else
    match asideTag s with
    | none => .wait
    | some t =>
      if w.add then .go (loggedStart s i t (.rel true) fa.toNat (getS s w.fv) 0 w.sd true)
      else .go (syncStart s i t (.rel false) fa.toNat (getS s w.fv) 0 none none true)

def execRel (w : RelWord) (s : State) : Host.Outcome State Fault Refusal :=
  .next (issue s .d 1 (.rel w) (w.fa :: w.fv :: (if w.add then [w.sd] else [])) (relBody w))

def atomBody (w : AtomWord) (s : State) (_ : Run) (i : Inst) : Verdict :=
  let a := getS s w.sa
  if addrBad a then .fault eBadval
  else if a.toNat % (if w.sz then 8 else 4) ≠ 0 then .fault eAlign
  else
    match asideTag s with
    | none => .wait
    | some t =>
      let cut := fun v : DWord => if w.sz then v else (v.truncate 32).zeroExtend 64
      .go (loggedStart s i t (.atom w.aop w.sz) a.toNat (cut (getS s w.sv))
        (if w.aop = 9 then cut (getS s w.sc) else 0) w.sd w.rls)

def execAtom (w : AtomWord) (s : State) : Host.Outcome State Fault Refusal :=
  .next (issue s .d 1 (.atom w) ([w.sa, w.sv, w.sd] ++ (if w.aop = 9 then [w.sc] else [])) (atomBody w))

/-- Leases held and CLAIMs that may yet enter one (R322). -/
def leaseLoad (s : State) : Nat :=
  s.strm.leases.length + (s.strm.asides.filter fun a =>
    match a.kind with
    | .claim _ => true
    | _ => false).length

/-- CLAIM: a match in a replay's log needs no entry of the lease table; any other waits for room in it, once the leases that
its mismatch ends are gone (R322, R325). -/
def claimBody (w : ClaimWord) (s : State) (_ : Run) (i : Inst) : Verdict :=
  let a := getS s w.sa
  let e := (((getS s w.se).truncate 16 : BitVec 16)).zeroExtend 64
  let n := (((getS s w.sn).truncate 16 : BitVec 16)).zeroExtend 64
  if addrBad a || n == 0 then .fault eBadval
  else if a.toNat % 16 ≠ 0 then .fault eAlign
  else
    match asideTag s with
    | none => .wait
    | some t =>
      if (alogMatch i a.toNat (alogOp (.claim w.lease)) e n).isNone && decide (64 ≤ leaseLoad (alogMiss s i)) then .wait
      else .go (loggedStart s i t (.claim w.lease) a.toNat e n w.sd false)

def execClaim (w : ClaimWord) (s : State) : Host.Outcome State Fault Refusal :=
  .next (issue s .d 1 (.claim w) [w.sa, w.se, w.sn, w.sd] (claimBody w))

/-! ## Answers (R314, R317, R320, R321) -/

/-- The condition of an ACQ (Table 12-2). -/
def acqHolds (cond : BitVec 2) (v f : DWord) : Bool :=
  match cond.toNat with
  | 0 => true
  | 1 => v == f
  | 2 => decide (f.toNat ≤ v.toNat)
  | _ => v != f

/-- A result for a scalar register of the run that asked for it. -/
def setResult (s : State) (uid : Nat) (sd : Option (BitVec 5)) (v : DWord) : State :=
  match sd, s.seq.run with
  | some r, some run => if run.uid = uid then setS s r v else s
  | _, _ => s

/-- An ACQ is complete: lines of its range are invalidated, and the streams of its run remember what they had requested
by now (R314, R316). -/
def acqDone (s : State) (a : Aside) (rb rn : Nat) (v : DWord) : State :=
  let s := setResult (dropAside s a.tag) a.uid a.sd v
  if rn = 0 then s
  else
    let s := lineInval s rb (rb + rn)
    let mark := fun st : Stream =>
      { st with marks := st.marks ++
          [⟨a.seq, rb, rb + rn, st.next, (List.range st.next).filter (unitInSorter s st.id)⟩] }
    let mine := fun st : Stream => st.uid == a.uid && descReads (descOf st.image)
    { s with strm := { s.strm with streams := mapIf mine mark s.strm.streams } }

/-- A granted CLAIM enters a lease (R322); its key. -/
def leaseEnter (s : State) (a : Aside) (lease : BitVec 8) (res : DWord) : State × Option Nat :=
  if bvGet res 48 2 ≠ 0 then (s, none)
  else
    let (key, s) := fresh s
    let t := s.pwr.tickNum
    let l : Lease := ⟨key, a.uid, a.va, a.fv.truncate 16, res.truncate 32, BitVec.ofNat 16 (bvGet res 32 16), lease, t,
      t + lease.zeroExtend 64, false, false⟩
    ({ s with strm := { s.strm with leases := s.strm.leases ++ [l] } }, some key)

/-- A performed access of an Aside entry. -/
def asideDone (s : State) (a : Aside) (r : Req) (data : BitVec 2048) : State :=
  match a.kind with
  | .read =>
    let pa := r.addr.toNat + a.va % 64
    let s := (List.range (r.len.toNat + 1)).foldl (fun s k =>
      linePut s (r.addr.toNat + 64 * k) (a.va / 64 * 64 + 64 * k)
        (BitVec.ofNat 512 (bvGet data (8 * ((r.addr.toNat + 64 * k) % 256)) 512))) s
    dropAside (bufStore s a.uid a.bufH a.boff (natBytes a.len (laneGet data pa a.len))) a.tag
  | .write => dropAside s a.tag
  | .atom _ sz =>
    let old := BitVec.ofNat 64 (bvGet data 0 (if sz then 64 else 32))
    dropAside (setResult (alogKeep s a (alogOp a.kind) old none) a.uid a.sd old) a.tag
  | .claim lease =>
    let res := BitVec.ofNat 64 (bvGet data 0 64)
    let (s, key) := leaseEnter s a lease res
    dropAside (setResult (alogKeep s a (alogOp a.kind) res key) a.uid a.sd res) a.tag
  | .acq cond rb rn =>
    let v := BitVec.ofNat 64 (laneGet data r.addr.toNat 8)
    if acqHolds cond v a.fv then acqDone s a rb rn v
    else if !runAlive s a.uid then dropAside s a.tag
    else setAside s a.tag fun a => { a with issued := false, waiting := true }
  | .rel add =>
    if add then
      let old := BitVec.ofNat 64 (bvGet data 0 64)
      dropAside (setResult (alogKeep s a (alogOp a.kind) old none) a.uid a.sd old) a.tag
    else dropAside s a.tag

/-- The answer to an Aside request, which has left the list of requests. -/
def asideAnswer (s : State) (a : Aside) (r : Req) (ans : Answer) (data : BitVec 2048) : State :=
  match ans with
  | .ok => asideDone s a r data
  | _ => endAccess (dropAside s a.tag) a.uid slotAside ans a.va

end Sys2Proof.Machine
end

