-- ==== Sys2Proof/Machine/Trans.lean ====
section
/-! DEFINITION. Transcendental functions (spec/07_vector_engine.md, R170, R171, Table 7-6). The exact value is enclosed
in a dyadic interval; the delivered bits are the free value of Config where it lies within the bound of Table 7-6,
and the rounded enclosure otherwise (log 7). -/

namespace Sys2Proof.Machine

/-- An enclosure of an exact real value; `lo = hi` when the value is that dyadic. -/
structure Ival where
  lo : Dy
  hi : Dy
deriving DecidableEq, Repr, Inhabited

def ivPoint (a : Dy) : Ival := ⟨a, a⟩

def ivNeg (i : Ival) : Ival := ⟨dyNeg i.hi, dyNeg i.lo⟩

/-- `ln 2` in units of 2^-160, rounded down. -/
def ln2Fixed : Nat := 1013035739299659071135698605846798551586536899366

/-- `log2 e` in units of 2^-160, rounded down. -/
def log2eFixed : Nat := 2108501164428393954197770173035669514763056903505

/-- Terms of the exponential series of `t` (units 2^-128), from term `n` on, for `fuel` terms. -/
def expTerms (t : Nat) : Nat → Nat → Nat → Nat
  | 0, _, _ => 0
  | fuel + 1, n, term => term + expTerms t fuel (n + 1) (term * t / 2 ^ 128 / (n + 1))

/-- `2^f` for `f` in units of 2^-128, `0 ≤ f < 1`: a value within 2^10 units of 2^-128. -/
def exp2Frac (f : Nat) : Nat := expTerms (f * ln2Fixed / 2 ^ 160) 48 0 (2 ^ 128)

/-- Enclosure of `2^v` for v between `lo` and `lo + w` (units 2^-128), `w` small. -/
def exp2Fixed (lo : Int) (w : Nat) : Ival :=
  let i := lo / 2 ^ 128
  let f := (lo % 2 ^ 128).toNat
  let s : Int := exp2Frac f
  ⟨⟨max (s - 1024) (2 ^ 128), i - 128⟩, ⟨s + 1024 + 2 * w, i - 128⟩⟩

/-- Floor of a dyadic in units of 2^-128, and whether it is exact. -/
def dyFixed (a : Dy) : Int × Bool :=
  if -128 ≤ a.e then (a.m * 2 ^ (a.e + 128).toNat, true)
  else
    let d : Int := 2 ^ (-128 - a.e).toNat
    (a.m / d, a.m % d == 0)

/-- Enclosure of `2^x`; the argument is cut to the range where the result is neither 0 nor overflowing. -/
def ivExp2 (a : Dy) : Ival :=
  if dyLe a ⟨-200, 0⟩ then ⟨⟨1, -210⟩, ⟨1, -199⟩⟩
  else if dyLe ⟨200, 0⟩ a then ⟨⟨1, 199⟩, ⟨1, 201⟩⟩
  else
    let (v, ex) := dyFixed a
    if ex && v % 2 ^ 128 == 0 then ivPoint ⟨1, v / 2 ^ 128⟩ else exp2Fixed v (if ex then 0 else 1)

/-- Bits of `log2 y` for y in [1, 2) held in units of 2^-300: `n` bits by repeated squaring. -/
def log2Bits : Nat → Nat → Nat → Nat
  | 0, _, acc => acc
  | n + 1, y, acc =>
    let y2 := y * y / 2 ^ 300
    if 2 ^ 301 ≤ y2 then log2Bits n (y2 / 2) (2 * acc + 1) else log2Bits n y2 (2 * acc)

/-- Enclosure of `log2 (m * 2^e)` for m > 0. -/
def ivLog2 (m : Nat) (e : Int) : Ival :=
  let k := Nat.log2 m
  let ex : Int := (k : Int) + e
  if m = 2 ^ k then ivPoint ⟨ex, 0⟩
  else
    let y := m * 2 ^ 300 / 2 ^ k
    let b : Int := log2Bits 100 y 0
    ⟨⟨ex * 2 ^ 100 + max (b - 1) 0, -100⟩, ⟨ex * 2 ^ 100 + min (b + 2) (2 ^ 100), -100⟩⟩

/-- Enclosure of the quotient of two positive dyadics, within 2^-299 of its value. -/
def ivDivPos (a b : Dy) : Ival :=
  let k := 300 + Nat.log2 b.m.natAbs
  let n := a.m.natAbs * 2 ^ k
  let q := n / b.m.natAbs
  let e := a.e - b.e - k
  ⟨⟨q, e⟩, ⟨q + (if n % b.m.natAbs = 0 then 0 else 1), e⟩⟩

/-- Enclosure of `1 / sqrt (m * 2^e)` for m > 0. -/
def ivRsqrt (m : Nat) (e : Int) : Ival :=
  let (m', e') := if e % 2 = 0 then (m, e) else (2 * m, e - 1)
  let r := isqrt (2 ^ 480 / m')
  let ex : Int := -240 - e' / 2
  ⟨⟨r, ex⟩, ⟨r + (if r * r * m' = 2 ^ 480 then 0 else 1), ex⟩⟩

/-- Enclosure of `exp(x)` for a dyadic of magnitude below 512. -/
def ivExp (a : Dy) : Ival :=
  let (v, _) := dyFixed a
  let p := v * (log2eFixed : Int) / 2 ^ 160
  exp2Fixed (p - 1024) 4096

/-- Enclosure of `tanh x` for x > 0. -/
def ivTanhPos (a : Dy) : Ival :=
  if dyLe a ⟨1, -12⟩ then
    -- x - x^3/3 < tanh x < x - x^3/3 + 2 x^5/15
    let x3 := dyMul a (dyMul a a)
    let third : Dy := ⟨x3.m * 2 ^ 200 / 3, x3.e - 200⟩
    let x5 := dyMul x3 (dyMul a a)
    ⟨dyAdd a (dyNeg ⟨third.m + 1, third.e⟩), dyAdd (dyAdd a (dyNeg third)) ⟨x5.m, x5.e - 2⟩⟩
  else if dyLe ⟨64, 0⟩ a then ⟨⟨2 ^ 90 - 1, -90⟩, ⟨1, 0⟩⟩
  else
    let e := ivExp ⟨a.m * 2, a.e⟩
    let one : Dy := ⟨1, 0⟩
    ⟨(ivDivPos (dyAdd e.lo (dyNeg one)) (dyAdd e.lo one)).lo, (ivDivPos (dyAdd e.hi (dyNeg one)) (dyAdd e.hi one)).hi⟩

/-- The lesser of two dyadics. -/
def dyMin (a b : Dy) : Dy := if dyLe a b then a else b

/-- Enclosure of the logistic sigmoid; below 1/2 for x < 0. -/
def ivSigm (a : Dy) : Ival :=
  if a.m = 0 then ivPoint ⟨1, -1⟩
  else if dyLe ⟨256, 0⟩ a then ⟨⟨2 ^ 200 - 1, -200⟩, ⟨1, 0⟩⟩
  else if dyLe a ⟨-256, 0⟩ then ⟨⟨0, 0⟩, ⟨1, -200⟩⟩
  else
    let e := ivExp (dyNeg a)
    let one : Dy := ⟨1, 0⟩
    let hi := (ivDivPos one (dyAdd e.lo one)).hi
    ⟨(ivDivPos one (dyAdd e.hi one)).lo, if a.m < 0 then dyMin hi ⟨1, -1⟩ else hi⟩

/-- The bound of Table 7-6 for the other finite results. -/
inductive TransBound where
  | ulp1
  | ulp2
  | abs24
deriving DecidableEq, Repr, Inhabited

/-- The ulp of R170 at an enclosed exact value; where the ends differ, the value lies below the end of the greater magnitude. -/
def ulpOf (y : Ival) : Dy :=
  let a := if y.lo.m < 0 then y.lo else y.hi
  let k := Nat.log2 a.m.natAbs
  let below := a.m.natAbs = 2 ^ k ∧ y.lo ≠ y.hi
  if a.m = 0 then ⟨1, -149⟩ else ⟨1, max ((k : Int) - (if below then 1 else 0) + a.e - 23) (-149)⟩

/-- Whether an FP32 code lies within the bound around the enclosed value (R170, Table 7-6). A -0 is no result here. -/
def transWithin (bd : TransBound) (y : Ival) (c : Nat) : Bool :=
  match fpDecode .fp32 c with
  | .nan _ => false
  | .inf n =>
    -- an infinity brackets only values beyond the largest finite one
    match bd with
    | .ulp1 => !n && (dyRound .fp32 .rup .ieee false y.hi).1 == c || n && (dyRound .fp32 .rdn .ieee false y.lo).1 == c
    | _ => false
  | .fin n m e =>
    let v := dyOfFin n m e
    (m != 0 || !n) &&
    match bd with
    | .ulp1 =>
      match fpDecode .fp32 (dyRound .fp32 .rdn .ieee false y.lo).1, fpDecode .fp32 (dyRound .fp32 .rup .ieee false y.hi).1 with
      | .fin an am ae, .fin bn bm be => dyLe (dyOfFin an am ae) v && dyLe v (dyOfFin bn bm be)
      | .fin an am ae, .inf _ => dyLe (dyOfFin an am ae) v
      | .inf _, .fin bn bm be => dyLe v (dyOfFin bn bm be)
      | _, _ => false
    | .ulp2 =>
      let u := ulpOf y
      let d : Dy := ⟨2 * u.m, u.e⟩
      dyLe (dyAdd y.lo (dyNeg d)) v && dyLe v (dyAdd y.hi d)
    | .abs24 =>
      let d : Dy := ⟨1, -24⟩
      dyLe (dyAdd y.lo (dyNeg d)) v && dyLe v (dyAdd y.hi d)

/-- The delivered result for an enclosed finite value and its flags: the free value where it lies within the bound, the
rounded enclosure otherwise. A value that overflows under R50 gives the infinity of its sign. DESIGN CHOICE (log 47): where
the delivered bits are free, UNDERFLOW follows the RNE rounding of the exact value and not those bits (R69, R171). -/
def transResult (fn : TransFn) (bd : TransBound) (y : Ival) (c : Nat) : Nat × Flags :=
  let (near, nfl) := dyRound .fp32 .rne .ieee false (if y.lo.m = 0 then y.hi else y.lo)
  if (nfl &&& flOverflow) ≠ 0 then (near, flOverflow ||| flInexact)
  else
    let free := (Config.transcendental fn (BitVec.ofNat 32 c)).toNat
    let exact := decide (y.lo = y.hi) && nfl == 0
    let r := if exact then near else if transWithin bd y free then free else near
    (r, if exact then 0 else flInexact ||| (nfl &&& flUnderflow) ||| flagIf (r == 0x7F800000 || r == 0xFF800000) flOverflow)

/-- Table 7-6: the transcendental function of an FP32 operand and its flags (R170, R171). -/
def fpTrans (fn : TransFn) (c : Nat) : Nat × Flags :=
  match fpDecode .fp32 c with
  | .nan q => (fpQuiet .fp32 c, flagIf (!q) flInvalid)
  | .inf n =>
    match fn with
    | .exp2 => (if n then 0 else 0x7F800000, 0)
    | .log2 => if n then (fmtNan .fp32, flInvalid) else (0x7F800000, 0)
    | .rcp => (if n then 0x80000000 else 0, 0)
    | .rsqrt => if n then (fmtNan .fp32, flInvalid) else (0, 0)
    | .tanh => (if n then 0xBF800000 else 0x3F800000, 0)
    | .sigm => (if n then 0 else 0x3F800000, 0)
  | .fin n m e =>
    if m = 0 then
      match fn with
      | .exp2 => (0x3F800000, 0)
      | .log2 => (0xFF800000, flOverflow)
      | .rcp => (fpInfCode .fp32 n, flOverflow)
      | .rsqrt => (fpInfCode .fp32 n, flOverflow)
      | .tanh => (c, 0)
      | .sigm => (0x3F000000, 0)
    else
      let a := dyOfFin n m e
      match fn with
      | .exp2 =>
        if dyLe ⟨128, 0⟩ a then (0x7F800000, flOverflow ||| flInexact) else transResult fn .ulp1 (ivExp2 a) c
      | .log2 =>
        if n then (fmtNan .fp32, flInvalid)
        else
          let inside := dyLe ⟨1, -1⟩ a && dyLe a ⟨2, 0⟩
          transResult fn (if inside then .abs24 else .ulp1) (ivLog2 m e) c
      | .rcp =>
        let y := ivDivPos ⟨1, 0⟩ (dyAbs a)
        transResult fn .ulp1 (if n then ivNeg y else y) c
      | .rsqrt => if n then (fmtNan .fp32, flInvalid) else transResult fn .ulp1 (ivRsqrt m e) c
      | .tanh =>
        let y := ivTanhPos (dyAbs a)
        transResult fn .ulp2 (if n then ivNeg y else y) c
      | .sigm => transResult fn .ulp2 (ivSigm a) c

end Sys2Proof.Machine
end

