-- ==== Sys2Proof/Machine/Vector.lean ====
section
/-! DEFINITION. The vector engine (07): element-wise instructions, compares, masks, permutes, reductions, conversion and
data movement. -/

namespace Sys2Proof.Machine

open Sys2Proof

/-! ## Elements (R160 to R162) -/

/-- The vector format of a code of Table 7-1. -/
def vfmt (t : BitVec 4) : Fmt := (fmtOf t.toNat).getD .fp32

/-- Element `i` of width `w` (R160). -/
def vElem (v : VReg) (w i : Nat) : Nat := bvGet v (w * i) w

/-- E for the widest format (R161). -/
def vecE (s : State) (wmax : Nat) : Nat := min s.vec.vl.toNat (16384 / wmax)

/-- Elements 0 to `es.length - 1` of width `w` written; the rest of the register stands. -/
def vPutElems (v : VReg) (w : Nat) (es : List Nat) : VReg := bvPut v 0 (w * es.length) (pack w es)

/-- R162: active elements receive results, inactive ones below E keep their bits or become zero; the flags of the active
elements are raised in VEC_NUMSTAT. -/
def vecMap (s : State) (w : VecWord) (wd e : Nat) (f : Nat → Nat × Flags) : State :=
  let k := getK s w.km
  let old := getV s w.vd
  let rs := tabulate e fun i => if k.getLsbD i then f i else (if w.mz then 0 else vElem old wd i, 0)
  raiseVec (setV s w.vd (vPutElems old wd (rs.map (·.1)))) (orFlags (rs.map (·.2)))

/-- Issue on the V queue; an instruction that has its effect is counted (19, VEC_ISSUE). -/
def vecIssue (s : State) (c : Instr) (regs : List (BitVec 5)) (body : State → Run → Inst → Verdict) :
    Host.Outcome State Fault Refusal :=
  .next (issue s .v 1 c regs fun s r i => body (perfAdd s 0x0201 1) r i)

/-- An instruction that only changes vector state. -/
def vecPlain (s : State) (c : Instr) (f : State → State) : Host.Outcome State Fault Refusal :=
  vecIssue s c [] fun s _ _ => .go (f s)

/-! ## Arithmetic (R167 to R169) -/

/-- An element-wise instruction of one source. -/
def vecUn (w : VecWord) (f : Nat → Nat × Flags) (s : State) : State :=
  let b := fmtBits (vfmt w.t)
  vecMap s w b (vecE s b) fun i => f (vElem (getV s w.va) b i)

/-- An element-wise instruction of two sources. -/
def vecBin (w : VecWord) (f : Nat → Nat → Nat × Flags) (s : State) : State :=
  let b := fmtBits (vfmt w.t)
  vecMap s w b (vecE s b) fun i => f (vElem (getV s w.va) b i) (vElem (getV s w.vb) b i)

/-- An element-wise instruction of three sources. -/
def vecTern (w : VecWord) (f : Nat → Nat → Nat → Nat × Flags) (s : State) : State :=
  let b := fmtBits (vfmt w.t)
  vecMap s w b (vecE s b) fun i =>
    f (vElem (getV s w.va) b i) (vElem (getV s w.vb) b i) (vElem (getV s w.vc) b i)

/-- INT32 arithmetic: the low 32 bits of the exact result, no flag (R169). -/
def intOp (g : Int → Int → Int) (a b : Nat) : Nat × Flags := (int32Code (g (int32Val a) (int32Val b)), 0)

/-- A bitwise or shift instruction on 32 bits (Table 7-5). -/
def bitOp (g : Word → Word → Word) (a b : Nat) : Nat × Flags := ((g (BitVec.ofNat 32 a) (BitVec.ofNat 32 b)).toNat, 0)

/-- The INT32 form for T = 1, the floating-point form otherwise. -/
def byFmt (w : VecWord) (i : Nat → Nat → Nat × Flags) (f : Fmt → Rm → Nat → Nat → Nat × Flags) (a b : Nat) : Nat × Flags :=
  if w.t = 1 then i a b else f (vfmt w.t) (rmOf w.rm) a b

def execVadd (w : VecWord) (s : State) : Host.Outcome State Fault Refusal :=
  vecPlain s (.vadd w) (vecBin w (byFmt w (intOp (· + ·)) fpAdd))

def execVsub (w : VecWord) (s : State) : Host.Outcome State Fault Refusal :=
  vecPlain s (.vsub w) (vecBin w (byFmt w (intOp (· - ·)) fpSub))

def execVmul (w : VecWord) (s : State) : Host.Outcome State Fault Refusal :=
  vecPlain s (.vmul w) (vecBin w (byFmt w (intOp (· * ·)) fpMul))

def execVdiv (w : VecWord) (s : State) : Host.Outcome State Fault Refusal :=
  vecPlain s (.vdiv w) (vecBin w (fpDiv (vfmt w.t) (rmOf w.rm)))

def execVmin (w : VecWord) (s : State) : Host.Outcome State Fault Refusal :=
  vecPlain s (.vmin w) (vecBin w (byFmt w (intOp min) fun f _ => fpMinMax f false))

def execVmax (w : VecWord) (s : State) : Host.Outcome State Fault Refusal :=
  vecPlain s (.vmax w) (vecBin w (byFmt w (intOp max) fun f _ => fpMinMax f true))

def execVfma (w : VecWord) (s : State) : Host.Outcome State Fault Refusal :=
  vecPlain s (.vfma w) (vecTern w (fpFma (vfmt w.t) (rmOf w.rm) false false))

def execVfms (w : VecWord) (s : State) : Host.Outcome State Fault Refusal :=
  vecPlain s (.vfms w) (vecTern w (fpFma (vfmt w.t) (rmOf w.rm) false true))

def execVfnma (w : VecWord) (s : State) : Host.Outcome State Fault Refusal :=
  vecPlain s (.vfnma w) (vecTern w (fpFma (vfmt w.t) (rmOf w.rm) true false))

def execVfnms (w : VecWord) (s : State) : Host.Outcome State Fault Refusal :=
  vecPlain s (.vfnms w) (vecTern w (fpFma (vfmt w.t) (rmOf w.rm) true true))

def execVsqrt (w : VecWord) (s : State) : Host.Outcome State Fault Refusal :=
  vecPlain s (.vsqrt w) (vecUn w (fpSqrt (vfmt w.t) (rmOf w.rm)))

def execVabs (w : VecWord) (s : State) : Host.Outcome State Fault Refusal :=
  vecPlain s (.vabs w) (vecUn w fun a => (fpAbs (vfmt w.t) a, 0))

def execVneg (w : VecWord) (s : State) : Host.Outcome State Fault Refusal :=
  vecPlain s (.vneg w) (vecUn w fun a => (fpNegate (vfmt w.t) a, 0))

/-- The sign bit of `a` replaced by that of `b` (R167). -/
def fpCopySign (f : Fmt) (a b : Nat) : Nat := if fpNegBit f b then fpAbs f a + fmtSign f else fpAbs f a

def execVcpys (w : VecWord) (s : State) : Host.Outcome State Fault Refusal :=
  vecPlain s (.vcpys w) (vecBin w fun a b => (fpCopySign (vfmt w.t) a b, 0))

def execVand (w : VecWord) (s : State) : Host.Outcome State Fault Refusal :=
  vecPlain s (.vand w) (vecBin w (bitOp (· &&& ·)))

def execVor (w : VecWord) (s : State) : Host.Outcome State Fault Refusal :=
  vecPlain s (.vor w) (vecBin w (bitOp (· ||| ·)))

def execVxor (w : VecWord) (s : State) : Host.Outcome State Fault Refusal :=
  vecPlain s (.vxor w) (vecBin w (bitOp (· ^^^ ·)))

def execVsll (w : VecWord) (s : State) : Host.Outcome State Fault Refusal :=
  vecPlain s (.vsll w) (vecBin w (bitOp fun a b => a <<< (b.toNat % 32)))

def execVsrl (w : VecWord) (s : State) : Host.Outcome State Fault Refusal :=
  vecPlain s (.vsrl w) (vecBin w (bitOp fun a b => a >>> (b.toNat % 32)))

def execVsra (w : VecWord) (s : State) : Host.Outcome State Fault Refusal :=
  vecPlain s (.vsra w) (vecBin w (bitOp fun a b => a.sshiftRight (b.toNat % 32)))

/-! ## Transcendental functions (R170, R171) -/

/-- A transcendental instruction, counted as one (19, VEC_TRANS). -/
def vecTrans (s : State) (c : Instr) (w : VecWord) (fn : TransFn) : Host.Outcome State Fault Refusal :=
  vecPlain s c fun s => vecUn w (fpTrans fn) (perfAdd s 0x0203 1)

def execVexp2 (w : VecWord) (s : State) : Host.Outcome State Fault Refusal := vecTrans s (.vexp2 w) w .exp2

def execVlog2 (w : VecWord) (s : State) : Host.Outcome State Fault Refusal := vecTrans s (.vlog2 w) w .log2

def execVrcp (w : VecWord) (s : State) : Host.Outcome State Fault Refusal := vecTrans s (.vrcp w) w .rcp

def execVrsqrt (w : VecWord) (s : State) : Host.Outcome State Fault Refusal := vecTrans s (.vrsqrt w) w .rsqrt

def execVtanh (w : VecWord) (s : State) : Host.Outcome State Fault Refusal := vecTrans s (.vtanh w) w .tanh

def execVsigm (w : VecWord) (s : State) : Host.Outcome State Fault Refusal := vecTrans s (.vsigm w) w .sigm

/-! ## Compare, select, masks (R172 to R174) -/

/-- A list of Booleans as a mask; bits beyond it are 0. -/
def maskOf (l : List Bool) : Mask := BitVec.ofNat 512 (bitsOf l)

/-- The predicate on one pair (R172). -/
def vecPred (t : BitVec 4) (p : Pred) (a b : Nat) : Bool × Flags :=
  if t = 1 then (predOrd p (decide (int32Val a < int32Val b)) (decide (int32Val b < int32Val a)), 0)
  else fpCmp (vfmt t) p a b

/-- The result of a compare: holding active elements set their bits, every other bit is 0 (R172). -/
def vecCompare (pred : BitVec 4) (w : VecWord) (s : State) : State :=
  let b := fmtBits (vfmt w.t)
  let k := getK s w.km
  let p := (predOf pred.toNat).getD .eq
  let rs := tabulate (vecE s b) fun i =>
    if k.getLsbD i then vecPred w.t p (vElem (getV s w.va) b i) (vElem (getV s w.vb) b i) else (false, 0)
  raiseVec (setK s (w.vd.truncate 3) (maskOf (rs.map (·.1)))) (orFlags (rs.map (·.2)))

def execVcmp (pred : BitVec 4) (w : VecWord) (s : State) : Host.Outcome State Fault Refusal :=
  vecPlain s (.vcmp pred w) (vecCompare pred w)

/-- Elements below E from VA where the selector's bit is 1, from VB where it is 0 (R173). -/
def vecSelect (w : VecWord) (s : State) : State :=
  let b := fmtBits (vfmt w.t)
  let k := getK s w.km
  setV s w.vd (vPutElems (getV s w.vd) b (tabulate (vecE s b) fun i =>
    if k.getLsbD i then vElem (getV s w.va) b i else vElem (getV s w.vb) b i))

def execVsel (w : VecWord) (s : State) : Host.Outcome State Fault Refusal :=
  vecPlain s (.vsel w) (vecSelect w)

/-- A mask instruction on all 512 bits (R174). -/
def maskOp (w : VecWord) (f : Mask → Mask → Mask) (s : State) : State :=
  setK s (w.vd.truncate 3) (f (getK s (w.va.truncate 3)) (getK s (w.vb.truncate 3)))

def execKand (w : VecWord) (s : State) : Host.Outcome State Fault Refusal :=
  vecPlain s (.kand w) (maskOp w (· &&& ·))

def execKor (w : VecWord) (s : State) : Host.Outcome State Fault Refusal :=
  vecPlain s (.kor w) (maskOp w (· ||| ·))

def execKxor (w : VecWord) (s : State) : Host.Outcome State Fault Refusal :=
  vecPlain s (.kxor w) (maskOp w (· ^^^ ·))

def execKandn (w : VecWord) (s : State) : Host.Outcome State Fault Refusal :=
  vecPlain s (.kandn w) (maskOp w fun a b => a &&& ~~~b)

def execKnot (w : VecWord) (s : State) : Host.Outcome State Fault Refusal :=
  vecPlain s (.knot w) (maskOp w fun a _ => ~~~a)

/-- The bits below VL that are 1 in a mask (R174). -/
def laneCount (m : Mask) (vl : Nat) : Nat := ((List.range vl).filter fun i => m.getLsbD i).length

def execKpop (w : VecWord) (s : State) : Host.Outcome State Fault Refusal :=
  vecIssue s (.kpop w) [w.vd] fun s _ _ =>
    .go (setS s w.vd (BitVec.ofNat 64 (laneCount (getK s w.km) s.vec.vl.toNat)))

/-! ## Permute and broadcast (R175, R176) -/

/-- E when an index operand of 32 bits takes part (R161). -/
def permE (s : State) (b : Nat) : Nat := vecE s (max b 32)

/-- Element j of VA for an index below E; otherwise zero bits and INVALID (R175). -/
def vecPermute (w : VecWord) (s : State) : State :=
  let b := fmtBits (vfmt w.t)
  let e := permE s b
  vecMap s w b e fun i =>
    let j := vElem (getV s w.vb) 32 i
    if j < e then (vElem (getV s w.va) b j, 0) else (0, flInvalid)

def execVperm (w : VecWord) (s : State) : Host.Outcome State Fault Refusal :=
  vecPlain s (.vperm w) (vecPermute w)

def execVbcast (w : VecWord) (s : State) : Host.Outcome State Fault Refusal :=
  vecIssue s (.vbcast w) [w.va] fun s _ _ =>
    let b := fmtBits (vfmt w.t)
    .go (vecMap s w b (vecE s b) fun _ => (bvGet (getS s w.va) 0 b, 0))

def execVext (w : VecWord) (s : State) : Host.Outcome State Fault Refusal :=
  vecIssue s (.vext w) [w.vd] fun s _ _ =>
    .go (setS s w.vd (BitVec.ofNat 64 (vElem (getV s w.va) (fmtBits (vfmt w.t)) 0)))

/-! ## Reductions (R177 to R179) -/

/-- A node of the tree: a value when some active element stands below it, and the flags of its combinations. -/
abbrev RedNode := Option Nat × Flags

/-- Two nodes combined (R177). -/
def redPair (f : Nat → Nat → Nat × Flags) (x y : RedNode) : RedNode :=
  match x.1, y.1 with
  | some a, some b =>
    let (c, fl) := f a b
    (some c, fl ||| x.2 ||| y.2)
  | some a, none => (some a, x.2 ||| y.2)
  | none, b => (b, x.2 ||| y.2)

/-- One level of the tree. -/
def redLevel (f : Nat → Nat → Nat × Flags) : List RedNode → List RedNode
  | x :: y :: rest => redPair f x y :: redLevel f rest
  | l => l

/-- The tree over 2 to the `n` leaves. -/
def redTree (f : Nat → Nat → Nat × Flags) : Nat → List RedNode → RedNode
  | 0, l => l.headD (none, 0)
  | n + 1, l => redTree f n (redLevel f l)

/-- The leaves: active elements, signalling NaNs quieted with INVALID (R177). -/
def redLeaves (s : State) (w : VecWord) : List RedNode :=
  let f := vfmt w.t
  let b := fmtBits f
  let k := getK s w.km
  tabulate (16384 / b) fun i =>
    if i < vecE s b ∧ k.getLsbD i then
      let c := vElem (getV s w.va) b i
      if w.t ≠ 1 ∧ fpIsSnan f c then (some (fpQuiet f c), flInvalid) else (some c, 0)
    else (none, 0)

/-- The reduction by `f`: 512 leaves of 32 bits or 256 of 64. -/
def redValue (s : State) (w : VecWord) (f : Nat → Nat → Nat × Flags) : RedNode :=
  let r := redTree f (if w.t = 8 then 8 else 9) (redLeaves s w)
  (r.1, r.2 ||| orFlags ((redLeaves s w).map (·.2)))

/-- The result, or the identity of Table 7-8, in element 0 of VD (R177, R178). -/
def vecReduce (w : VecWord) (f : Nat → Nat → Nat × Flags) (ident : Nat) (s : State) : State :=
  let r := redValue s w f
  let b := fmtBits (vfmt w.t)
  raiseVec (setV s w.vd (bvPut (getV s w.vd) 0 b (r.1.getD ident))) r.2

/-- The identity of a format: FP32, INT32, FP64. -/
def identOf (t : BitVec 4) (fp32 int32 fp64 : Nat) : Nat := if t = 0 then fp32 else if t = 1 then int32 else fp64

def execVredsum (w : VecWord) (s : State) : Host.Outcome State Fault Refusal :=
  vecPlain s (.vredsum w) (vecReduce w (byFmt w (intOp (· + ·)) fpAdd) 0)

def execVredprod (w : VecWord) (s : State) : Host.Outcome State Fault Refusal :=
  vecPlain s (.vredprod w) (vecReduce w (byFmt w (intOp (· * ·)) fpMul)
    (identOf w.t 0x3F800000 1 0x3FF0000000000000))

/-- The combination of VREDMAX (`mx`) and VREDMIN. -/
def redMinMax (w : VecWord) (mx : Bool) : Nat → Nat → Nat × Flags :=
  byFmt w (intOp (if mx then max else min)) fun f _ => fpMinMax f mx

def execVredmax (w : VecWord) (s : State) : Host.Outcome State Fault Refusal :=
  vecPlain s (.vredmax w) (vecReduce w (redMinMax w true) (identOf w.t 0xFF800000 0x80000000 0xFFF0000000000000))

def execVredmin (w : VecWord) (s : State) : Host.Outcome State Fault Refusal :=
  vecPlain s (.vredmin w) (vecReduce w (redMinMax w false) (identOf w.t 0x7F800000 0x7FFFFFFF 0x7FF0000000000000))

/-- The index of R179 in lane 0 of VD. -/
def vecArg (w : VecWord) (mx : Bool) (s : State) : State :=
  let r := redValue s w (redMinMax w mx)
  let f := vfmt w.t
  let b := fmtBits f
  let k := getK s w.km
  let act := (List.range (vecE s b)).filter fun i => k.getLsbD i
  let idx : Nat := match r.1 with
    | none => 0xFFFFFFFF
    | some v =>
      if w.t ≠ 1 ∧ fpIsNan f v then act.headD 0
      else (act.find? fun i => vElem (getV s w.va) b i == v).getD 0
  raiseVec (setV s w.vd (bvPut (getV s w.vd) 0 32 idx)) r.2

def execVredargmax (w : VecWord) (s : State) : Host.Outcome State Fault Refusal :=
  vecPlain s (.vredargmax w) (vecArg w true)

def execVredargmin (w : VecWord) (s : State) : Host.Outcome State Fault Refusal :=
  vecPlain s (.vredargmin w) (vecArg w false)

/-! ## Conversion (R180) -/

/-- VCVT: element i of format T into element i of format T2. -/
def vecConvert (w : VecWord) (s : State) : State :=
  let a := vfmt w.t
  let d := vfmt w.t2
  vecMap s w (fmtBits d) (vecE s (max (fmtBits a) (fmtBits d))) fun i =>
    fpConvert a d (rmOf w.rm) w.sat (vElem (getV s w.va) (fmtBits a) i)

def execVcvt (w : VecWord) (s : State) : Host.Outcome State Fault Refusal :=
  vecPlain s (.vcvt w) (vecConvert w)

/-! ## Buffers (R181 to R183) -/

/-- The byte address of element `i` (R181, R182). -/
def memAddr (f4 : Bool) (off str : Int) (i : Nat) : Int := if f4 then off + (i / 2 : Nat) else off + (i : Int) * str

/-- The first active element that fails the checks of R181, with its status. -/
def memCheck (k : Mask) (e : Nat) (f4 : Bool) (off str : Int) (b size : Nat) : Option (Nat × Code) :=
  (List.range e).findSome? fun i =>
    if !k.getLsbD i then none
    else
      let a := memAddr f4 off str i
      if a % (b : Int) ≠ 0 then some (i, eAlign)
      else if a < 0 ∨ (size : Int) < a + b then some (i, eBufsize)
      else none

/-- The tracked range of VLD, VST and VOUT (09, R218). -/
def memRng (s : State) (uid : Nat) (h : BitVec 6) (e : Nat) (f4 : Bool) (off str : Int) (b : Nat) (wr : Bool) : Rng :=
  let h2 := if f4 then hull off b ((e + 1) / 2) b else hull off str e b
  rBuf s uid h.toNat h2.1 h2.2 wr

/-- Element `i` read from a buffer (R181, R182). -/
def memElem (s : State) (uid : Nat) (h : BitVec 6) (f4 : Bool) (off str : Int) (b i : Nat) : Nat :=
  let v := leNat (bufRead s uid h.toNat (memAddr f4 off str i).toNat b)
  if f4 then v / 16 ^ (i % 2) % 16 else v

/-- Element `i` written to a buffer; an F4 element leaves the other nibble (R182, R183). -/
def memPutElem (s : State) (uid : Nat) (h : BitVec 6) (f4 : Bool) (off str : Int) (b i v : Nat) : State :=
  let a := (memAddr f4 off str i).toNat
  if f4 then
    let old := leNat (bufRead s uid h.toNat a 1)
    bufStore s uid h.toNat a [BitVec.ofNat 8 (if i % 2 = 0 then old / 16 * 16 + v % 16 else old % 16 + v % 16 * 16)]
  else bufStore s uid h.toNat a (natBytes b v)

/-- Active elements written in ascending order (R183). -/
def memPutElems (s : State) (uid : Nat) (h : BitVec 6) (k : Mask) (e : Nat) (f4 : Bool) (off str : Int) (b : Nat)
    (f : Nat → Nat) : State :=
  (List.range e).foldl (fun s i => if k.getLsbD i then memPutElem s uid h f4 off str b i (f i) else s) s

def execVld (w : VecWord) (m : VecMem) (s : State) : Host.Outcome State Fault Refusal :=
  vecIssue s (.vld w m) (offRegs m.or_ m.off ++ strRegs m.sr m.str) fun s _ i =>
    let bits := fmtBits (vfmt w.t)
    let b := elemBytes w.t.toNat
    let f4 := w.t == 6
    let e := vecE s bits
    let off := offVal s m.or_ m.off
    let str := strVal s m.sr m.str
    let k := getK s w.km
    match memCheck k e f4 off str b (bufBytes s i.uid m.h.toNat) with
    | some (n, c) => .vecFault n c
    | none =>
      if rngsBusy s s.seq.nextUid [memRng s i.uid m.h e f4 off str b false] then .waitFor [memRng s i.uid m.h e f4 off str b false]
      else
        let t := vecMap s w bits e fun n => (memElem s i.uid m.h f4 off str b n, 0)
        .go (bufTakes t i.uid m.h.toNat
          (((List.range e).filter fun n => k.getLsbD n).map fun n => ((memAddr f4 off str n).toNat, b)))

def execVst (w : VecWord) (m : VecMem) (s : State) : Host.Outcome State Fault Refusal :=
  vecIssue s (.vst w m) (offRegs m.or_ m.off ++ strRegs m.sr m.str) fun s _ i =>
    let bits := fmtBits (vfmt w.t)
    let b := elemBytes w.t.toNat
    let f4 := w.t == 6
    let e := vecE s bits
    let off := offVal s m.or_ m.off
    let str := strVal s m.sr m.str
    let k := getK s w.km
    match memCheck k e f4 off str b (bufBytes s i.uid m.h.toNat) with
    | some (n, c) => .vecFault n c
    | none =>
      if rngsBusy s s.seq.nextUid [memRng s i.uid m.h e f4 off str b true] then .waitFor [memRng s i.uid m.h e f4 off str b true]
      else .go (memPutElems s i.uid m.h k e f4 off str b fun n => vElem (getV s w.va) bits n)

/-! ## Tile registers and Firn (R184 to R186) -/

def execVldt (w : VecWord) (x : VecTile) (s : State) : Host.Outcome State Fault Refusal :=
  vecIssue s (.vldt w x) [] fun s _ i =>
    let t := getT s x.tt
    if !t.full then .vecFault 0 eTempty
    else .go (tileTake (setV s w.vd (BitVec.ofNat 16384 (tileRead t (2048 * x.lp.toNat) 2048))) i.uid x.tt
      (2048 * x.lp.toNat) 2048)

def execVstt (w : VecWord) (x : VecTile) (s : State) : Host.Outcome State Fault Refusal :=
  vecIssue s (.vstt w x) [] fun s _ _ =>
    if rngsBusy s s.seq.nextUid [rTile x.tt true] then .waitFor [rTile x.tt true]
    else .go (putTile s x.tt (tileWrite (getT s x.tt) (2048 * x.lp.toNat) 2048 (getV s w.va).toNat) (2048 * x.lp.toNat) 2048)

/-- A row operand (Table 7-3, Table 8-2). -/
def rowVal (s : State) (r : RowOp) : Int := if r.rr then (getS s (r.row.truncate 5)).toInt else r.row.toNat

def rowRegs (r : RowOp) : List (BitVec 5) := if r.rr then [r.row.truncate 5] else []

/-- A row number outside 0 to 2047. -/
def rowBad (v : Int) : Bool := decide (v < 0) || decide (2047 < v)

def execVrdf (w : VecWord) (r : RowOp) (s : State) : Host.Outcome State Fault Refusal :=
  vecIssue s (.vrdf w r) (rowRegs r) fun s _ i =>
    let v := rowVal s r
    if rowBad v then .vecFault 0 eBadval
    else if rngsBusy s s.seq.nextUid [rFirn v.toNat 1 false] then .waitFor [rFirn v.toNat 1 false]
    else
      let row := v.toNat
      let t := vecMap s w 32 (vecE s 32) fun n => (firnWord (firnRow s (n / 128) row) (n % 128), 0)
      .go (checkReads t ((List.range 4).map fun a => (a, row)) i.uid)

/-- Slices 0 to (VL - 1) / 128 of a row written from a vector register, other lanes as +0 (R125, R186). -/
def firnWriteRow (s : State) (w : VecWord) (row : Nat) : State :=
  let k := getK s w.km
  let e := vecE s 32
  (List.range ((e - 1) / 128 + 1)).foldl (fun s a =>
    putFirnRow s a row (rowWritten (w.t == 1) (tabulate 128 fun c =>
      if 128 * a + c < e ∧ k.getLsbD (128 * a + c) then vElem (getV s w.va) 32 (128 * a + c) else 0))) s

def execVwrf (w : VecWord) (r : RowOp) (s : State) : Host.Outcome State Fault Refusal :=
  vecIssue s (.vwrf w r) (rowRegs r) fun s _ _ =>
    let v := rowVal s r
    if rowBad v then .vecFault 0 eBadval
    else if rngsBusy s s.seq.nextUid [rFirn v.toNat 1 true] then .waitFor [rFirn v.toNat 1 true]
    else .go (firnWriteRow s w v.toNat)

/-! ## Vector length (R165) -/

def execSetvl (w : VecWord) (x : SetVlExt) (s : State) : Host.Outcome State Fault Refusal :=
  vecIssue s (.setvl w x) (x.sd :: (if x.vs then [x.ss] else [])) fun s _ _ =>
    let v : Int := if x.vs then (getS s x.ss).toInt else x.imm.toNat
    if v ≤ 0 then .vecFault 0 eBadval
    else
      let n := (min v 512).toNat
      .go (setS { s with vec := { s.vec with vl := BitVec.ofNat 10 n } } x.sd (BitVec.ofNat 64 n))

end Sys2Proof.Machine
end

