-- ==== Sys2Proof/Machine/UpdMath.lean ====
section
/-! DEFINITION. The arithmetic of the update engine (13, R333 to R340, R345): the rules M, A, F and P, the refresh of the
factors, the programmable mode. Values are FP32 codes; every operation rounds once under RNE and raises its flags. -/

namespace Sys2Proof.Machine

open Sys2Proof

/-! ## Operations with flags -/

/-- A value with the flags raised on the way to it. -/
abbrev WithFlags (α : Type) := α × Flags

/-- The next computation on a value, flags joined. -/
def wBind {α β : Type} (x : WithFlags α) (f : α → WithFlags β) : WithFlags β :=
  let y := f x.1
  (y.1, x.2 ||| y.2)

/-- A list of values with their flags as one. -/
def wAll {α : Type} (l : List (WithFlags α)) : WithFlags (List α) := (l.map (·.1), orFlags (l.map (·.2)))

def uAdd (a b : Nat) : WithFlags Nat := fpAdd .fp32 .rne a b
def uSub (a b : Nat) : WithFlags Nat := fpSub .fp32 .rne a b
def uMul (a b : Nat) : WithFlags Nat := fpMul .fp32 .rne a b
/-- DESIGN CHOICE (log 47): a division by zero, and the reciprocal root of a zero below, raise OVERFLOW as in the vector engine
(R50, R69). -/
def uDiv (a b : Nat) : WithFlags Nat := fpDiv .fp32 .rne a b
def uSqrt (a : Nat) : WithFlags Nat := fpSqrt .fp32 .rne a
def uFma (a b c : Nat) : WithFlags Nat := fpFma .fp32 .rne false false a b c
def uRsqrt (a : Nat) : WithFlags Nat := fpTrans .rsqrt a
def uNeg (a : Nat) : Nat := if fpIsNan .fp32 a then a else fpNegate .fp32 a

/-- 1.0 in FP32. -/
def fpOne : Nat := 0x3F800000

/-- A small natural number in FP32. -/
def uOfNat (n : Nat) : Nat := (fpConvert .int32 .fp32 .rne false n).1

/-- A product a * b added over a list of pairs by fma, from +0, in order. -/
def uDot : List (Nat × Nat) → WithFlags Nat → WithFlags Nat
  | [], acc => acc
  | p :: ps, acc => uDot ps (wBind acc fun c => uFma p.1 p.2 c)

/-- A sum over a list from +0, in order. -/
def uSum : List Nat → WithFlags Nat → WithFlags Nat
  | [], acc => acc
  | x :: xs, acc => uSum xs (wBind acc fun c => uAdd c x)

/-! ## Fields of the record (R329) -/

/-- Constant Ki. -/
def updK (recd : BitVec 2048) (i : Nat) : Nat := byteField recd (0x50 + 4 * i) 4

/-- N and C. -/
def updN (recd : BitVec 2048) : Nat := byteField recd 8 4
def updC (recd : BitVec 2048) : Nat := byteField recd 12 4

/-- The formats of parameters and of state. -/
def updPfmt (recd : BitVec 2048) : Fmt := tileFmt (BitVec.ofNat 3 (byteField recd 2 1))
def updSfmt (recd : BitVec 2048) : Fmt := tileFmt (BitVec.ofNat 3 (byteField recd 3 1))

/-- A code of a format widened to FP32 exactly; a conversion of a signalling NaN raises INVALID (R333, R61). -/
def widen (f : Fmt) (c : Nat) : WithFlags Nat := if f = .fp32 then (c, 0) else fpConvert f .fp32 .rne false c

/-- The codes of `n` elements of a format from the bytes at `off`. -/
def updCodes (f : Fmt) (bs : List Byte) (off n : Nat) : List Nat := unpack (fmtBits f) n (leAt bs off (n * fmtBits f / 8))

/-- `n` elements of a format from the bytes at `off`, as FP32, with the flags of their widening (R333). -/
def updElems (f : Fmt) (bs : List Byte) (off n : Nat) : WithFlags (List Nat) := wAll ((updCodes f bs off n).map (widen f))

/-- FP32 values as bytes of a format, with the flags of their conversion (R333). -/
def updBytes (f : Fmt) (cs : List Nat) : WithFlags (List Byte) :=
  let r := wAll (cs.map (tensorConvert .fp32 f true))
  (natBytes (cs.length * fmtBits f / 8) (pack (fmtBits f) r.1), r.2)

/-! ## Rules M and A and the programmable mode, element by element -/

/-- What an element becomes: parameter, first and second state, and the direction u after weight decay. -/
structure UpdElem where
  p  : Nat
  s1 : Nat
  s2 : Nat
  u  : Nat
deriving DecidableEq, Repr, Inhabited

/-- Rule M (R334). -/
def ruleM (recd : BitVec 2048) (g p m : Nat) : WithFlags UpdElem :=
  let nlr := uNeg (updK recd 0)
  let mu := updK recd 1
  wBind (uFma (updK recd 2) p g) fun g =>
  wBind (uFma mu m g) fun m =>
  wBind (if updOpt recd 2 then uFma mu m g else (m, 0)) fun d =>
  wBind (uFma nlr d p) fun p => (⟨p, m, 0, d⟩, 0)

/-- 1 - b1 and 1 - b2, computed once (R335). -/
def ruleABetas (recd : BitVec 2048) : WithFlags (Nat × Nat) :=
  wBind (uSub fpOne (updK recd 1)) fun omb1 => wBind (uSub fpOne (updK recd 2)) fun omb2 => ((omb1, omb2), 0)

/-- Rule A up to u after weight decay; the parameter stands (R335, R337). -/
def ruleADir (recd : BitVec 2048) (betas : Nat × Nat) (g p m v : Nat) : WithFlags UpdElem :=
  let (omb1, omb2) := betas
  wBind (uMul omb1 g) fun a =>
  wBind (uFma (updK recd 1) m a) fun m =>
  wBind (uMul g g) fun b =>
  wBind (uMul omb2 b) fun b =>
  wBind (uFma (updK recd 2) v b) fun v =>
  wBind (uMul m (updK recd 5)) fun n =>
  wBind (uMul v (updK recd 6)) fun d =>
  wBind (uSqrt d) fun d =>
  wBind (uAdd d (updK recd 3)) fun d =>
  wBind (uDiv n d) fun u =>
  wBind (uFma (updK recd 4) p u) fun u => (⟨p, m, v, u⟩, 0)

/-- Rule A's new parameter (R335). -/
def ruleAStep (nlr : Nat) (x : UpdElem) : WithFlags UpdElem := wBind (uFma nlr x.u x.p) fun p => ({ x with p := p }, 0)

/-- phi of R337 from the norm record. -/
def trustPhi (recd : BitVec 2048) (norm : DWord) : WithFlags Nat :=
  let pss := bvGet norm 0 32
  let uss := bvGet norm 32 32
  let bad := fun c => fpIsZero .fp32 c || !fpIsFinite .fp32 c
  if !updOpt recd 3 || bad pss || bad uss then (fpOne, 0)
  else
    wBind (uSqrt pss) fun a => wBind (uSqrt uss) fun b => wBind (uDiv a b) fun q => fpMinMax .fp32 false q (updK recd 7)

/-- The squares of a list in 32 lane accumulators (R337). -/
def lanesAcc (xs : List Nat) : WithFlags (List Nat) :=
  wAll ((xs.zipIdx).foldl (fun (acc : List (WithFlags Nat)) x =>
      acc.modify (x.2 % 32) fun a => wBind a fun c => uFma x.1 x.1 c)
    (List.replicate 32 (0, 0)))

/-- The sum of the 32 lanes in the tree of R177 (R337). -/
def lanesTree (lanes : List Nat) : WithFlags Nat :=
  let r := redTree uAdd 5 (lanes.map fun a => (some a, 0))
  (r.1.getD 0, r.2)

/-- One programmable instruction (R345, Table 13-7). DESIGN CHOICE (log 47): SIGN of a signalling NaN raises no flag. -/
def progStep (w : Nat) (u : List Nat) : WithFlags (List Nat) :=
  let r := fun lo => u.getD (w / 2 ^ lo % 16) 0
  let a := r 8
  let b := r 12
  let c := r 16
  let res : WithFlags Nat :=
    match w % 16 with
    | 0 => uFma a b c
    | 1 => uMul a b
    | 2 => uAdd a b
    | 3 => uRsqrt a
    | 4 =>
      if fpIsNan .fp32 a then (fmtNan .fp32, 0)
      else if fpIsZero .fp32 a then (0, 0)
      else (if fpNegBit .fp32 a then fpNegate .fp32 fpOne else fpOne, 0)
    | 5 => wBind (fpMinMax .fp32 true a b) fun x => fpMinMax .fp32 false x c
    | 6 => (if !fpIsNan .fp32 c && !fpNegBit .fp32 c then a else b, 0)
    | _ =>
      let f := tileFmt (BitVec.ofNat 3 (w / 2 ^ 20 % 8))
      wBind (fpConvert .fp32 f .rne true a) fun x => widen f x
  (u.set (w / 16 % 16) res.1, res.2)

/-- A programmable instruction word is legal (R345). -/
def progOk (w : Nat) : Bool :=
  let op := w % 16
  let d := w / 16 % 16
  let b := w / 2 ^ 12 % 16
  let c := w / 2 ^ 16 % 16
  let fmt := w / 2 ^ 20 % 8
  decide (op < 8) && decide (1 ≤ d) && decide (d ≤ 7) && decide (w < 2 ^ 23)
    && (if op = 7 then decide (2 ≤ fmt) && decide (fmt ≤ 5) else fmt == 0)
    && (op == 0 || op == 1 || op == 2 || op == 5 || op == 6 || b == 0)
    && (op == 0 || op == 5 || op == 6 || c == 0)

/-- The instruction words of the programmable mode. -/
def progWords (recd : BitVec 2048) (n : Nat) : List Nat := unpack 32 n (byteField recd 0x80 128)

/-- The programmable mode on one element (R345). -/
def ruleProg (recd : BitVec 2048) (g p s1 s2 : Nat) : WithFlags UpdElem :=
  let u0 := [g, p, s1, s2, 0, 0, 0, 0] ++ (List.range 8).map (updK recd)
  let r := (progWords recd (byteField recd 0x70 1)).foldl (fun acc w => wBind acc fun u => progStep w u) (u0, (0 : Flags))
  (⟨r.1.getD 1 0, r.1.getD 2 0, r.1.getD 3 0, 0⟩, r.2)

/-! ## Rule F (R336) -/

/-- Row `i` and column `j` of a shard of `c` columns. -/
def rowOf (c : Nat) (g : List Nat) (i : Nat) : List Nat := (g.drop (i * c)).take c
def colOf (c r : Nat) (g : List Nat) (j : Nat) : List Nat := (List.range r).map fun i => g.getD (i * c + j) 0

/-- The statistics r' and c' and rbar of rule F. -/
def ruleFStats (recd : BitVec 2048) (g r c : List Nat) : WithFlags (List Nat × List Nat × Nat) :=
  let cc := updC recd
  let rr := updN recd / cc
  let b2 := updK recd 1
  wBind (wAll (g.map fun x => uFma x x (updK recd 2))) fun q =>
  wBind (uSub fpOne b2) fun omb2 =>
  let next := fun (old : Nat) (xs : List Nat) (by_ : Nat) =>
    wBind (uSum xs (0, 0)) fun t => wBind (uDiv t (uOfNat by_)) fun t => wBind (uMul omb2 t) fun t => uFma b2 old t
  wBind (wAll ((r.zipIdx).map fun x => next x.1 (rowOf cc q x.2) cc)) fun r =>
  wBind (wAll ((c.zipIdx).map fun x => next x.1 (colOf cc rr q x.2) rr)) fun c =>
  wBind (uSum r (0, 0)) fun t =>
  wBind (uDiv t (uOfNat rr)) fun rbar => ((r, c, rbar), 0)

/-- The second pass of rule F on one element. -/
def ruleFElem (recd : BitVec 2048) (ri cj rbar g p : Nat) : WithFlags Nat :=
  wBind (uMul ri cj) fun t =>
  wBind (uDiv t rbar) fun vhat =>
  wBind (uRsqrt vhat) fun t =>
  wBind (uMul g t) fun u =>
  wBind (uFma (updK recd 3) p u) fun u => uFma (uNeg (updK recd 0)) u p

/-- Rule F on a shard: parameters, then r' and c'. -/
def ruleF (recd : BitVec 2048) (g p r c : List Nat) : WithFlags (List Nat × List Nat × List Nat) :=
  let cc := updC recd
  wBind (ruleFStats recd g r c) fun st =>
  let (r, c, rbar) := st
  wBind (wAll ((List.zip g p).zipIdx.map fun x =>
    ruleFElem recd (r.getD (x.2 / cc) 0) (c.getD (x.2 % cc) 0) rbar x.1.1 x.1.2)) fun p => ((p, r, c), 0)

/-! ## Rule P (R338, R339) -/

/-- A square matrix, row-major. -/
abbrev Mat2 := List (List Nat)

def mAt (a : Mat2) (i j : Nat) : Nat := (a.getD i []).getD j 0
def mRow (a : Mat2) (i : Nat) : List Nat := a.getD i []
def mCol (b : Nat) (a : Mat2) (j : Nat) : List Nat := (List.range b).map fun i => mAt a i j

/-- A B x B matrix from a function with flags. -/
def mMake (b : Nat) (f : Nat → Nat → WithFlags Nat) : WithFlags Mat2 :=
  wAll ((List.range b).map fun i => wAll ((List.range b).map fun j => f i j))

/-- The identity. -/
def mIdent (b : Nat) : Mat2 := (List.range b).map fun i => (List.range b).map fun j => if i = j then fpOne else 0

/-- The dot product of two lists, ascending, from +0. -/
def dotOf (x y : List Nat) : WithFlags Nat := uDot (List.zip x y) (0, 0)

/-- `start - sum of x * y`, each term by fma, ascending. -/
def uMinus (start : Nat) (ps : List (Nat × Nat)) : WithFlags Nat := uDot (ps.map fun p => (uNeg p.1, p.2)) (start, 0)

/-- Column `k` of the Cholesky factor from the columns before it; none when the pivot does not exceed `thr`. The factor is
held by columns: entry i of column j is c[i][j]. -/
def cholCol (b : Nat) (a : Mat2) (thr : Nat) (cols : Mat2) (k : Nat) : WithFlags (Option (List Nat)) :=
  let piv := uMinus (mAt a k k) (cols.map fun c => (c.getD k 0, c.getD k 0))
  let big := fpCmp .fp32 .gt piv.1 thr
  if !big.1 then (none, piv.2 ||| big.2)
  else
    wBind (piv.1, piv.2 ||| big.2) fun piv =>
    wBind (uSqrt piv) fun d =>
    wBind (wAll ((List.range b).map fun i =>
      if i < k then (0, 0)
      else if i = k then (d, 0)
      else wBind (uMinus (mAt a i k) (cols.map fun c => (c.getD i 0, c.getD k 0))) fun t => uDiv t d)) fun col =>
    (some col, 0)

/-- The Cholesky factor by columns, or none when singular. -/
def cholesky (b : Nat) (a : Mat2) (thr : Nat) : Nat → Mat2 → WithFlags (Option Mat2)
  | 0, cols => (some cols, 0)
  | n + 1, cols =>
    let r := cholCol b a thr cols cols.length
    match r.1 with
    | none => (none, r.2)
    | some col =>
      let t := cholesky b a thr n (cols ++ [col])
      (t.1, r.2 ||| t.2)

/-- Row `i` of the inverse factor from the rows before it; `c` is the factor by columns. -/
def invRow (b : Nat) (c rows : Mat2) (i : Nat) : WithFlags (List Nat) :=
  let at_ := fun r k => (c.getD k []).getD r 0
  wAll ((List.range b).map fun j =>
    if i < j then (0, 0)
    else if i = j then uDiv fpOne (at_ i i)
    else
      wBind (uDot ((List.range (i - j)).map fun t => (at_ i (j + t), mAt rows (j + t) j)) (0, 0)) fun t =>
        uDiv (uNeg t) (at_ i i))

/-- The inverse of the factor, row by row. -/
def invRows (b : Nat) (c : Mat2) : Nat → Mat2 → WithFlags Mat2
  | 0, rows => (rows, 0)
  | n + 1, rows =>
    let r := invRow b c rows rows.length
    let t := invRows b c n (rows ++ [r.1])
    (t.1, r.2 ||| t.2)

/-- A refresh of a statistic: the inverse Cholesky factor, or none when singular (R339). -/
def refresh (recd : BitVec 2048) (b : Nat) (s : Mat2) : WithFlags (Option Mat2) :=
  let bf := uOfNat b
  let tr := uSum ((List.range b).map fun k => mAt s k k) (0, 0)
  if !fpIsFinite .fp32 tr.1 || !(fpCmp .fp32 .gt tr.1 0).1 then (none, tr.2)
  else
    wBind tr fun tr =>
    wBind (uMul (updK recd 2) tr) fun dd =>
    wBind (uDiv dd bf) fun dd =>
    wBind (uDiv tr bf) fun t =>
    wBind (uMul (updK recd 3) t) fun thr =>
    wBind (mMake b fun i j => if i = j then uAdd (mAt s i i) dd else (mAt s i j, 0)) fun a =>
    wBind (cholesky b a thr b []) fun c =>
    match c with
    | none => (none, 0)
    | some c => wBind (invRows b c b []) fun q => (some q, 0)

/-- The state of a block: L, R, Q_L, Q_R and the four status bits (Table 13-4). -/
structure PBlock where
  l  : Mat2
  r  : Mat2
  ql : Mat2
  qr : Mat2
  st : Nat
deriving DecidableEq, Repr, Inhabited

/-- A side of the refresh: its factor, valid bit, SING bit, and whether it was singular now. -/
def refreshSide (recd : BitVec 2048) (b : Nat) (s q : Mat2) (valid sing : Bool) : WithFlags (Mat2 × Bool × Bool × Nat) :=
  if updOpt recd 5 then
    wBind (refresh recd b s) fun r =>
      match r with
      | some q' => ((q', true, false, 0), 0)
      | none => ((q, valid, true, 1), 0)
  else ((q, valid, sing, 0), 0)

/-- A factor as it is written: one that a refresh has just made under R52 and R54, a kept one unchanged (R333, R339). -/
def factorOut (fresh : Bool) (q : Mat2) : Mat2 :=
  if fresh then q.map fun r => r.map fun c => (tensorConvert .fp32 .fp32 true c).1 else q

/-- One block of rule P: new state, new parameters, singular events (R338). -/
def rulePBlock (recd : BitVec 2048) (b : Nat) (g w : Mat2) (o : PBlock) : WithFlags (PBlock × Mat2 × Nat) :=
  let beta := updK recd 1
  let sb := fun i => o.st / 2 ^ i % 2 == 1
  wBind (uSub fpOne beta) fun omb =>
  let stat := fun (old : Mat2) (side : Nat → List Nat) => mMake b fun i k =>
    wBind (dotOf (side i) (side k)) fun t => wBind (uMul omb t) fun t => uFma beta (mAt old i k) t
  wBind (stat o.l (mRow g)) fun l =>
  wBind (stat o.r (mCol b g)) fun r =>
  wBind (refreshSide recd b l o.ql (sb 0) (sb 2)) fun x =>
  wBind (refreshSide recd b r o.qr (sb 1) (sb 3)) fun y =>
  let (ql, vl, sl, nl) := x
  let (qr, vr, sr, nr) := y
  let fl := if vl then ql else mIdent b
  let fr := if vr then qr else mIdent b
  wBind (mMake b fun i j => dotOf (mRow fl i) (mCol b g j)) fun t =>
  wBind (mMake b fun i j => dotOf (mRow t i) (mRow fr j)) fun u =>
  wBind (mMake b fun i j =>
    wBind (uFma (updK recd 4) (mAt w i j) (mAt u i j)) fun d => uFma (uNeg (updK recd 0)) d (mAt w i j)) fun w =>
  let made := fun (n : Nat) => updOpt recd 5 && n == 0
  ((⟨l, r, factorOut (made nl) ql, factorOut (made nr) qr, bit vl + 2 * bit vr + 4 * bit sl + 8 * bit sr⟩, w, nl + nr), 0)

end Sys2Proof.Machine
end

