-- ==== Sys2Proof/Machine/Update.lean ====
section
/-! DEFINITION. The update engine (13): UPD and the checks of its record, its accesses, the end of a computation, the shadow
commit. It makes its read accesses one at a time (log 14). -/

namespace Sys2Proof.Machine

open Sys2Proof

/-! ## The record and its checks (R329 to R331) -/

/-- The 64-bit address field at byte `off`. -/
def updAddr (recd : BitVec 2048) (off : Nat) : Nat := byteField recd off 8

/-- A finite constant, at least 0, above 0, below 1, at least 1. -/
def kFinite (c : Nat) : Bool := fpIsFinite .fp32 c
def kGe0 (c : Nat) : Bool := kFinite c && (!fpNegBit .fp32 c || fpIsZero .fp32 c)
def kGt0 (c : Nat) : Bool := kFinite c && !fpNegBit .fp32 c && !fpIsZero .fp32 c
def kLt1 (c : Nat) : Bool := fvLt (fpDecode .fp32 c) (fpDecode .fp32 fpOne)
def kUnit (c : Nat) : Bool := kGe0 c && kLt1 c
def kGe1 (c : Nat) : Bool := kFinite c && !fpNegBit .fp32 c && !kLt1 c

/-- The constants lie in the ranges of Table 13-3. -/
def updConsts (recd : BitVec 2048) : Bool :=
  let k := updK recd
  let zero := fun lo => (List.range 8).all fun i => decide (i < lo) || k i == 0
  match byteField recd 0 1 with
  | 0 => kFinite (k 0) && kUnit (k 1) && kGe0 (k 2) && zero 3
  | 1 =>
    kFinite (k 0) && kUnit (k 1) && kUnit (k 2) && kGt0 (k 3) && kGe0 (k 4) && kGe1 (k 5) && kGe1 (k 6)
      && (if updOpt recd 3 then kGt0 (k 7) else k 7 == 0)
  | 2 => kFinite (k 0) && kUnit (k 1) && kGt0 (k 2) && kGe0 (k 3) && zero 4
  | 3 => kFinite (k 0) && kUnit (k 1) && kGe0 (k 2) && kGt0 (k 3) && kLt1 (k 3) && kGe0 (k 4) && zero 5
  | _ => (List.range 8).all fun i => kFinite (k i)

/-- The fields of the programmable mode (R329, R345). -/
def updProgOk (recd : BitVec 2048) : Bool :=
  let n := byteField recd 0x70 1
  if byteField recd 0 1 = 4 then
    decide (1 ≤ n) && decide (n ≤ 32) && (progWords recd 32).zipIdx.all fun w => if w.2 < n then progOk w.1 else w.1 == 0
  else n == 0 && byteField recd 0x80 128 == 0

/-- The shape of a shard under rules F and P (R330). -/
def updShapeOk (recd : BitVec 2048) : Bool :=
  let rule := byteField recd 0 1
  let n := updN recd
  let c := updC recd
  let b := 32 * 2 ^ byteField recd 7 1
  if rule = 2 ∨ rule = 3 then
    decide (1 ≤ c) && decide (n % c = 0) && decide (n / c ≤ 65536) && decide (c ≤ 65536)
      && (rule == 2 || (decide (n / c % b = 0) && decide (c % b = 0)))
  else c == 0

/-- Row 2 of R330: fields and constants within Tables 13-2 and 13-3. -/
def updFieldsOk (recd : BitVec 2048) : Bool :=
  let b := fun off => byteField recd off 1
  let rule := b 0
  let gsrc := b 4
  let norm := b 6
  let n := updN recd
  let step := byteField recd 0x10 8
  decide (rule < 5) && decide (b 1 < 64) && (!updOpt recd 2 || rule == 0) && (!updOpt recd 3 || rule == 1)
    && (!updOpt recd 4 || norm == 2) && (!updOpt recd 5 || rule == 3)
    && (b 2 == 0 || b 2 == 2) && (b 3 == 0 || b 3 == 2) && decide (gsrc < 2) && decide (b 5 < 64) && decide (norm < 3)
    && (norm != 0) == updOpt recd 3 && (if rule = 3 then decide (b 7 < 3) else b 7 == 0)
    && decide (n % 128 = 0) && decide (128 ≤ n) && decide (n ≤ 8388608) && updShapeOk recd
    && decide (1 ≤ step) && decide (step < 2 ^ 48)
    && (updOpt recd 0 || updAddr recd 0x18 == 0) && (norm != 0 || updAddr recd 0x40 == 0)
    && (gsrc == 1 || byteField recd 0x48 4 == 0) && (norm != 0 || byteField recd 0x4C 4 == 0)
    && byteField recd 0x71 15 == 0 && updProgOk recd && updConsts recd
    && (!updOpt recd 1 || updOpt recd 0) && (gsrc == 1 || (rule != 2 && rule != 3))

/-- A programmable instruction that converts to E4M3 or E5M2 (R345). -/
def cvtOfp8 (w : Nat) : Bool := w % 16 == 7 && (w / 2 ^ 20 % 8 == 4 || w / 2 ^ 20 % 8 == 5)

/-- Row 1 of R330: the features that a record needs; a conversion needs its format's feature (03, R43). -/
def updNeeds (recd : BitVec 2048) : Needs :=
  (match byteField recd 0 1 with
   | 0 => [(1, 8)]
   | 1 => [(1, 9)]
   | 2 => [(1, 10)]
   | 3 => [(1, 11)]
   | 4 => [(1, 14)]
   | _ => [])
    ++ (if updOpt recd 0 then [(1, 12)] else []) ++ (if byteField recd 6 1 = 2 then [(1, 13)] else [])
    ++ (if byteField recd 0 1 = 4 && (progWords recd (byteField recd 0x70 1)).any cvtOfp8 then [(0, 8)] else [])

/-- Row 3 of R330. -/
def updAlignOk (recd : BitVec 2048) : Bool :=
  updAddr recd 0x18 % 8 == 0 && [0x20, 0x28, 0x30, 0x38].all (fun o => updAddr recd o % 64 == 0)
    && updAddr recd 0x40 % 8 == 0 && byteField recd 0x48 4 % 64 == 0 && byteField recd 0x4C 4 % 8 == 0

/-- Row 4 of R330. -/
def updBufOk (s : State) (uid : Nat) (recd : BitVec 2048) : Bool :=
  let h := byteField recd 5 1
  let size := bufBytes s uid h
  (findBuf s uid h).isSome
    && (byteField recd 4 1 == 0 || decide (byteField recd 0x48 4 + 4 * updN recd ≤ size))
    && (byteField recd 6 1 == 0 || decide (byteField recd 0x4C 4 + 8 ≤ size))

/-- A region lies in one set record of a kind (R331). -/
def inKind (sets : List SetRec) (kind lo n : Nat) : Bool :=
  sets.any fun r => r.kind == kind && decide (r.base ≤ lo) && decide (lo + n ≤ r.base + r.bytes)

/-- Row 5 of R330: R331. -/
def updSetsOk (sets : List SetRec) (recd : BitVec 2048) : Bool :=
  let p := updParamBytes recd
  let q := updStateBytes recd
  let a := updAddr recd
  (if updOpt recd 0 then
      inKind sets 2 (a 0x20) p && inKind sets 2 (a 0x28) p && inKind sets 2 (a 0x30) q && inKind sets 2 (a 0x38) q
        && inKind sets 2 (a 0x18) 8
   else inKind sets 0 (a 0x20) p && inKind sets 1 (a 0x28) p && inKind sets 0 (a 0x30) q && inKind sets 1 (a 0x38) q)
    && (byteField recd 6 1 == 0 || inKind sets 0 (a 0x40) 8)

/-- The checks of a record, in the order of R330. -/
def updFault (s : State) (r : Run) (i : Inst) (recd : BitVec 2048) : Option Code :=
  if !(updNeeds recd).all (ctxGranted (runCtx s i)) then some eFeature
  else if !updFieldsOk recd then some eBadval
  else if !updAlignOk recd then some eAlign
  else if !updBufOk s i.uid recd then some eBufsize
  else if !updSetsOk (((sceneOf s i).map (·.sets)).getD []) recd then some eOutset
  else if updOpt recd 0 ∧ 16 ≤ r.nProt then some eUpdlimit
  else none

/-! ## Read accesses (R337, R341) -/

/-- The source copies: parameters and state. -/
def updSrc (u : Upd) : Nat × Nat :=
  if u.src1 then (updAddr u.recd 0x28, updAddr u.recd 0x38) else (updAddr u.recd 0x20, updAddr u.recd 0x30)

/-- The destination copies: the other one of a protected update, P1 and S1 of another (R341, R344). -/
def updDst (u : Upd) : Nat × Nat :=
  if updOpt u.recd 0 && u.src1 then (updAddr u.recd 0x20, updAddr u.recd 0x30)
  else (updAddr u.recd 0x28, updAddr u.recd 0x38)

/-- Bytes from `va` up to the end of its 256-byte block, at most `left`. -/
def updChunk (va left : Nat) : Nat := min left (256 - va % 256)

/-- The next read access: which part, its address, its bytes. -/
def updNext (u : Upd) : Option (Nat × Nat × Nat) :=
  match u.phase with
  | .version => some (0, updAddr u.recd 0x18, 8)
  | .norm => some (1, updAddr u.recd 0x40, 8)
  | .reads =>
    let p := updParamBytes u.recd
    let q := updStateBytes u.recd
    if u.pdata.length < p then
      let va := (updSrc u).1 + u.pdata.length
      some (2, va, updChunk va (p - u.pdata.length))
    else
      let va := (updSrc u).2 + u.sdata.length
      some (3, va, updChunk va (q - u.sdata.length))
  | _ => none

/-- An update's access by its part: version words are read with READ8 in class SYNC, the rest with READ (R341; 17
Table 17-4). -/
def updReadReq (s : State) (u : Upd) (part va n pa tag : Nat) : Req :=
  if part = 0 then readReqOf s tag 1 pa 0 1 (some u.uid) (.upd 0 va)
  else readReqOf s tag 0 (pa / 64 * 64) (lineCount pa n - 1) 0 (some u.uid) (.upd part va)

/-- The update in progress changed. -/
def setUpd (s : State) (f : Upd → Upd) : State := { s with upd := { s.upd with cur := s.upd.cur.map f } }

/-- The update's next read access is translated and issued (R347). -/
def updSend (s : State) : State :=
  match s.upd.cur with
  | none => s
  | some u =>
    if u.issued || u.walking || u.susp.isSome then s
    else
      match updNext u with
      | none => s
      | some (part, va, n) =>
        match xlLookup s va false with
        | .fault lv rs =>
          let (s, f) := noteFault s u.uid slotUpd va false lv rs
          setUpd s fun u => { u with susp := some f }
        | .walk =>
          match startWalk s va false .upd (some u.uid) with
          | some s => setUpd s fun u => { u with walking := true }
          | none => s
        | .hit pa =>
          match issueReq s tagsStream.1 tagsStream.2 (updReadReq s u part va n pa) with
          | some s => setUpd s fun u => { u with issued := true }
          | none => s

/-! ## Write accesses (R341, R342) -/

/-- A write of the engine changed by its key. -/
def setUpdWrite (s : State) (key : Nat) (f : UpdWrite → UpdWrite) : State :=
  { s with upd := { s.upd with writes := mapIf (fun w => w.key == key) f s.upd.writes } }

def dropUpdWrite (s : State) (key : Nat) : State :=
  { s with upd := { s.upd with writes := s.upd.writes.filter fun w => w.key != key } }

/-- The request of a write: WRITE for whole units, WRITEM otherwise, class SYNC for a commit (17 Table 17-4). -/
def updWriteReq (s : State) (w : UpdWrite) (pa tag : Nat) : Req :=
  writeReqOf s tag (if pa % 64 = 0 ∧ w.bytes.length % 64 = 0 then 2 else 3) pa w.bytes (if w.commit then 1 else 0)
    (some w.uid) (.updWrite w.key)

/-- The commit of a protected update is issued (R342). -/
def markCommit (s : State) (w : UpdWrite) : State :=
  if w.commit then
    let mine := fun c : Commit => c.uid == w.uid && c.seq == w.seq
    { s with upd := { s.upd with commits := mapIf mine (fun c => { c with issued := true }) s.upd.commits } }
  else s

/-- A write that stands before `w` in its update has not been issued: nothing follows a request that walks or is suspended
(R347; 10, R268). -/
def writeBlocked (s : State) (w : UpdWrite) : Bool :=
  (s.upd.writes.takeWhile fun x => x.key != w.key).any fun x => x.uid == w.uid && x.seq == w.seq && !x.issued

/-- A write of the engine is translated and issued (R347). -/
def updWriteSend (s : State) (key : Nat) : State :=
  match s.upd.writes.find? fun w => w.key == key with
  | none => s
  | some w =>
    if w.issued || w.walking || w.susp.isSome || writeBlocked s w then s
    else
      match xlLookup s w.va true with
      | .fault lv rs =>
        let (s, f) := noteFault s w.uid slotUpd w.va true lv rs
        setUpdWrite s key fun w => { w with susp := some f }
      | .walk =>
        match startWalk s w.va true (.updWrite key) (some w.uid) with
        | some s => setUpdWrite s key fun w => { w with walking := true }
        | none => s
      | .hit pa =>
        match issueReq s tagsStream.1 tagsStream.2 (updWriteReq s w pa) with
        | some s => markCommit (setUpdWrite s key fun w => { w with issued := true }) w
        | none => s

/-- Everything of the engine that waits for nothing is sent. -/
def kickUpd (s : State) : State := (s.upd.writes.map (·.key)).foldl updWriteSend (updSend s)

/-! ## UPD (R328, R330) -/

/-- The gradient's range in GH is read by a computation (R332). -/
def takeGrad (s : State) (u : Upd) : State :=
  if byteField u.recd 4 1 = 1 then bufTake s u.uid u.bufH (byteField u.recd 0x48 4) (4 * updN u.recd) else s

/-- UPD at issue: it waits for an earlier computation, then reads its record and checks it (R328, R330); a protected update waits
for one of the 16 entries of the uncommitted-update record (16, R408; DEDUCED, log 14). -/
def updBody (w : UpdWord) (s : State) (r : Run) (i : Inst) : Verdict :=
  let off := offVal s w.or_ w.off
  if s.upd.cur.isSome then .wait
  else if off % 64 ≠ 0 then .fault eAlign
  else if off < 0 ∨ (bufBytes s i.uid w.h.toNat : Int) < off + 256 then .fault eBufsize
  else if rngsBusy s s.seq.nextUid [rBuf s i.uid w.h.toNat off (off + 256) false] then
    .waitFor [rBuf s i.uid w.h.toNat off (off + 256) false]
  else
    let recd := BitVec.ofNat 2048 (leNat (bufRead s i.uid w.h.toNat off.toNat 256))
    match updFault s r i recd with
    | some e => .fault e
    | none =>
      let prot := updOpt recd 0
      let u : Upd :=
        { uid := i.uid, seq := s.seq.nextUid, sd := w.sd, bufH := byteField recd 5 1, recd := recd, k := r.nProt
          phase := if prot then .version else if byteField recd 6 1 ≠ 0 then .norm else .reads
          redo := false, src1 := false, vword := 0, norm := 0, pdata := [], sdata := [], grad := [], skip := false
          issued := false, walking := false, susp := none }
      if updCommits recd && decide (16 ≤ s.upd.record.length) then .wait
      else if rngsBusy s s.seq.nextUid (updRngs s u) then .waitFor (updRngs s u)
      else
        let ver := BitVec.ofNat 64 (updAddr recd 0x18)
        let step := BitVec.ofNat 64 (byteField recd 0x10 8)
        let (_, s) := fresh s
        let s := bufTake s i.uid w.h.toNat off.toNat 256
        let s := if prot then
            let s := setInst s i.uid fun i => { i with upds := i.upds ++ [⟨ver, step, false, false, updOpt recd 4⟩] }
            let s := { s with seq := { s.seq with run := s.seq.run.map fun r => { r with nProt := r.nProt + 1 } } }
            if updCommits recd then
              if runAlive s i.uid then { s with upd := { s.upd with record := s.upd.record ++ [(i.uid, r.nProt, ver, step)] } }
              else s
            else s
          else s
        .go (if runAlive s i.uid then kickUpd { s with upd := { s.upd with cur := some u } } else s)

def execUpd (w : UpdWord) (s : State) : Host.Outcome State Fault Refusal :=
  .next (issue s .d 1 (.upd w) (offRegs w.or_ w.off ++ [w.sd]) (updBody w))

/-! ## Answers (R341, R347) -/

/-- The update in progress ends with a status: its commit is cancelled (R343, R347); UPD_LAST records the end of a protected
update also where it would have committed nothing (R349). -/
def endUpd (s : State) (u : Upd) (code : Code) : State :=
  let s := { s with upd := { s.upd with cur := none } }
  let s := errLast s slotUpd code
  if updCommits u.recd then cancelOne s u.uid u.k 3 code
  else if updOpt u.recd 0 then updLast s 3 code
  else s

/-- The phase after the version word and the norm record. -/
def updPhaseAfter (u : Upd) : UpdPhase :=
  match u.phase with
  | .version => if byteField u.recd 6 1 ≠ 0 then .norm else .reads
  | _ => .reads

/-- After a read of parameters or state: more reads, or the gradient. -/
def updAdvance (u : Upd) : Upd :=
  if u.pdata.length < updParamBytes u.recd ∨ u.sdata.length < updStateBytes u.recd then u
  else { u with phase := if byteField u.recd 4 1 = 0 then .gradient else .ready }

/-- The version word as read: stale, or the copies chosen (Table 13-6). -/
def versionTake (s : State) (u : Upd) (v : DWord) : State :=
  let step := bvGet v 0 48
  let t := byteField u.recd 0x10 8
  let sel := v.getLsbD 48
  let flip := v.getLsbD 49
  if t < step ∨ bvGet v 50 14 ≠ 0 then abandonRun (endUpd s u eUpdver) u.uid eUpdver true
  else
    let redo := decide (step = t)
    setUpd s fun u =>
      { u with issued := false, vword := v, redo := redo, src1 := if redo then sel != flip else sel, phase := updPhaseAfter u }

/-- The answer to a read access of the update in progress. -/
def updAnswer (s : State) (u : Upd) (part va : Nat) (r : Req) (ans : Answer) (data : BitVec 2048) : State :=
  match ans with
  | .ok =>
    let pa := if part = 0 then r.addr.toNat else r.addr.toNat + va % 64
    let word := BitVec.ofNat 64 (laneGet data pa 8)
    match part with
    | 0 => kickUpd (versionTake s u word)
    | 1 => kickUpd (setUpd s fun u => { u with issued := false, norm := word, phase := updPhaseAfter u })
    | 2 =>
      let n := updChunk va (updParamBytes u.recd - u.pdata.length)
      kickUpd (setUpd s fun u =>
        updAdvance { u with issued := false, pdata := u.pdata ++ natBytes n (laneGet data pa n) })
    | _ =>
      let n := updChunk va (updStateBytes u.recd - u.sdata.length)
      kickUpd (setUpd s fun u =>
        updAdvance { u with issued := false, sdata := u.sdata ++ natBytes n (laneGet data pa n) })
  | _ => endAccess (endUpd s u (answerCode ans)) u.uid slotUpd ans va

/-- A commit that its home has acknowledged (R342, R346, R408). -/
def commitDone (s : State) (w : UpdWrite) : State :=
  let mark := fun l : List UpdOutcome => l.modify w.k fun u => { u with committed := true }
  let s := updLast (setInst s w.uid fun i => { i with upds := mark i.upds }) 0 stOk
  { s with upd := { s.upd with
      nCommit := s.upd.nCommit + 1
      commits := s.upd.commits.filter fun c => !(c.uid == w.uid && c.seq == w.seq)
      record := s.upd.record.filter fun r => !(r.1 == w.uid && r.2.1 == w.k) } }

/-- A commit that its home did not perform, of a run that has already ended, is noted for the event log (R343). -/
def commitLost (s : State) (w : UpdWrite) : State :=
  match findInst s w.uid with
  | some i =>
    match i.ending, i.upds[w.k]? with
    | some e, some u =>
      if w.commit then { s with chk := { s.chk with logTodo := s.chk.logTodo ++ [updLogWord s w.uid u e.status] } } else s
    | _, _ => s
  | none => s

/-- A write of the engine ends with a status: the commit of its update is cancelled (R343, R347). -/
def writeFailed (s : State) (w : UpdWrite) (code : Code) : State :=
  let s := commitLost (errLast (dropUpdWrite s w.key) slotUpd code) w
  if s.upd.commits.any fun c => c.uid == w.uid && c.seq == w.seq then
    let s := cancelOne s w.uid w.k 3 code
    { s with upd := { s.upd with commits := s.upd.commits.filter fun c => !(c.uid == w.uid && c.seq == w.seq) } }
  else s

/-- The answer to a write of the engine. -/
def updWriteAnswer (s : State) (w : UpdWrite) (ans : Answer) : State :=
  match ans with
  | .ok =>
    let s := dropUpdWrite s w.key
    if w.commit then commitDone s w else s
  | _ => endAccess (writeFailed s w (answerCode ans)) w.uid slotUpd ans w.va

/-! ## The end of a computation (R332 to R340, R346) -/

/-- What a computation gives: parameter bytes to write, state bytes with their offsets in the destination's state region, the
partial sums, singular events. -/
structure UpdResult where
  p    : List Byte
  q    : List (Nat × List Byte)
  sums : Option (Nat × Nat)
  sing : Nat
deriving DecidableEq, Repr, Inhabited

/-- The gradient: from the ring, or from the buffer (R332). -/
def updGrad (s : State) (u : Upd) : List Nat :=
  if byteField u.recd 4 1 = 0 then u.grad.map (·.toNat)
  else unpack 32 (updN u.recd) (leNat (bufRead s u.uid u.bufH (byteField u.recd 0x48 4) (4 * updN u.recd)))

/-- What rule A computes once: 1 - b1 and 1 - b2, and -lr * phi unless only the direction is wanted (R335, R337). -/
def elemOnce (u : Upd) : WithFlags ((Nat × Nat) × Nat) :=
  if byteField u.recd 0 1 = 1 then
    wBind (if updOpt u.recd 4 then (0, 0)
      else wBind (trustPhi u.recd u.norm) fun phi => uMul (uNeg (updK u.recd 0)) phi) fun nlr =>
    wBind (ruleABetas u.recd) fun b => ((b, nlr), 0)
  else (((0, 0), 0), 0)

/-- One element by the rule of the record: gradient, parameter and states as codes of their formats (R333 to R335, R337,
R345). -/
def elemOne (u : Upd) (once : (Nat × Nat) × Nat) (g p s1 s2 : Nat) : WithFlags UpdElem :=
  let recd := u.recd
  wBind (widen (updPfmt recd) p) fun p =>
  wBind (widen (updSfmt recd) s1) fun s1 =>
  wBind (widen (updSfmt recd) s2) fun s2 =>
  match byteField recd 0 1 with
  | 0 => ruleM recd g p s1
  | 1 =>
    wBind (ruleADir recd once.1 g p s1 s2) fun x => if updOpt recd 4 then (x, 0) else ruleAStep once.2 x
  | _ => ruleProg recd g p s1 s2

/-- The partial sums of a shard: the lanes over its elements, and their tree unless a skip has cut the shard short (R337,
R340). -/
def elemSums (recd : BitVec 2048) (cut : Bool) (ps us : List Nat) : WithFlags (Option (Nat × Nat)) :=
  if byteField recd 6 1 = 0 then (none, 0)
  else
    wBind (lanesAcc ps) fun a => wBind (lanesAcc us) fun b =>
    if cut then (none, 0) else wBind (lanesTree a) fun a => wBind (lanesTree b) fun b => (some (a, b), 0)

/-- Rules M and A and the programmable mode over the elements of a gradient, `cut` short by a skip or whole (R334, R335, R337,
R340, R345). -/
def elemRule (u : Upd) (cut : Bool) (g : List Nat) : WithFlags UpdResult :=
  let recd := u.recd
  let n := updN recd
  let rule := byteField recd 0 1
  let sf := updSfmt recd
  let half := n * fmtBits sf / 8
  let ps := updCodes (updPfmt recd) u.pdata 0 n
  let s1 := updCodes sf u.sdata 0 n
  let s2 := if rule = 0 then List.replicate n 0 else updCodes sf u.sdata half n
  wBind (elemOnce u) fun once =>
  wBind (wAll ((List.zip (List.zip g ps) (List.zip s1 s2)).map fun x => elemOne u once x.1.1 x.1.2 x.2.1 x.2.2)) fun es =>
  wBind (elemSums recd cut ((ps.take g.length).map fun c => (widen (updPfmt recd) c).1) (es.map (·.u))) fun sums =>
  if updOpt recd 4 then (⟨[], [], sums, 0⟩, 0)
  else
    wBind (updBytes (updPfmt recd) (es.map (·.p))) fun pb =>
    wBind (updBytes sf (es.map (·.s1))) fun b1 =>
    wBind (if rule = 0 then ([], 0) else updBytes sf (es.map (·.s2))) fun b2 =>
      (⟨pb, [(0, b1), (half, b2)], sums, 0⟩, 0)

/-- Rule F over a shard (R336). -/
def shardF (u : Upd) (g : List Nat) : WithFlags UpdResult :=
  let recd := u.recd
  let c := updC recd
  let r := updN recd / c
  wBind (updElems (updPfmt recd) u.pdata 0 (updN recd)) fun ps =>
  wBind (ruleF recd g ps (updCodes .fp32 u.sdata 0 r) (updCodes .fp32 u.sdata (4 * r) c)) fun x =>
  wBind (updBytes (updPfmt recd) x.1) fun pb =>
  wBind (updBytes .fp32 (x.2.1 ++ x.2.2)) fun q => (⟨pb, [(0, q)], none, 0⟩, 0)

/-- A B x B block of a matrix of `c` columns held row-major, at block row `bi` and block column `bj`. -/
def blockOf (b c : Nat) (x : List Nat) (bi bj : Nat) : Mat2 :=
  tabulate b fun i => (x.drop ((bi * b + i) * c + bj * b)).take b

/-- The state of block `k` from the bytes of its region (Table 13-4). -/
def pBlockAt (b : Nat) (bs : List Byte) (k : Nat) : PBlock :=
  let base := k * (16 * b * b + 64)
  let m := fun i => tabulate b fun r => updCodes .fp32 bs (base + 4 * b * b * i + 4 * b * r) b
  ⟨m 0, m 1, m 2, m 3, leAt bs (base + 16 * b * b) 1⟩

/-- The bytes of a block's state; the factors stand as they are to be written (R339). -/
def pBlockBytes (b : Nat) (o : PBlock) : WithFlags (List Byte) :=
  wBind (updBytes .fp32 (o.l.flatten ++ o.r.flatten)) fun bs =>
    (bs ++ natBytes (8 * b * b) (pack 32 (o.ql.flatten ++ o.qr.flatten)) ++ natBytes 64 o.st, 0)

/-- Rule P over a shard (R338). -/
def shardP (u : Upd) (g : List Nat) : WithFlags UpdResult :=
  let recd := u.recd
  let c := updC recd
  let b := 32 * 2 ^ byteField recd 7 1
  let nbc := c / b
  wBind (updElems (updPfmt recd) u.pdata 0 (updN recd)) fun ps =>
  wBind (wAll (tabulate (updN recd / (b * b)) fun k =>
    rulePBlock recd b (blockOf b c g (k / nbc) (k % nbc)) (blockOf b c ps (k / nbc) (k % nbc)) (pBlockAt b u.sdata k)))
    fun bl =>
  let w := tabulate (updN recd) fun e =>
    let i := e / c
    let j := e % c
    mAt (((bl.map (·.2.1)).getD (i / b * nbc + j / b) [])) (i % b) (j % b)
  wBind (updBytes (updPfmt recd) w) fun pb =>
  wBind (wAll (bl.map fun x => pBlockBytes b x.1)) fun q => (⟨pb, [(0, q.flatten)], none, (bl.map (·.2.2)).sum⟩, 0)

/-- The computation of an update over the elements of a gradient (R333). -/
def updCompute (u : Upd) (cut : Bool) (g : List Nat) : WithFlags UpdResult :=
  match byteField u.recd 0 1 with
  | 2 => shardF u g
  | 3 => shardP u g
  | _ => elemRule u cut g

/-- Bytes for consecutive addresses cut at 256-byte blocks. -/
def updPieces (va : Nat) : Nat → List Byte → List (Nat × List Byte)
  | 0, _ => []
  | _, [] => []
  | fuel + 1, bs => (va, bs.take (256 - va % 256)) :: updPieces (va + (256 - va % 256)) fuel (bs.drop (256 - va % 256))

/-- Writes of the engine for a region (R341, R344). -/
def addWrites (s : State) (u : Upd) (va : Nat) (bs : List Byte) : State :=
  (updPieces va bs.length bs).foldl (fun s p =>
    { s with upd := { s.upd with
        nextKey := s.upd.nextKey + 1
        writes := s.upd.writes ++
          [⟨s.upd.nextKey, u.uid, u.seq, u.k, updOpt u.recd 0, p.1, p.2, false, false, false, none⟩] } }) s

/-- The result word (Table 13-8). -/
def updWord (nf sing : Nat) (skip redo : Bool) : DWord :=
  BitVec.ofNat 64 (min nf (2 ^ 32 - 1) + min sing 65535 * 2 ^ 32 + bit skip * 2 ^ 48 + bit redo * 2 ^ 49)

/-- The results of a computation are written: partial sums into GH, parameters and state to the destination copies; for
the elements before a skip both halves of the state start at their own offsets. -/
def updApply (s : State) (u : Upd) (r : UpdResult) : State :=
  let s := match r.sums with
    | some (a, b) => bufStore s u.uid u.bufH (byteField u.recd 0x4C 4) (natBytes 4 a ++ natBytes 4 b)
    | none => s
  r.q.foldl (fun s x => addWrites s u ((updDst u).2 + x.1) x.2) (addWrites s u (updDst u).1 r.p)

/-- The commit of the update waits, is cancelled by a skip, or there is none (R337, R340, R342). -/
def updClose (s : State) (u : Upd) (skip : Bool) : State :=
  if !updCommits u.recd then s
  else if skip then
    let mark := fun l : List UpdOutcome => l.modify u.k fun o => { o with skipped := true }
    cancelOne (setInst s u.uid fun i => { i with upds := mark i.upds }) u.uid u.k 1 stOk
  else
    let t := BitVec.ofNat 64 (byteField u.recd 0x10 8)
    let word := if u.redo then u.vword else t ||| BitVec.ofNat 64 (bit (!u.src1) * 2 ^ 48 + 2 ^ 49)
    { s with upd := { s.upd with
        commits := s.upd.commits ++ [⟨u.uid, u.seq, u.k, BitVec.ofNat 64 (updAddr u.recd 0x18), t, word, false⟩] } }

/-- The computation over a gradient, and what a skip leaves of it: of a gradient from a buffer nothing, of one from the ring the
elements before the first that is not finite (R340). -/
def updResult (u : Upd) (skip : Bool) (g : List Nat) : WithFlags UpdResult :=
  if !skip then updCompute u false g
  else if byteField u.recd 4 1 = 1 then (⟨[], [], none, 0⟩, 0)
  else updCompute u true (g.takeWhile (fpIsFinite .fp32))

/-- The elements of a gradient that a computation updates. -/
def updDone (u : Upd) (skip : Bool) (g : List Nat) : Nat :=
  if !skip then g.length else if byteField u.recd 4 1 = 1 then 0 else (g.takeWhile (fpIsFinite .fp32)).length

/-- The computation of an update whose reads are complete and whose gradient is there. -/
def updFinish (s : State) (u : Upd) : State :=
  let g := updGrad s u
  let nf := (g.filter fun c => !fpIsFinite .fp32 c).length
  let skip := updOpt u.recd 1 && decide (0 < nf)
  let (r, fl) := updResult u skip g
  let s := { s with upd := { s.upd with cur := none, nSing := s.upd.nSing + BitVec.ofNat 32 r.sing } }
  let s := perfAdd (raiseUpd s fl) 0x0601 (updDone u skip g)
  let s := setResult s u.uid (some u.sd) (updWord nf r.sing skip u.redo)
  kickUpd (updClose (updApply s u r) u skip)

/-- UPD_COMPLETE: the computation ends, the result word is written, UPD completes (R346). -/
def execUpdComplete (s : State) : Host.Outcome State Fault Refusal :=
  match s.upd.cur with
  | none => .next s
  | some u =>
    if u.phase = .ready ∨ (u.phase = .gradient ∧ u.grad ≠ []) then
      let s := takeGrad s u
      if s.upd.cur.isSome then .next (updFinish s u) else .next s
    else .next s

/-! ## UPD_COMMIT (R342) -/

/-- The oldest commit that may be issued: its scene has executed SCENE_END, its shadow writes are acknowledged. -/
def commitReady (s : State) : Option Commit :=
  s.upd.commits.find? fun c =>
    (match findInst s c.uid with
     | some i => i.st == .draining && i.ending.isNone
     | none => false)
      && !c.issued && !(s.upd.writes.any fun w => w.uid == c.uid && (w.seq == c.seq || w.commit && !w.issued))
      && !(s.upd.cur.any fun u => u.uid == c.uid && decide (u.seq < c.seq))

def execUpdCommit (s : State) : Host.Outcome State Fault Refusal :=
  match commitReady s with
  | none => .next s
  | some c =>
    let earlier := s.upd.commits.any fun d => d.uid == c.uid && decide (d.seq < c.seq) && !d.issued
    if earlier then .next s
    else
      let key := s.upd.nextKey
      .next (updWriteSend { s with upd := { s.upd with
        nextKey := key + 1
        writes := s.upd.writes ++
          [⟨key, c.uid, c.seq, c.k, true, c.ver.toNat, natBytes 8 c.word.toNat, true, false, false, none⟩] } } key)

end Sys2Proof.Machine
end

