-- ==== Sys2Proof/Machine/Fabric.lean ====
section
/-! DEFINITION. Instruction fills (15 R369, R370; 12 Table 12-8). -/

namespace Sys2Proof.Machine

open Sys2Proof

/-! ## Instruction fills (15, R369, R370) -/

/-- The virtual address of a 64-byte line of the module that holds code of the scene. -/
def fillVa (s : State) (i : Inst) (line : Nat) : Option Nat :=
  match s.seq.modl, sceneOf s i with
  | some m, some sc =>
    if sc.codeOffset / 64 ≤ line ∧ 64 * line < sc.codeOffset + sc.codeBytes then some (m.va + 64 * line) else none
  | _, _ => none

/-- The line holds a word of the instruction, of up to five words, that the sequencer fetches next. -/
def fillWanted (s : State) (i : Inst) (pc line : Nat) : Bool :=
  match sceneOf s i with
  | some sc => decide ((sc.codeOffset + pc) / 64 ≤ line ∧ line ≤ (sc.codeOffset + pc + 79) / 64)
  | none => false

/-- The read of a fill (R369: owner's tenant ID, class DATA). -/
def fillReq (s : State) (uid va pa tag : Nat) : Req :=
  readReqOf s tag 0 pa 0 0 (some uid) (.fill va)

/-- A precise fault of the fetch of a run, while that run fetches; it waits for the run's earlier instructions (R370, 09
R221). -/
def fillFault (s : State) (uid : Nat) (c : Code) : State :=
  match s.seq.run with
  | some r => if r.uid = uid && r.fetching then faultAt s r r.pc c else s
  | none => s

/-- A fill whose translation faults: counted, and no notice is posted (R370; 19 R454). -/
def fillXlate (s : State) (uid : Nat) : State := fillFault (perfAdd s 0x0403 1) uid eXlate

/-- A fill at a virtual line address: translated, walked for or read (R370). -/
def fillSend (s : State) (uid va : Nat) : State :=
  match xlLookup s va false with
  | .fault _ _ => fillXlate s uid
  | .walk => (startWalk s va false (.fill va) (some uid)).getD s
  | .hit pa => (issueReq s tagsFirmware.1 tagsFirmware.2 (fillReq s uid va pa)).getD s

/-- A fill of this line is in progress. -/
def filling (s : State) (va : Nat) : Bool :=
  (s.strm.walks.any fun w => w.for_ == .fill va) || s.strm.reqs.any fun r => r.owner == .fill va

/-- INSTRUCTION_FILL: a line of the module that the sequencer needs next (R370). -/
def execInstructionFill (line : BitVec 32) (s : State) : Host.Outcome State Fault Refusal :=
  match s.seq.run with
  | none => .next s
  | some r =>
    match findInst s r.uid with
    | none => .next s
    | some i =>
      match fillVa s i line.toNat with
      | none => .next s
      | some va =>
        if !r.fetching || !fillWanted s i r.pc line.toNat || (s.seq.icache.any fun l => l.1 == va) || filling s va then .next s
        else .next (fillSend s r.uid va)

/-- A line enters the instruction cache of 64 KiB; no error lies in it (01; 14 R351; log 20). -/
def fillDone (s : State) (va : Nat) (line : Granule) : State :=
  dropMarks { s with seq := { s.seq with icache := ((va, line) :: s.seq.icache.filter fun l => l.1 != va).take 1024 } }
    (· == .icache va)

/-- The sequencer reads a line of code with a parity error: it is invalidated, to be fetched again, and counted (14 Table 14-1,
Source 6). -/
def icacheTake (s : State) : State :=
  match s.seq.run with
  | none => s
  | some r =>
    match findInst s r.uid with
    | none => s
    | some i =>
      let here := fun (p : Place) =>
        match p, s.seq.modl with
        | .icache va, some m => decide (m.va ≤ va) && fillWanted s i r.pc ((va - m.va) / 64)
        | _, _ => false
      (s.chk.marks.filter fun m => here m.place).foldl (fun s m =>
        dropMarks { countCorr s m.place with
          seq := { s.seq with icache := s.seq.icache.filter fun l => Place.icache l.1 != m.place } } (· == m.place)) s

/-- A fill that is refused or uncorrectable (R370, Table 12-8). -/
def fillEnd (s : State) (uid va : Nat) (a : Answer) : State :=
  if a = .uncorr then checkEvent s eUncorr 10 0 0 va (some uid) 0 else fillFault s uid (answerCode a)

end Sys2Proof.Machine
end

