-- ==== Sys2Proof/Machine/Loader.lean ====
section
/-! DEFINITION. The loader (02 R25 to R27; 04 R91, R92; 08 R205, R206; 09 R216, R225 to R228, R239, R241): the layout of a
module, the load checks of 09 Table 9-10 in order, and the module that LOAD keeps. -/

namespace Sys2Proof.Machine

open Sys2Proof

/-! ## Module layout (R26, R225 to R227) -/

/-- The `n` bytes of a module from offset `off` are all 0. -/
def zeroBytes (b : List Byte) (off n : Nat) : Bool := ((b.drop off).take n).all (· == 0)

/-- A buffer record (Table 9-3): handle, first frame, size; and whether its fields are in range, but for its size. -/
def bufRec (b : List Byte) (off kind : Nat) : (Nat × Nat × Nat) × Bool :=
  let h := leAt b off 1
  let f := leAt b (off + 2) 2
  ((h, f, leAt b (off + 4) 4), decide (h ≤ 63) && leAt b (off + 1) 1 == kind && decide (f ≤ (if kind = 1 then 511 else 0))
    && zeroBytes b (off + 8) 8)

/-- A Firn range record (Table 9-5). -/
def firnRec (b : List Byte) (off : Nat) : (Nat × Nat) × Bool :=
  let f := leAt b off 2
  let n := leAt b (off + 2) 2
  ((f, n), decide (f ≤ 2047) && decide (1 ≤ n) && decide (f + n ≤ 2048) && zeroBytes b (off + 4) 4)

/-- A residency record (08 Table 8-6). -/
def resRec (b : List Byte) (off : Nat) : ResRec × Bool :=
  let r : ResRec := ⟨leAt b off 2, leAt b (off + 2) 2, leAt b (off + 4) 4, leAt b (off + 8) 1⟩
  (r, decide (r.frb ≤ 2047) && decide (1 ≤ r.m ∧ r.m ≤ 2048) && decide (1 ≤ r.l ∧ r.l ≤ 2 ^ 24) && decide (r.narr ≤ 3)
    && zeroBytes b (off + 9) 7)

/-- A set record (Table 9-6). -/
def setRec (b : List Byte) (off : Nat) : SetRec × Bool :=
  let r : SetRec := ⟨leAt b off 1, leAt b (off + 8) 8, leAt b (off + 16) 8⟩
  (r, decide (r.kind ≤ 2) && zeroBytes b (off + 1) 7 && r.base % 64 == 0 && r.bytes % 64 == 0 && decide (64 ≤ r.bytes)
    && decide (r.base + r.bytes ≤ 2 ^ 57) && zeroBytes b (off + 24) 8)

/-- Records of `size` bytes from an offset, and whether every one is in range. -/
def records {α : Type} (f : Nat → α × Bool) (off size n : Nat) : List α × Bool :=
  let l := tabulate n fun k => f (off + size * k)
  (l.map (·.1), l.all (·.2))

/-- The window buffers of the resource section: handle, first frame, size (R225). -/
def moduleWins (b : List Byte) : List (Nat × Nat × Nat) × Bool :=
  let ro := leAt b 0x1C 4
  let n := leAt b ro 4
  let w := records (fun o => bufRec b o 1) (ro + 16) 16 (min n 64)
  (w.1, w.2 && decide (n ≤ 64) && zeroBytes b (ro + 4) 12 && decide (ro + 16 + 16 * n ≤ leAt b 0x24 4))

/-- Scene `k` of a module, and whether row 1 holds of it (R226, R227). -/
def moduleScene (b : List Byte) (k : Nat) : Scene × Bool :=
  let o := leAt b 0x20 4 + 64 * k
  let total := leAt b 0x24 4
  let f := fun at_ => leAt b (o + at_) 1
  let duty := tabulate 7 fun j => leAt b (o + 0x0C + 2 * j) 2
  let co := leAt b (o + 0x1C) 4
  let cb := leAt b (o + 0x20) 4
  let d := leAt b (o + 0x24) 4
  let small := decide (f 4 ≤ 64 ∧ f 5 ≤ 16 ∧ f 6 ≤ 4 ∧ f 7 ≤ 64 ∧ f 8 ≤ 8)
  let bufs := records (fun o => bufRec b o 0) d 16 (min (f 4) 64)
  let d1 := d + 16 * f 4
  let firn := records (firnRec b) d1 8 (min (f 5) 16)
  let d2 := d1 + 8 * f 5
  let res := records (resRec b) d2 16 (min (f 6) 4)
  let d3 := d2 + 16 * f 6
  let sets := records (setRec b) d3 32 (min (f 7) 64)
  let d4 := d3 + 32 * f 7
  let deps := tabulate (min (f 8) 8) fun j => leAt b (d4 + 2 * j) 2
  let stop := d + ceilDiv (d4 + 2 * f 8 - d) 16 * 16
  let ok := leAt b o 2 == k && decide (1 ≤ f 2 ∧ f 2 ≤ 16) && decide (f 3 ≤ 7) && small && zeroBytes b (o + 0x0A) 2
    && duty.all (fun x => decide (x ≤ 256)) && zeroBytes b (o + 0x1A) 2 && co % 16 == 0 && cb % 16 == 0
    && decide (16 ≤ cb ∧ cb ≤ 2 ^ 20) && d % 16 == 0 && zeroBytes b (o + 0x28) 24 && decide (co + cb ≤ total)
    && decide (stop ≤ total) && bufs.2 && firn.2 && res.2 && sets.2
    && deps.all (fun x => decide (x < leAt b 0x18 4)) && zeroBytes b (d4 + 2 * f 8) (stop - (d4 + 2 * f 8))
  ({ span := f 2, prio := f 3, nstrm := f 9, duty := duty, codeBytes := cb, codeOffset := co
     bufs := bufs.1.map fun x => (x.1, x.2.2), firn := firn.1, res := res.1, sets := sets.1, deps := deps }, ok)

/-- The module of an image at a virtual address. -/
def moduleOf (b : List Byte) (va : Nat) : Module :=
  { va := va, bytes := leAt b 0x24 4, req0 := BitVec.ofNat 64 (leAt b 8 8), req1 := BitVec.ofNat 64 (leAt b 0x10 8)
    wins := (moduleWins b).1, scenes := tabulate (leAt b 0x18 4) fun k => (moduleScene b k).1 }

/-- Row 1: header, descriptors and records (R26, R225 to R227). -/
def loadRow1 (b : List Byte) : Bool :=
  let total := leAt b 0x24 4
  let n := leAt b 0x18 4
  let ro := leAt b 0x1C 4
  let so := leAt b 0x20 4
  leAt b 0 4 == 0x4F4D472E && zeroBytes b 6 2 && zeroBytes b 0x28 24 && decide (1 ≤ n ∧ n ≤ 4096) && ro % 64 == 0
    && so % 64 == 0 && decide (ro + 16 ≤ total) && decide (so + 64 * n ≤ total) && (moduleWins b).2
    && (List.range n).all fun k => (moduleScene b k).2

/-! ## Code (R216) -/

/-- The words of an image from an offset. -/
def codeWords (b : List Byte) (off : Nat) : Nat → List IWord
  | 0 => []
  | n + 1 => BitVec.ofNat 128 (leAt b off 16) :: codeWords b (off + 16) n

/-- The words that an opcode takes. -/
def opcWords (w : IWord) : Nat :=
  if bvGet w 0 8 = 0x40 then (if bvGet w 95 1 = 1 then 2 else 1)
  else if bvGet w 0 8 = 0x60 then (if bvGet w 14 1 = 1 then 2 else 5)
  else 1

/-- The instruction starts of a scene's code with what stands there; none for a word that does not decode (R216). -/
def codeScan : Nat → Nat → List IWord → List (Nat × Option Instr)
  | 0, _, _ => []
  | _, _, [] => []
  | fuel + 1, k, w :: ws =>
    (k, (decode (w :: ws)).map (·.1)) :: codeScan fuel (k + opcWords w) (ws.drop (opcWords w - 1))

/-- The code of a scene, decoded. -/
def sceneCode (b : List Byte) (sc : Scene) : List (Nat × Option Instr) :=
  codeScan (sc.codeBytes / 16) 0 (codeWords b sc.codeOffset (sc.codeBytes / 16))

/-- An immediate branch target is an instruction start of the scene (R216, R462). -/
def targetOk (code : List (Nat × Option Instr)) (x : Nat × Option Instr) : Bool :=
  match x.2 with
  | some (.br w) =>
    w.rt || code.any fun y => (16 * (y.1 : Int)) == 16 * (x.1 : Int) + w.tgt.toInt
  | _ => true

/-! ## Rows 2 to 10 -/

/-- What the checks of a scene's instructions know. -/
def loadCtx (s : State) (m : Module) (sc : Scene) : LoadCtx :=
  { g0 := s.feat.grant0, g1 := s.feat.grant1, bufs := (m.wins.map fun w => (w.1, w.2.2)) ++ sc.bufs
    duty := sc.duty, nstrm := sc.nstrm }

/-- A module with its scenes' decoded code. -/
abbrev Coded := Module × List (Scene × List (Nat × Option Instr))

/-- Features used by a scene: those of its instructions, and UPD_PROT for an in-place record (R27, Table 9-6). -/
def sceneNeeds (x : Scene × List (Nat × Option Instr)) : Needs :=
  (x.2.flatMap fun c => (c.2.map instrNeeds).getD []) ++ (if x.1.sets.any fun r => r.kind == 2 then [(1, 12)] else [])

/-- Row 2: GTA version, features used, required and granted (R25, R27). -/
def loadRow2 (s : State) (b : List Byte) (c : Coded) : Bool :=
  let req : LoadCtx := ⟨c.1.req0, c.1.req1, [], [], 0⟩
  leAt b 5 1 == 3 && decide (leAt b 4 1 ≤ 2)
    && c.2.all (fun x => (sceneNeeds x).all (ctxGranted req))
    && (c.1.req0 &&& ~~~s.feat.grant0) == 0 && (c.1.req1 &&& ~~~s.feat.grant1) == 0
    && c.2.all fun x => x.2.all fun y => ((y.2.map (checkFeature (loadCtx s c.1 x.1))).getD none).isNone

/-- Row 3: every word decodes, is well formed, and branches to an instruction start. -/
def loadRow3 (c : Coded) : Bool :=
  c.2.all fun x => x.2.all fun y => y.2.isSome && ((y.2.map checkWord).getD none).isNone && targetOk x.2 y

/-- A legal buffer size (R91). -/
def sizeOk (n : Nat) : Bool := n % 64 == 0 && decide (64 ≤ n ∧ n ≤ 33554432)

/-- Frames of a buffer. -/
def framesOf (n : Nat) : Nat := ceilDiv n 65536

/-- No element meets a later one under `p`. -/
def pairwiseOk {α : Type} (p : α → α → Bool) : List α → Bool
  | [] => true
  | x :: xs => xs.all (p x) && pairwiseOk p xs

/-- The part of row 4 on declarations (R92). -/
def loadRow4 (m : Module) : Bool :=
  let frames := fun w : Nat × Nat × Nat => (w.2.1, w.2.1 + framesOf w.2.2)
  let apart := fun a b : Nat × Nat × Nat =>
    a.1 != b.1 && (decide ((frames a).2 ≤ (frames b).1) || decide ((frames b).2 ≤ (frames a).1))
  m.wins.all (fun w => sizeOk w.2.2 && decide ((frames w).2 ≤ 512)) && pairwiseOk apart m.wins
    && m.scenes.all fun sc =>
      sc.bufs.all (fun x => sizeOk x.2 && !(m.wins.any fun w => w.1 == x.1))
        && pairwiseOk (fun a b => a.1 != b.1) sc.bufs
        && decide ((sc.bufs.map fun x => framesOf x.2).sum + (m.wins.map fun w => framesOf w.2.2).sum ≤ 512)

/-- Row 7: residency records fit and do not overlap (08, R206). -/
def loadRow7 (sc : Scene) : Bool :=
  let span := fun r : ResRec => (r.frb, r.frb + r.m * ceilDiv r.l (128 * (r.narr + 1)))
  let apart := fun a b : Nat × Nat => decide (a.2 ≤ b.1) || decide (b.2 ≤ a.1)
  let rs := sc.res.map span
  rs.all (fun r => decide (r.2 ≤ 2048) && sc.firn.all fun f => apart r (f.1, f.1 + f.2)) && pairwiseOk apart rs

/-- Row 8: read and write sets (R228). -/
def loadRow8 (sc : Scene) : Bool :=
  pairwiseOk (fun a b : SetRec =>
    (a.kind == b.kind && a.kind != 2) || decide (a.base + a.bytes ≤ b.base) || decide (b.base + b.bytes ≤ a.base)) sc.sets

/-- Row 9 on a scene: its load (R239). -/
def loadRow9 (s : State) (lulim : Nat) (sc : Scene) : Bool := decide (sceneLoad s sc ≤ lulim)

/-- The first failure of a row over the instructions of the module, scene by scene. -/
def rowInstrs (s : State) (c : Coded) (row : Nat) : Option Code :=
  c.2.findSome? fun x => x.2.findSome? fun y => (y.2.map (checkRow (loadCtx s c.1 x.1) row)).getD none

/-- A status when a condition fails. -/
def orElseFail (ok : Bool) (e : Code) : Option Code := if ok then none else some e

/-- The first failing row of Table 9-10, each over the whole module (R241). -/
def loadCheck (s : State) (lulim : Nat) (b : List Byte) (va : Nat) : Option Code :=
  if !loadRow1 b then some eBadval
  else
    let m := moduleOf b va
    let c : Coded := (m, m.scenes.map fun sc => (sc, sceneCode b sc))
    ((((((((orElseFail (loadRow2 s b c) eFeature)
      <|> orElseFail (loadRow3 c) eBadval)
      <|> (orElseFail (loadRow4 m) eBufsize <|> rowInstrs s c 4))
      <|> rowInstrs s c 5)
      <|> rowInstrs s c 6)
      <|> orElseFail (m.scenes.all loadRow7) eRowfit)
      <|> orElseFail (m.scenes.all loadRow8) eOverlap)
      <|> (orElseFail (m.scenes.all (loadRow9 s lulim)) eLubudget <|> rowInstrs s c 9))
      <|> (orElseFail (m.scenes.all fun sc => decide (sc.nstrm ≤ 48)) eSlots <|> rowInstrs s c 10)

/-! ## The loaded module (15, R377) -/

/-- The window buffers of a module as buffers of the pool (04, R93). -/
def windowBufs (m : Module) : List Buf :=
  m.wins.map fun w => ⟨none, w.1, w.2.2, (List.range (framesOf w.2.2)).map (· + w.2.1)⟩

/-- The module is loaded: its window buffers are allocated and their line valid bits cleared. -/
def loadModule (s : State) (m : Module) : State :=
  let bufs := windowBufs m
  clearFrames { s with
    seq := { s.seq with modl := some m }
    strm := { s.strm with bufs := s.strm.bufs ++ bufs } } (bufs.flatMap (·.frames))

/-! ## The reads of LOAD (15, R369, R377; log 8) -/

/-- ADDR and BYTES of a LOAD (Table 15-6). -/
def loadAddr (j : LoadJob) : Nat := byteField j.word 8 8
def loadBytes (j : LoadJob) : Nat := byteField j.word 0x10 4

/-- The LOAD in progress changed. -/
def setLoad (s : State) (f : LoadJob → LoadJob) : State := { s with ctl := { s.ctl with load := s.ctl.load.map f } }

/-- LOAD completes with a status and a payload (R377). -/
def loadEnd (s : State) (j : LoadJob) (c : Code) (payload : Nat) : State :=
  completeCmd { s with ctl := { s.ctl with load := none } } j.mbx j.slot j.size c payload

/-- The read of `n` granules of the module for LOAD: owner's tenant ID, class DATA (R369). -/
def loadReq (s : State) (off pa n tag : Nat) : Req := readReqOf s tag 0 pa (n - 1) 0 none (.load off)

/-- The next read of LOAD, one at a time: what is left of its 256-byte block, translated by R265; a translation fault completes
LOAD with E_XLATE (R369, R377). -/
def loadNext (s : State) : State :=
  match s.ctl.load with
  | none => s
  | some j =>
    if j.issued || j.walking then s
    else
      let o := j.image.length
      match xlLookup s (loadAddr j + o) false with
      | .fault _ _ => loadEnd s j eXlate 0
      | .walk =>
        match startWalk s (loadAddr j + o) false .load none with
        | some s => setLoad s fun j => { j with walking := true }
        | none => s
      | .hit pa =>
        match issueFirmware s j.first
            (loadReq s o pa (min (4 - pa % 256 / 64) (ceilDiv (j.upto - o) 64))) with
        | some s => setLoad s fun j => { j with issued := true }
        | none => s

/-- Every byte of the module has been read: the checks of Table 9-10, then the module is loaded (R377). -/
def loadFinish (s : State) (j : LoadJob) : State :=
  let b := j.image.take (loadBytes j)
  match loadCheck s (byteField j.word 0x14 1) b (loadAddr j) with
  | some c => loadEnd s j c 0
  | none =>
    let m := moduleOf b (loadAddr j)
    loadEnd (loadModule s m) j stOk (m.scenes.length + (m.wins.map fun x => framesOf x.2.2).sum * 2 ^ 32)

/-- What follows a read of LOAD: the header first, then the rest (R377). -/
def loadStep (s : State) : State :=
  match s.ctl.load with
  | none => s
  | some j =>
    if j.image.length < j.upto then loadNext s
    else if leAt j.image 0x24 4 ≠ loadBytes j then loadEnd s j eBadval 0
    else if j.upto < loadBytes j then loadNext (setLoad s fun j => { j with upto := loadBytes j })
    else loadFinish s j

/-- The answer to a read of LOAD: its bytes, or LOAD completes with the status of the answer, never a check event (R377; 12
Table 12-8). -/
def loadAnswer (s : State) (r : Req) (off : Nat) (a : Answer) (data : BitVec 2048) : State :=
  match s.ctl.load with
  | none => s
  | some j =>
    if !j.issued || j.image.length != off then s
    else if a ≠ .ok then loadEnd s j (answerCode a) 0
    else
      let n := 64 * (r.len.toNat + 1)
      loadStep (setLoad s fun j =>
        { j with issued := false, image := j.image ++ natBytes n (laneGet data r.addr.toNat n) })

/-- LOAD's own part: refused while a module is loaded, or in service mode on an owned cluster; otherwise its reads begin, with
the header (R377). -/
def loadBody (m : Mbx) (slot : BitVec 3) (first : BitVec 4) (size : Nat) (s : State) (w : BitVec 1024) : Served :=
  if s.seq.modl.isSome || (s.feat.service && s.ctl.owner != 0) then .reject eBadstate
  else .later (loadNext { s with ctl := { s.ctl with load := some ⟨m, slot, size, w, [], 64, false, false, first⟩ } })

def execLoad (m : Mbx) (slot : BitVec 3) (first : BitVec 4) (s : State) : Host.Outcome State Fault Refusal :=
  .next (serve s m slot 3 (loadBody m slot first (slotBytes s)))

end Sys2Proof.Machine
end

