-- ==== Sys2Proof/Machine/Firmware.lean ====
section
/-! DEFINITION. The mailbox commands as firmware takes them (02 R32 to R38; 15 R375 to R383, R386 to R388; 10 R269, R270; 11
R299, R300; 14 R360; 16 R404 to R406). -/

namespace Sys2Proof.Machine

open Sys2Proof

/-! ## NEGOTIATE (02 R31 to R36; 15 R386) -/

/-- FEATURE_AVAIL0: the KFP bit of the tie-off, the Revolve bit once training is done (R31, R33). -/
def avail0 (s : State) : DWord :=
  (if s.boot.ties.fpGen then 0x1FF17 else 0x1FF0F)
    ||| (if !s.rev.done then 0 else if s.rev.gen = 2 then 0x40 else if s.rev.gen = 1 then 0x20 else 0)

/-- FEATURE_AVAIL1. -/
def avail1 : DWord := 0x17F7F

/-- The ABI bit granted: the highest of the proposed ones that are available (R32). -/
def abiBit (g : DWord) : DWord :=
  if g.getLsbD 2 then 4 else if g.getLsbD 1 then 2 else if g.getLsbD 0 then 1 else 0

/-- The grant of R32, or its failure. -/
def grantOf (s : State) (prop0 prop1 : DWord) (service : Bool) : Option (DWord × DWord) :=
  let g0 := prop0 &&& avail0 s
  let g1 := prop1 &&& avail1
  if abiBit g0 = 0 ∨ g0 &&& 0x18 = 0 ∨ g0 &&& 0x60 = 0 then none
  else some ((g0 &&& ~~~7) ||| abiBit g0, if service then g1 else g1 &&& ~~~0x4000)

/-- A slot is POSTED or BUSY. -/
def slotUsed (st : SlotState) : Bool := st == .posted || st == .busy

/-- Another slot than `k` of mailbox `m` is POSTED or BUSY (R386). -/
def otherUsed (s : State) (m : Mbx) (k : BitVec 3) : Bool :=
  let used := fun m' : Mbx => (List.range 8).any fun j =>
    !(m' == m && j == k.toNat) && slotUsed (slotState s m' (BitVec.ofNat 3 j))
  used .mgmt || used .user

/-- NEGOTIATE's own part (R32 to R36, R386). -/
def negotiateBody (m : Mbx) (k : BitVec 3) (s : State) (w : BitVec 1024) : Served :=
  if !s.rev.done || s.seq.modl.isSome || !s.seq.insts.isEmpty || otherUsed s m k then .reject eBadstate
  else
    let service := byteField w 0x18 1 == 1
    match grantOf s (BitVec.ofNat 64 (byteField w 8 8)) (BitVec.ofNat 64 (byteField w 0x10 8)) service with
    | none => .reject eFeature
    | some (g0, g1) =>
      .done { s with feat := ⟨g0, g1, true, service⟩ } (g0.toNat + g1.toNat * 2 ^ 64)

def execNegotiate (m : Mbx) (slot : BitVec 3) (s : State) : Host.Outcome State Fault Refusal :=
  .next (serve s m slot 1 (negotiateBody m slot))

/-! ## QUERY (15, Table 15-7) -/

/-- SEQ_STATE.STATE (09, Table 9-12). -/
def seqState (s : State) : Nat :=
  if s.seq.insts.any fun i => i.st == .running then 1
  else if s.seq.held then 3
  else if s.seq.insts.any fun i => i.st == .draining then 2
  else 0

/-- DATA of a QUERY item. -/
def queryData (s : State) (item : Nat) : Nat :=
  match item with
  | 0 =>
    s.boot.fwver.toNat + s.chk.cfgGen.toNat * 2 ^ 32 + s.chk.cfgCopy.toNat * 2 ^ 48 + abiGen s * 2 ^ 56 + 0x32 * 2 ^ 64
  | 1 => pack 8 s.boot.weights + s.pwr.capin.toNat * 2 ^ 32
  | _ =>
    s.ctl.owner.toNat
      + bitsOf [s.feat.service, s.seq.modl.isSome, s.ctl.wipe.isSome, s.chk.withdrawn, s.seq.held, s.feat.granted] * 2 ^ 16
      + s.seq.insts.length * 2 ^ 24 + seqState s * 2 ^ 40

def queryBody (s : State) (w : BitVec 1024) : Served := .done s (queryData s (byteField w 8 1))

def execQuery (m : Mbx) (slot : BitVec 3) (s : State) : Host.Outcome State Fault Refusal :=
  .next (serve s m slot 2 queryBody)

/-! ## UNLOAD (15, R378) -/

/-- The module and its window buffers go; what was not read of them is discarded (R378; 04 R93; 19 R455). -/
def unloadModule (s : State) : State :=
  let fs := (s.strm.bufs.filter fun b => b.owner == none).flatMap (·.frames)
  let s := padDiscard s fun u => u.cells.any fun c => fs.contains (c.1 / 65536)
  { s with
    seq := { s.seq with modl := none }
    strm := { s.strm with bufs := s.strm.bufs.filter fun b => b.owner != none } }

def unloadBody (s : State) (_ : BitVec 1024) : Served :=
  if s.seq.modl.isSome && s.seq.insts.isEmpty then .done (unloadModule s) 0 else .reject eBadstate

def execUnload (m : Mbx) (slot : BitVec 3) (s : State) : Host.Outcome State Fault Refusal :=
  .next (serve s m slot 4 unloadBody)

/-! ## ENQUEUE (15, R379; 09, R231) -/

/-- A new instance at the end of the pending list. -/
def newInst (s : State) (uid scene : Nat) (args : List DWord) (handle : Word) (m : Mbx) : Inst :=
  { uid := uid, scene := scene, args := args, handle := handle, origin := m, st := depState s s.seq.insts scene
    replays := 0, replayed := false, everLate := false, runLate := false, tick0 := 0, slots := [], alog := [], alogPos := 0
    alogReplay := false, upds := [], ringScene := false, gtag := 0, grun := 0, gmask := 0, gends := [], ending := none
    faultPc := 0, numMat := 0, numVec := 0, numUpd := 0 }

/-- ENQUEUE's own part (R379). -/
def enqueueBody (m : Mbx) (s : State) (w : BitVec 1024) : Served :=
  let scene := byteField w 8 2
  match s.seq.modl with
  | none => .reject eBadstate
  | some md =>
    if md.scenes.length ≤ scene then .reject eBadval
    else if 256 ≤ s.seq.insts.length then .reject eFull
    else
      let n := byteField w 10 1
      let args := tabulate 8 fun j => if j < n then BitVec.ofNat 64 (byteField w (0x10 + 8 * j) 8) else 0
      let (uid, t) := fresh s
      let i := newInst s uid scene args (BitVec.ofNat 32 (byteField w 0x0C 4)) m
      .done { t with seq := { t.seq with insts := t.seq.insts ++ [i] } } s.seq.insts.length

def execEnqueue (m : Mbx) (slot : BitVec 3) (s : State) : Host.Outcome State Fault Refusal :=
  .next (serve s m slot 5 (enqueueBody m))

/-! ## ABORT, CLEARFAULT (15, R380, R381; 16, R404) -/

/-- An instance is RUNNING and its run has not been ended. -/
def runGoes (s : State) : Bool := s.seq.insts.any fun i => i.st == .running && i.ending.isNone

def abortBody (s : State) (w : BitVec 1024) : Served :=
  if byteField w 8 1 = 0 then if runGoes s then .done (abortRunning s false) 0 else .reject eBadstate
  else .done (abortAll s) 0

def execAbort (m : Mbx) (slot : BitVec 3) (s : State) : Host.Outcome State Fault Refusal :=
  .next (serve s m slot 6 abortBody)

/-- The instances after the first one that depend on it directly or through others, by uid: `gone` holds the scenes that go
and `out` the uids. -/
def dependents (s : State) : List Nat → List Nat → List Inst → List Nat
  | _, out, [] => out
  | gone, out, i :: is =>
    if (sceneDeps s i.scene).any gone.contains then dependents s (i.scene :: gone) (i.uid :: out) is
    else dependents s gone out is

/-- REQUEUE: READY or WAITING in its position, its counter at 0, its atomic log discarded (R381). -/
def requeue (s : State) (uid : Nat) : State :=
  let s := setInst s uid fun i =>
    { i with st := .waiting, replays := 0, alog := [], alogPos := 0, alogReplay := false, faultPc := 0 }
  wakeAll (liftHold s)

/-- CLEARFAULT's own part: the earliest ABANDONED instance (R381). -/
def clearfaultBody (s : State) (w : BitVec 1024) : Served :=
  match s.seq.insts.find? fun i => i.st == .abandoned with
  | none => .reject eBadstate
  | some i =>
    if byteField w 8 1 = 0 then .done (requeue s i.uid) 0
    else
      let later := (s.seq.insts.dropWhile fun j => j.uid != i.uid).drop 1
      let out := dependents s [i.scene] [i.uid] later
      .done (removeWith s fun j => out.contains j.uid) 0

def execClearfault (m : Mbx) (slot : BitVec 3) (s : State) : Host.Outcome State Fault Refusal :=
  .next (serve s m slot 7 clearfaultBody)

/-! ## XLT_RESUME, XLT_ABORT (15, R382; 10, R269, R270; 13, R347) -/

/-- The suspension that a record names. -/
def hasRecord (n : Nat) (f : Option XltFault) : Bool :=
  match f with
  | some x => x.record == n
  | none => false

/-- What the record suspended goes on, and its request walks afresh (R269). -/
def resumeRecord (s : State) (n : Nat) : State :=
  let s := ((heldFaults s).filter fun f => f.record == n).foldl (fun s f => tlbForget s f.va) s
  let s := { s with
    strm := { s.strm with
      streams := mapIf (fun st => hasRecord n st.susp) (fun st => { st with susp := none }) s.strm.streams
      asides := mapIf (fun a => hasRecord n a.susp) (fun a => { a with susp := none }) s.strm.asides }
    upd := { s.upd with
      cur := s.upd.cur.map fun u => if hasRecord n u.susp then { u with susp := none } else u
      writes := mapIf (fun w => hasRecord n w.susp) (fun w => { w with susp := none }) s.upd.writes } }
  kickUpd (kickAsides s)

/-- What the record suspended ends with E_XLATE, and its run is abandoned (R270, R347). -/
def abortRecord (s : State) (n : Nat) : State :=
  let leave := fun (s : State) (uid : Nat) => abandonRun s uid eXlate true
  match s.strm.streams.find? fun st => hasRecord n st.susp with
  | some st =>
    let s := setStream s st.id fun st => { stopStream st with status := some eXlate }
    leave (errLast s (BitVec.ofNat 6 st.phys) eXlate) st.uid
  | none =>
    match s.strm.asides.find? fun a => hasRecord n a.susp with
    | some a => leave (errLast (dropAside s a.tag) slotAside eXlate) a.uid
    | none =>
      match s.upd.cur.filter fun u => hasRecord n u.susp with
      | some u => leave (endUpd s u eXlate) u.uid
      | none =>
        match s.upd.writes.find? fun w => hasRecord n w.susp with
        | some w => leave (writeFailed s w eXlate) w.uid
        | none => s

/-- An answer to a record that is held (R382). -/
def recordBody (f : State → Nat → State) (s : State) (w : BitVec 1024) : Served :=
  let n := byteField w 8 1
  if (heldRecords s).contains n then .done (f s n) 0 else .reject eBadstate

def execXltResume (m : Mbx) (slot : BitVec 3) (s : State) : Host.Outcome State Fault Refusal :=
  .next (serve s m slot 8 (recordBody resumeRecord))

def execXltAbort (m : Mbx) (slot : BitVec 3) (s : State) : Host.Outcome State Fault Refusal :=
  .next (serve s m slot 9 (recordBody abortRecord))

/-! ## TENANT and the wipe (15, R387, R388) -/

/-- TENANT: the wipe begins; the command completes with it. -/
def tenantBody (m : Mbx) (slot : BitVec 3) (s : State) (w : BitVec 1024) : Served :=
  if s.seq.modl.isSome then .reject eBadstate
  else .later { s with ctl := { s.ctl with wipe := some (m, slot, BitVec.ofNat 12 (byteField w 8 2)) } }

def execTenant (m : Mbx) (slot : BitVec 3) (s : State) : Host.Outcome State Fault Refusal :=
  .next (serve s m slot 10 (tenantBody m slot))

/-- The location is not in control SRAM: the wipe clears it, and no error is read there (R388; 14 R351). -/
def wipedPlace (p : Place) : Bool :=
  match p with
  | .sram _ => false
  | _ => true

/-- A mailbox with its notice queue emptied: no entry, none held back, none unread (R388; log 31). -/
def emptyNotices (m : Mailbox) : Mailbox := { m with ntc := Vector.replicate 32 0, held := [], tail := m.head }

/-- What the wipe clears (R388; 03 R73; 07 R191; 09 R243; 10 R274; 11 R302; 12 R327; 13 R349; 18 R449, R450). -/
def wiped (s : State) : State :=
  dropMarks { s with
    tiles := Vector.replicate 16 .reset
    pad := ⟨[], 0, []⟩
    firn := ⟨[], []⟩
    mat := { s.mat with numstat := 0 }
    vec := .reset
    seq := { s.seq with fault := ⟨false, 0, 0, 0⟩, icache := [] }
    strm := { s.strm with
      streams := [], asides := [], sorter := [], walks := [], dcache := [], tlb := [], rootEn := false, rootAddr := 0
      errLast := ⟨false, 0, 0⟩, fault := ⟨false, 0, 0, false, 0, 0⟩ }
    upd := { s.upd with numstat := 0, last := ⟨false, 0, 0⟩ }
    perf := { s.perf with cycles := 0, cnt := Vector.replicate 32 0 }
    dbg := { s.dbg with data := 0, result := 0 }
    rev := { s.rev with gends := [] }
    ctl := { s.ctl with
      mgmt := emptyNotices s.ctl.mgmt
      user := { emptyNotices s.ctl.user with st := Vector.replicate 8 .empty, slots := Vector.replicate 8 0 }
      order := s.ctl.order.filter fun d => d.1 != .user } } wipedPlace

/-- WIPE_COMPLETE: everything is cleared, the owner becomes TID, TENANT completes, and the wipe notice is posted (R387,
R388, R385). -/
def execWipeComplete (s : State) : Host.Outcome State Fault Refusal :=
  match s.ctl.wipe with
  | none => .next s
  | some (m, k, tid) =>
    if !clusterUp s || s.ctl.restarting then .next s
    else
      let s := wiped s
      let s := { s with ctl := { s.ctl with owner := tid, wipe := none } }
      .next (postNotice (completeCmd s m k (slotBytes s) stOk 0) false
        (noticeWord 5 stOk 0xFFFF 0 0 0 0 0 0 0 0 0 0 0 0 0))

/-! ## CURTAIN, WITHDRAW, FENCE, REJOIN (15, R383; 16, R405, R406; 14, R360; 11, R299, R300) -/

/-- CURTAIN: the pulse, the message, and the cluster's own act; nothing during a stop event. -/
def curtainBody (s : State) (_ : BitVec 1024) : Served :=
  if s.pwr.stopEvent then .done s 0
  else
    let s := { s with pwr := { s.pwr with curtainOut := true } }
    .done (curtainAct (sendStage s (.curtain s.boot.ties.clusterId))) 0

def execCurtainCommand (m : Mbx) (slot : BitVec 3) (s : State) : Host.Outcome State Fault Refusal :=
  .next (serve s m slot 11 curtainBody)

/-- WITHDRAW: Source 0 with E_WITHDRAWN (14, Table 14-1). -/
def withdrawBody (s : State) (_ : BitVec 1024) : Served := .done (triggerWithdraw s 0 eWithdrawn) 0

def execWithdraw (m : Mbx) (slot : BitVec 3) (s : State) : Host.Outcome State Fault Refusal :=
  .next (serve s m slot 12 withdrawBody)

/-- FENCE: the stop enters pass-through, or a rejoin is cancelled; the ring scenes are abandoned with E_RINGPART (R383; 11
R296, R299). -/
def fenceBody (s : State) (_ : BitVec 1024) : Served :=
  if passThrough s && !s.rev.rejoining then .reject eBadstate
  else .done (abandonGroups (abandonOut (fenceOut { s with rev := { s.rev with pt := true } })) eRingpart false) 0

def execFenceCommand (m : Mbx) (slot : BitVec 3) (s : State) : Host.Outcome State Fault Refusal :=
  .next (serve s m slot 13 fenceBody)

/-- REJOIN: the stop sends REJOIN (R383; 11 R300). -/
def rejoinBody (s : State) (_ : BitVec 1024) : Served :=
  if !passThrough s || s.rev.rejoining || s.chk.withdrawn || s.rev.down || !s.rev.done then .reject eBadstate
  else .done (rejoinOut s) 0

def execRejoinCommand (m : Mbx) (slot : BitVec 3) (s : State) : Host.Outcome State Fault Refusal :=
  .next (serve s m slot 14 rejoinBody)

end Sys2Proof.Machine
end

