-- ==== Sys2Proof/Machine/Csr.lean ====
section
/-! DEFINITION. The CSR window (00 R6, R8, R11, R12; 17 R433, R434; 18 R443 to R451) and the registers of Tables 2-1, 2-5, 3-8,
4-9, 5-7, 7-11, 9-12, 10-9, 11-7, 12-7, 13-10, 14-11, 15-9, 16-8, 18-3 and 18-4, by offset. -/

namespace Sys2Proof.Machine

open Sys2Proof

/-- A flag in bit 31 over a value. -/
def validWord (valid : Bool) (v : Nat) : Nat := bit valid * 2 ^ 31 + v

/-! ## Register values -/

/-- IDENT and FEATURE (Tables 2-1, 2-5). -/
def identReg (s : State) (off : Nat) : Option Nat :=
  match off with
  | 0x0000 => some 0x0C044B43
  | 0x0004 => some (0x00323000 + stepCode.1 * 256 + stepCode.2 * 16)
  | 0x1000 => some (avail0 s).toNat
  | 0x1008 => some avail1.toNat
  | 0x1010 => some s.feat.grant0.toNat
  | 0x1018 => some s.feat.grant1.toNat
  | 0x1020 => some (bit s.feat.service * 2 + bit s.feat.granted)
  | _ => none

/-- The code of a slot state (MBX_SLOTSTATE). -/
def slotCode (st : SlotState) : Nat :=
  match st with
  | .empty => 0
  | .posted => 1
  | .busy => 2
  | .done => 3

/-- A mailbox's registers by their offset in it (Table 15-9, R391). -/
def mbxReg (s : State) (m : Mbx) (off : Nat) : Option Nat :=
  let b := getBox s m
  let mg := fun v : Nat => if m = .mgmt then v else 0
  if 0x100 ≤ off ∧ off < 0x500 then
    some (byteField (slotWord s m (BitVec.ofNat 3 ((off - 0x100) / 128))) ((off - 0x100) % 128) 4)
  else if 0x1000 ≤ off ∧ off < 0x1800 then
    some (byteField (b.ntc[(off - 0x1000) / 64 % 32]'(Nat.mod_lt _ (by decide))) ((off - 0x1000) % 64) 4)
  else
    match off with
    | 0x00 => some (0x200800 + abiGen s)
    | 0x04 => some 0
    | 0x08 => some 0
    | 0x0C => some (pack 2 (b.st.toList.map slotCode))
    | 0x10 => some (mg (validWord s.ctl.csrValid s.ctl.csrCode.toNat))
    | 0x14 => some (mg s.ctl.csrAddr.toNat)
    | 0x20 => some b.head.toNat
    | 0x24 => some b.tail.toNat
    | 0x30 => some (mg s.ctl.irqStat.toNat)
    | 0x34 => some (mg s.ctl.irqEn.toNat)
    | 0x40 =>
      some (s.ctl.owner.toNat + bit s.feat.service * 2 ^ 12 + bit s.ctl.wipe.isSome * 2 ^ 13
        + bit s.seq.modl.isSome * 2 ^ 14)
    | _ => none

/-- The management port's interrupt output (R391). -/
def mgIrq (s : State) : Bool := s.ctl.irqStat &&& s.ctl.irqEn != 0

/-- Instances in a state. -/
def countInsts (s : State) (st : InstState) : Nat := (s.seq.insts.filter fun i => i.st == st).length

/-- SEQ (Tables 9-12, 4-9). -/
def seqReg (s : State) (off : Nat) : Option Nat :=
  match off with
  | 0x000 => some 0x40102020
  | 0x004 =>
    some (seqState s * 2 ^ 28 + ((activeInst s).map (·.scene)).getD 0 % 4096 * 2 ^ 16
      + min (countInsts s .draining) 127 * 2 ^ 9 + s.seq.insts.length)
  | 0x008 => some s.seq.late.toNat
  | 0x010 => some (validWord s.seq.fault.valid (s.seq.fault.scene.toNat * 2 ^ 16 + s.seq.fault.code.toNat))
  | 0x014 => some s.seq.fault.pc.toNat
  | 0x200 => some (bitsOf (s.tiles.toList.map (·.full)))
  | _ => none

/-- MAT (Tables 5-7, 3-8). -/
def matReg (s : State) (off : Nat) : Option Nat :=
  let c := s.mat.chkLast
  match off with
  | 0x000 => some 0x48008080
  | 0x100 => some s.mat.numstat.toNat
  | 0x200 => some s.mat.chkComp.toNat
  | 0x204 => some s.mat.chkSkip.toNat
  | 0x208 => some s.mat.chkFail.toNat
  | 0x20C => some (validWord c.valid (bit c.mv * 2 ^ 18 + c.array.toNat * 2 ^ 16 + c.row.toNat))
  | _ => none

/-- VEC (Tables 7-11, 3-8). -/
def vecReg (s : State) (off : Nat) : Option Nat :=
  match off with
  | 0x000 => some 0x20080800
  | 0x004 => some (if stepCode.1 = 2 then 0x0E else 0x16)
  | 0x100 => some s.vec.numstat.toNat
  | 0x200 =>
    some (validWord s.vec.faultLast.valid (s.vec.faultLast.elem.toNat * 2 ^ 16 + s.vec.faultLast.code.toNat))
  | _ => none

/-- Physical slots of streams for which `p` holds, as bits. -/
def slotBits (s : State) (p : Stream → Bool) : Nat :=
  bitsOf ((List.range 48).map fun n => s.strm.streams.any fun st => st.phys == n && p st)

/-- The update engine is suspended (13, R347). -/
def updSuspended (s : State) : Bool :=
  s.upd.cur.any (fun u => u.susp.isSome) || s.upd.writes.any fun w => w.susp.isSome

/-- STRM_SUSP (Table 10-9). -/
def suspBits (s : State) : Nat :=
  slotBits s (fun st => st.susp.isSome) + bit (s.strm.asides.any fun a => a.susp.isSome) * 2 ^ 48
    + bit (updSuspended s) * 2 ^ 49

/-- Frames that window buffers hold. -/
def winFrames (s : State) : Nat := ((s.strm.bufs.filter fun b => b.owner == none).map fun b => b.frames.length).sum

/-- STRM (Tables 10-9, 4-9, 12-7). -/
def strmReg (s : State) (off : Nat) : Option Nat :=
  if 0x300 ≤ off ∧ off < 0x340 ∧ off % 8 = 0 then some ((s.strm.pgmask[(off - 0x300) / 8 % 8]'(Nat.mod_lt _ (by decide))).toNat * 64)
  else if 0x340 ≤ off ∧ off < 0x370 ∧ off % 8 = 0 then
    some ((s.strm.bkmask[(off - 0x340) / 8 % 6]'(Nat.mod_lt _ (by decide))).toNat * 64)
  else
    match off with
    | 0x000 => some 0xC2001000
    | 0x004 => some 0x40
    | 0x008 => some (slotBits s fun st => !streamComplete s st)
    | 0x010 => some (suspBits s)
    | 0x200 => some (winFrames s * 2 ^ 16 + (freeFrames s).length)
    | 0x400 => some s.strm.gidxSkip.toNat
    | 0x410 =>
      some (validWord s.strm.errLast.valid (s.strm.errLast.slot.toNat * 2 ^ 16 + s.strm.errLast.code.toNat))
    | 0x500 => some (s.strm.leaseExp.toNat * 2 ^ 16 + s.strm.leases.length)
    | 0x504 =>
      match activeInst s with
      | some i => some (bit (decide (256 < i.alogPos)) * 2 ^ 16 + i.alog.length)
      | none => some 0
    | 0x508 => some s.strm.acqPoll.toNat
    | _ => none

/-- XLT (Table 10-9). -/
def xltReg (s : State) (off : Nat) : Option Nat :=
  let f := s.strm.fault
  match off with
  | 0x000 => some 0x80073934
  | 0x008 => some (s.strm.rootAddr.toNat * 4096 + bit s.strm.rootEn)
  | 0x010 => some 0
  | 0x014 => some (bit s.strm.inval)
  | 0x100 => some f.va.toNat
  | 0x108 =>
    some (validWord f.valid (f.slot.toNat * 64 + bit f.write * 32 + f.level.toNat * 4 + f.reason.toNat))
  | _ => none

/-- REV (Table 11-7). -/
def revReg (s : State) (off : Nat) : Option Nat :=
  let l := s.rev.linkLast
  match off with
  | 0x000 => some 0x40201004
  | 0x004 =>
    some (validWord s.rev.done (s.rev.status.toNat * 2 ^ 28 + s.rev.gen.toNat * 2 ^ 26 + s.rev.n.toNat))
  | 0x008 => some s.rev.ptMap.toNat
  | 0x010 => some (bit s.rev.down * 2 + bit (passThrough s))
  | 0x014 => some (s.rev.crcE.toNat * 2 ^ 16 + s.rev.crcW.toNat)
  | 0x018 => some (validWord l.valid (bit l.east * 2 ^ 16 + l.code.toNat))
  | 0x020 =>
    match s.seq.insts.find? fun i => i.ringScene && instActive i with
    | some i => some (i.gtag.toNat * 2 ^ 16 + i.grun.toNat * 2 ^ 12 + 2 ^ 11)
    | none => some 0
  | _ => none

/-- Protected updates of the current run that are neither committed nor cancelled (UPD_STATE.PENDING). -/
def updPending (s : State) : Nat :=
  match activeInst s with
  | some i =>
    (s.upd.commits.filter fun c => c.uid == i.uid).length
      + bit (s.upd.cur.any fun u => u.uid == i.uid && updCommits u.recd)
  | none => 0

/-- UPD (Tables 13-10, 3-8). -/
def updReg (s : State) (off : Nat) : Option Nat :=
  match off with
  | 0x000 => some 0x1F202080
  | 0x004 => some (updPending s % 32 * 2 ^ 16 + bit s.upd.cur.isSome)
  | 0x008 => some s.upd.nCommit.toNat
  | 0x00C => some s.upd.nCancel.toNat
  | 0x010 => some s.upd.nSing.toNat
  | 0x100 => some s.upd.numstat.toNat
  | 0x200 => some (validWord s.upd.last.valid (s.upd.last.outcome.toNat * 2 ^ 24 + s.upd.last.code.toNat))
  | _ => none

/-- The running, draining or pending instance of CHK_STATE. -/
def checkInst (s : State) : Option Inst :=
  activeInst s <|> s.seq.insts.find? fun i => i.st == .replayPending

/-- A word of an array of entries, `size` bytes each. -/
def areaWord {w : Nat} (l : List (BitVec w)) (size off : Nat) : Nat := byteField (l.getD (off / size) 0) (off % size) 4

/-- CHK (Table 14-11) and its entry areas (Tables 14-6 to 14-8). -/
def chkReg (s : State) (off : Nat) : Option Nat :=
  if 0x1000 ≤ off ∧ off < 0x6000 then some (areaWord s.chk.retInsts 80 (off - 0x1000))
  else if 0x6000 ≤ off ∧ off < 0x6800 then some (areaWord s.chk.retLeases 32 (off - 0x6000))
  else if 0x8000 ≤ off ∧ off < 0xA000 then some (areaWord s.chk.log.toList 32 (off - 0x8000))
  else
    match off with
    | 0x000 => some 0x31004000
    | 0x004 =>
      let i := checkInst s
      some (validWord s.chk.withdrawn (bit (s.seq.insts.any fun i => i.st == .replayPending) * 2 ^ 30
        + (i.map (·.replays)).getD 0 % 4 * 2 ^ 24 + (i.map (·.scene)).getD 0 % 4096 * 2 ^ 12))
    | 0x008 => some s.chk.events.toNat
    | 0x00C => some s.chk.nReplay.toNat
    | 0x010 =>
      some (s.chk.corrS.toNat * 2 ^ 24 + s.chk.corrF.toNat * 2 ^ 16 + s.chk.corrT.toNat * 2 ^ 8 + s.chk.corrC.toNat)
    | 0x020 =>
      some (s.chk.cfgState.toNat * 2 ^ 28 + s.chk.cfgCopy.toNat * 2 ^ 26 + s.chk.cfgValid.toNat * 2 ^ 16
        + s.chk.cfgGen.toNat)
    | 0x100 =>
      some (validWord s.chk.retValid (bit s.chk.retUnq * 2 ^ 30 + s.chk.retInsts.length * 2 ^ 16 + s.chk.retLeases.length))
    | 0x104 => some (s.chk.causeSrc.toNat * 2 ^ 16 + s.chk.causeCode.toNat)
    | 0x200 => some (s.chk.lost.toNat * 2 ^ 16 + s.chk.head.toNat)
    | _ => none

/-- The load of the running instance (PWR_CAP.LOAD). -/
def runningLoad (s : State) : Nat :=
  match s.seq.insts.find? fun i => i.st == .running with
  | some i => ((sceneOf s i).map (sceneLoad s)).getD 0
  | none => 0

/-- The limit of R415 is in force. -/
def limited (s : State) : Bool := s.pwr.throttle || s.pwr.thermal

/-- PWR (Table 16-8). -/
def pwrReg (s : State) (off : Nat) : Option Nat :=
  match off with
  | 0x000 => some (0x640000 + s.pwr.capin.toNat * 2 ^ 8 + runningLoad s % 256)
  | 0x004 =>
    some (bit s.pwr.thermal * 8 + bit (limited s) * 4 + (if !s.boot.released then 2 else if s.pwr.idle then 1 else 0))
  | 0x008 => some s.pwr.period.toNat
  | 0x010 => some s.pwr.tickNum.toNat
  | 0x018 => some (s.pwr.jump.toNat * 2 ^ 16 + s.pwr.stale.toNat * 2 ^ 8 + s.pwr.missing.toNat)
  | 0x01C => some (s.pwr.tempLimit.toNat * 2 ^ 16 + s.pwr.tempNow.toNat)
  | 0x020 => some s.pwr.currNow.toNat
  | 0x024 => some s.pwr.thrCnt.toNat
  | _ => none

/-- PERF (Table 18-3). -/
def perfReg (s : State) (off : Nat) : Option Nat :=
  if 0x100 ≤ off ∧ off < 0x180 ∧ off % 4 = 0 then
    some (s.perf.sel[(off - 0x100) / 4 % 32]'(Nat.mod_lt _ (by decide))).toNat
  else if 0x200 ≤ off ∧ off < 0x300 ∧ off % 8 = 0 then
    some (s.perf.cnt[(off - 0x200) / 8 % 32]'(Nat.mod_lt _ (by decide))).toNat
  else
    match off with
    | 0x000 => some 0x4020
    | 0x004 => some (bit s.perf.scene * 8 + bit s.perf.freeze * 2 + bit s.perf.en)
    | 0x008 => some s.perf.cycles.toNat
    | _ => none

/-- SEC (Table 16-8). -/
def secReg (s : State) (off : Nat) : Option Nat :=
  if off < 0x30 then some (byteField s.boot.keyhash off 4)
  else
    match off with
    | 0x30 => some (bit s.boot.fuseErr * 4 + s.boot.dbgfuse.toNat)
    | 0x34 => some (s.pwr.dbgReq.toNat * 16 + debugState s)
    | _ => none

/-- DBG (Table 18-4). -/
def dbgReg (s : State) (off : Nat) : Option Nat :=
  match off with
  | 0x00 => some 0xF
  | 0x04 =>
    some (queueCount s .m * 2 ^ 27 + queueCount s .v * 2 ^ 21 + queueCount s .d * 2 ^ 15 + min (rangesHeld s) 64 * 2 ^ 8)
  | 0x08 =>
    match s.seq.run with
    | some r => some (if s.seq.insts.any fun i => i.uid == r.uid && i.st == .running then r.pc else 0)
    | none => some 0
  | 0x10 => some (s.dbg.tile.toNat * 2 ^ 8 + s.dbg.slice.toNat * 2 ^ 4 + s.dbg.tgt.toNat)
  | 0x14 => some (s.dbg.addr.toNat * 4)
  | 0x18 => some 0
  | 0x1C => some s.dbg.data.toNat
  | 0x20 => some s.dbg.result.toNat
  | _ => none

/-- The value of the register that starts at an offset, by block (Tables 18-1, 18-2). -/
def csrValue (s : State) (off : Nat) : Option Nat :=
  if off % 4 ≠ 0 then none
  else
    match off / 65536 with
    | 0x00 => identReg s off
    | 0x01 => mbxReg s .mgmt (off % 65536)
    | 0x02 => seqReg s (off % 65536)
    | 0x03 => matReg s (off % 65536)
    | 0x04 => vecReg s (off % 65536)
    | 0x05 => strmReg s (off % 65536)
    | 0x06 => xltReg s (off % 65536)
    | 0x07 => revReg s (off % 65536)
    | 0x08 => updReg s (off % 65536)
    | 0x09 => chkReg s (off % 65536)
    | 0x0A => pwrReg s (off % 65536)
    | 0x0B => perfReg s (off % 65536)
    | 0x0C => secReg s (off % 65536)
    | 0x10 => dbgReg s (off % 65536)
    | _ => none

/-- The register that starts at an offset is 64 bits wide (Table 18-2). -/
def csrWide (off : Nat) : Bool :=
  [0x1000, 0x1008, 0x1010, 0x1018, 0x50008, 0x50010, 0x60008, 0x60100, 0x70008, 0xA0010, 0xB0008].contains off
    || decide (0x50300 ≤ off ∧ off < 0x50370 ∧ off % 8 = 0) || decide (0xB0200 ≤ off ∧ off < 0xB0300 ∧ off % 8 = 0)

/-! ## Writes (R11, R12) -/

/-- Bits of a register that must be 0 in a write: the reserved bits of each register that holds an RW, W1C or WO field;
none for a register whose fields are all RO or RC (R11). -/
def csrReserved (off : Nat) : Option Nat :=
  if 0x50300 ≤ off ∧ off < 0x50370 ∧ off % 8 = 0 then some 0xFFF000000000003F
  else if 0xB0100 ≤ off ∧ off < 0xB0180 then some 0xFFFF0000
  else
    match off with
    | 0x10010 => some 0x7FFF0000
    | 0x10030 => some 0xFFFFFFF0
    | 0x10034 => some 0xFFFFFFF0
    | 0x20010 => some 0x70000000
    | 0x30100 => some 0xFFFFFFF0
    | 0x3020C => some 0x7FF8F800
    | 0x40100 => some 0xFFFFFFF0
    | 0x40200 => some 0x78000000
    | 0x50410 => some 0x7FC00000
    | 0x60008 => some 0xFFF0000000000FFE
    | 0x60010 => some 0xFFFFFFFE
    | 0x60108 => some 0x7FFFF000
    | 0x70018 => some 0x7FFE0000
    | 0x80100 => some 0xFFFFFFF0
    | 0x80200 => some 0x7CFF0000
    | 0xA0008 => some 0xFFFFF800
    | 0xA001C => some 0xFC00FC00
    | 0xB0004 => some 0xFFFFFFF0
    | 0xC0034 => some 0xFFFFFFCC
    | 0x100010 => some 0xFFFFF0C8
    | 0x100014 => some 0xFE000003
    | 0x100018 => some 0xFFFFFFFE
    | _ => none

/-- The event codes of 19 Table 19-2 (R447, R454). -/
def eventCode (e : Nat) : Bool :=
  e == 0 || decide (0x101 ≤ e ∧ e ≤ 0x10A) || decide (0x201 ≤ e ∧ e ≤ 0x205) || decide (0x301 ≤ e ∧ e ≤ 0x30B)
    || decide (0x401 ≤ e ∧ e ≤ 0x403) || decide (0x501 ≤ e ∧ e ≤ 0x507) || decide (0x601 ≤ e ∧ e ≤ 0x602)
    || decide (0x701 ≤ e ∧ e ≤ 0x704) || e == 0x801

/-- The last byte address of a debug target (R451). -/
def dbgLimit (tgt : Nat) : Nat :=
  match tgt with
  | 0 => 0x1FFFFFC
  | 1 => 0xFFFFC
  | 2 => 0xFFFC
  | _ => 0x3FFFC

/-- Values that a field refuses (R8, R11, R417, R447, R450, R451). -/
def csrIllegal (s : State) (off v : Nat) : Bool :=
  if 0xB0100 ≤ off ∧ off < 0xB0180 then !eventCode (v % 65536)
  else
    match off with
    | 0xA0008 => decide (v % 2048 < 25 ∨ 2000 < v % 2048)
    | 0xC0034 => decide (v / 16 % 4 = 3)
    | 0x100010 => decide (4 ≤ v % 8)
    | 0x100014 => decide (dbgLimit s.dbg.tgt.toNat < v)
    | _ => false

/-- An instance is RUNNING or DRAINING, or something is suspended: the masks and XLT_ROOT keep their values (10, R274). -/
def maskLocked (s : State) : Bool := s.seq.insts.any instActive || suspBits s != 0

/-- Bits that a W1C field keeps. -/
def w1c {w : Nat} (x : BitVec w) (v : Nat) : BitVec w := x &&& ~~~(BitVec.ofNat w v)

/-- The word that a debug read of a target returns (18, R451): bytes of invalid lines 0, +0 in a ZERO row. -/
def dbgWord (s : State) (tgt a : Nat) : Word :=
  match tgt with
  | 0 => BitVec.ofNat 32 (leNat (padRead s.pad a 4))
  | 1 => BitVec.ofNat 32 (firnWord (firnRow s s.dbg.slice.toNat (a / 512)) (a % 512 / 4))
  | 2 => BitVec.ofNat 32 (tileRead (getT s s.dbg.tile) a 4)
  | _ => Config.sramWord s.dbg.freeCount (BitVec.ofNat 16 (a / 4))

/-- The locations whose words a debug read of a target returns: no bytes of an invalid line, no words of a ZERO row. -/
def dbgPlace (s : State) (tgt a : Nat) (p : Place) : Bool :=
  match tgt, p with
  | 0, .pad w => w == a / 8
  | 1, .firn b r => b == s.dbg.slice.toNat && r == a / 512
  | 2, .tile t l => t == s.dbg.tile.toNat && l == a / 1024
  | 0, .sram _ | 1, .sram _ | 2, .sram _ => false
  | _, .sram w => w == a / 4
  | _, _ => false

/-- DBG_MEMSTAT.RESULT of a read that is performed: 3 where an error that cannot be corrected lies, 2 where only errors that
can lie, otherwise 1 (R451). -/
def dbgResult (s : State) (tgt a : Nat) : BitVec 3 :=
  let met := s.chk.marks.filter fun m => dbgPlace s tgt a m.place
  if met.any (·.hard) then 3 else if met.isEmpty then 1 else 2

/-- DBG_MEMCMD.GO (18, R451); a scratchpad read uses stream data (04 Table 4-7; 19 R455). -/
def dbgGo (s : State) : State :=
  let a := s.dbg.addr.toNat * 4
  let st := seqState s
  if debugState s ≠ 2 ∨ st = 1 ∨ st = 2 ∨ s.ctl.wipe.isSome ∨ dbgLimit s.dbg.tgt.toNat < a then
    { s with dbg := { s.dbg with result := 4, data := 0 } }
  else
    let n := if s.dbg.tgt = 3 then s.dbg.freeCount + 1 else s.dbg.freeCount
    let t := if s.dbg.tgt = 0 then padUse s a 4 else s
    { t with dbg := { s.dbg with result := dbgResult s s.dbg.tgt.toNat a, data := dbgWord s s.dbg.tgt.toNat a, freeCount := n } }

/-- PERF_CTL (18, R447, R449). -/
def perfCtl (p : Perf) (v : Nat) : Perf :=
  let p := { p with en := v.testBit 0, freeze := v.testBit 1, scene := v.testBit 3 }
  if v.testBit 2 then { p with cycles := 0, cnt := Vector.replicate 32 0 } else p

/-- The effect of an accepted write of a register that holds an RW, W1C or WO field. -/
def csrApply (s : State) (off v : Nat) : State :=
  let top := v.testBit 31
  if 0x50300 ≤ off ∧ off < 0x50340 then
    let m := s.strm.pgmask.set ((off - 0x50300) / 8 % 8) (BitVec.ofNat 46 (v / 64)) (Nat.mod_lt _ (by decide))
    { s with strm := { s.strm with pgmask := m } }
  else if 0x50340 ≤ off ∧ off < 0x50370 then
    let m := s.strm.bkmask.set ((off - 0x50340) / 8 % 6) (BitVec.ofNat 46 (v / 64)) (Nat.mod_lt _ (by decide))
    { s with strm := { s.strm with bkmask := m } }
  else if 0xB0100 ≤ off ∧ off < 0xB0180 then
    let m := s.perf.sel.set ((off - 0xB0100) / 4 % 32) (BitVec.ofNat 16 v) (Nat.mod_lt _ (by decide))
    { s with perf := { s.perf with sel := m } }
  else
    match off with
    | 0x10010 => if top then { s with ctl := { s.ctl with csrValid := false } } else s
    | 0x10030 => { s with ctl := { s.ctl with irqStat := w1c s.ctl.irqStat v } }
    | 0x10034 => { s with ctl := { s.ctl with irqEn := BitVec.ofNat 4 v } }
    | 0x20010 => if top then { s with seq := { s.seq with fault := { s.seq.fault with valid := false } } } else s
    | 0x30100 => { s with mat := { s.mat with numstat := w1c s.mat.numstat v } }
    | 0x3020C => if top then { s with mat := { s.mat with chkLast := { s.mat.chkLast with valid := false } } } else s
    | 0x40100 => { s with vec := { s.vec with numstat := w1c s.vec.numstat v } }
    | 0x40200 => if top then { s with vec := { s.vec with faultLast := { s.vec.faultLast with valid := false } } } else s
    | 0x50410 => if top then { s with strm := { s.strm with errLast := { s.strm.errLast with valid := false } } } else s
    | 0x60008 =>
      tlbClear { s with strm := { s.strm with rootEn := v.testBit 0, rootAddr := BitVec.ofNat 40 (v / 4096) } }
    | 0x60010 => if v.testBit 0 then { s with strm := { s.strm with inval := true } } else s
    | 0x60108 => if top then { s with strm := { s.strm with fault := { s.strm.fault with valid := false } } } else s
    | 0x70018 => if top then { s with rev := { s.rev with linkLast := { s.rev.linkLast with valid := false } } } else s
    | 0x80100 => { s with upd := { s.upd with numstat := w1c s.upd.numstat v } }
    | 0x80200 => if top then { s with upd := { s.upd with last := { s.upd.last with valid := false } } } else s
    | 0xA0008 => { s with pwr := { s.pwr with period := BitVec.ofNat 11 v } }
    | 0xA001C => { s with pwr := thermalNext { s.pwr with tempLimit := BitVec.ofNat 10 (v / 65536) } }
    | 0xB0004 => { s with perf := perfCtl s.perf v }
    | 0xC0034 => { s with pwr := { s.pwr with dbgReq := BitVec.ofNat 2 (v / 16) } }
    | 0x100010 =>
      { s with dbg := { s.dbg with
          tile := BitVec.ofNat 4 (v / 256), slice := BitVec.ofNat 2 (v / 16), tgt := BitVec.ofNat 3 v } }
    | 0x100014 => { s with dbg := { s.dbg with addr := BitVec.ofNat 23 (v / 4) } }
    | 0x100018 => if v.testBit 0 then dbgGo s else s
    | _ => s

/-- A write of the mailbox registers that act (Table 15-9), by the offset in the mailbox. -/
def mbxWrite (s : State) (m : Mbx) (off : Nat) (v : Word) : Option Written :=
  if 0x100 ≤ off ∧ off < 0x500 then some (slotWrite s m (off - 0x100) v)
  else
    match off with
    | 0x04 => some (doorbell s m v)
    | 0x08 => some (acknowledge s m v)
    | 0x24 => some (ntcTail s m v)
    | _ => none

/-- The two ports to the CSR window (R434). -/
inductive CsrSide where
  | mg
  | dp
deriving DecidableEq, Repr, Inhabited

/-- A doorbell marks the slot with the port that it came through (15, R372). -/
def markPort (p : CsrSide) (off : Nat) (v : Word) (w : Written) : Written :=
  match w with
  | (none, s) =>
    if off = 0x10004 then (none, { s with ctl := { s.ctl with dport := bvSet s.ctl.dport (v.toNat % 8) (p == .dp) } }) else w
  | _ => w

/-- A write of a whole register through a port: rejected with a status, or performed; a register whose fields are all RO or RC ignores
it (R11, 10 R274). -/
def csrPut (s : State) (p : CsrSide) (off v : Nat) : Written :=
  let mbx : Option Written := if off / 65536 = 1 then mbxWrite s .mgmt (off % 65536) (BitVec.ofNat 32 v) else none
  match mbx with
  | some w => markPort p off (BitVec.ofNat 32 v) w
  | none =>
    match csrReserved off with
    | none => (none, s)
    | some r =>
      if v &&& r ≠ 0 ∨ csrIllegal s off v then (some eBadval, s)
      else if ((0x50300 ≤ off ∧ off < 0x50370) ∨ off = 0x60008) ∧ maskLocked s then (some eBadstate, s)
      else (none, csrApply s off v)

/-! ## Accesses of a port (R12, R433, R434) -/

/-- The access state of a port. -/
def getCsrPort (s : State) (p : CsrSide) : CsrPort :=
  match p with
  | .mg => s.dbg.mg
  | .dp => s.dbg.dp

/-- The access state of a port changed. -/
def setCsrPort (s : State) (p : CsrSide) (f : CsrPort → CsrPort) : State :=
  match p with
  | .mg => { s with dbg := { s.dbg with mg := f s.dbg.mg } }
  | .dp => { s with dbg := { s.dbg with dp := f s.dbg.dp } }

/-- A rejection recorded in MBX_CSR_STATUS and MBX_CSR_ADDR, with MBX_IRQ_STAT.CSRERR (R11, R391). -/
def csrReject (s : State) (off : Nat) (c : Code) : State :=
  irqSet { s with ctl := { s.ctl with csrValid := true, csrCode := c, csrAddr := BitVec.ofNat 24 off } } 8

/-- An access answered: its read data, and MG_ERR for E_BADVAL (R433). -/
def csrAnswer (s : State) (p : CsrSide) (off : Nat) (v : Nat) (c : Option Code) : State :=
  let s := match c with
    | some c => csrReject s off c
    | none => s
  setCsrPort s p fun q => { q with rdata := BitVec.ofNat 32 v, err := c == some eBadval }

/-- A register is written: the pending low word of any other register is discarded (R12). -/
def dropLow (s : State) (p : CsrSide) (reg : Nat) : State :=
  setCsrPort s p fun q => { q with low := q.low.filter fun l => l.1 == reg }

/-- A write answered: performed, or rejected with all state unchanged but the record (R6). -/
def csrWritten (s : State) (p : CsrSide) (off reg : Nat) (w : Written) : State :=
  match w.1 with
  | none => csrAnswer (dropLow w.2 p reg) p off 0 none
  | some c => csrAnswer s p off 0 (some c)

/-- A write of a word through a port (R11, R12, R433). -/
def csrWriteAt (s : State) (p : CsrSide) (off : Nat) (v : Word) : State :=
  if !clusterUp s then setCsrPort s p fun q => { q with rdata := 0, err := true }
  else if csrWide off then
    csrAnswer (setCsrPort s p fun q => { q with low := some (off, v) }) p off 0 none
  else if off % 8 = 4 ∧ csrWide (off - 4) then
    let reg := off - 4
    match (getCsrPort s p).low.filter fun l => l.1 == reg with
    | some l =>
      let w := csrPut s p reg (l.2.toNat + v.toNat * 2 ^ 32)
      csrWritten s p off reg (w.1, setCsrPort w.2 p fun q => { q with low := none })
    | none => csrAnswer s p off 0 (some eBadval)
  else if (csrValue s off).isNone then csrAnswer s p off 0 (some eBadval)
  else csrWritten s p off off (csrPut s p off v.toNat)

/-- A read of a word through a port (R12, R433, R445). -/
def csrReadAt (s : State) (p : CsrSide) (off : Nat) : State :=
  if !clusterUp s then setCsrPort s p fun q => { q with rdata := 0, err := true }
  else
    match csrValue s off with
    | some v =>
      let s := if csrWide off then
          setCsrPort s p fun q =>
            { q with high := (off, BitVec.ofNat 32 (v / 2 ^ 32)) :: q.high.filter fun l => l.1 != off }
        else if off = 0x90010 then { s with chk := { s.chk with corrS := 0, corrF := 0, corrT := 0, corrC := 0 } }
        else s
      csrAnswer s p off v none
    | none =>
      if off % 8 = 4 ∧ csrWide (off - 4) then
        let now := ((csrValue s (off - 4)).getD 0) / 2 ^ 32
        let hi := (((getCsrPort s p).high.find? fun l => l.1 == off - 4).map fun l => l.2.toNat).getD now
        csrAnswer (setCsrPort s p fun q => { q with high := q.high.filter fun l => l.1 != off - 4 }) p off hi none
      else csrAnswer s p off 0 (some eBadval)

/-- The word that an offset names: bits [1:0] of an offset are not carried (18). -/
def wordOff (off : BitVec 24) : Nat := off.toNat / 4 * 4

/-! ## The commands -/

/-- CSR_WRITE over the management port. -/
def execCsrWrite (off : BitVec 24) (v : Word) (s : State) : Host.Outcome State Fault Refusal :=
  .next (csrWriteAt s .mg (wordOff off) v)

/-- CSR_READ over the management port. -/
def execCsrRead (off : BitVec 24) (s : State) : Host.Outcome State Fault Refusal :=
  .next (csrReadAt s .mg (wordOff off))

/-- MBX_DOORBELL: the write of 0x01_0004. -/
def execMbxDoorbell (v : Word) (s : State) : Host.Outcome State Fault Refusal := .next (csrWriteAt s .mg 0x10004 v)

/-- MBX_ACK: the write of 0x01_0008. -/
def execMbxAck (v : Word) (s : State) : Host.Outcome State Fault Refusal := .next (csrWriteAt s .mg 0x10008 v)

/-- MBX_SLOT_WRITE: the write of a word of the slot area at 0x01_0100. -/
def execMbxSlotWrite (off : BitVec 10) (v : Word) (s : State) : Host.Outcome State Fault Refusal :=
  .next (csrWriteAt s .mg (0x10100 + off.toNat / 4 * 4) v)

/-- MBX_NTC_TAIL: the write of 0x01_0024. -/
def execMbxNtcTail (v : Word) (s : State) : Host.Outcome State Fault Refusal := .next (csrWriteAt s .mg 0x10024 v)

/-- XLT_INVAL: the write of 0x06_0010. -/
def execXltInval (v : Word) (s : State) : Host.Outcome State Fault Refusal := .next (csrWriteAt s .mg 0x60010 v)

/-- XLT_INVAL_COMPLETE: the TLB is empty, walks in progress start again, and BUSY clears (10, R267, R274). -/
def execXltInvalComplete (s : State) : Host.Outcome State Fault Refusal :=
  if s.strm.inval then .next (tlbClear { s with strm := { s.strm with inval := false } }) else .next s

/-- PERF_CLEAR: the write of PERF_CTL at 0x0B_0004 (18, R449). -/
def execPerfClear (v : Word) (s : State) : Host.Outcome State Fault Refusal := .next (csrWriteAt s .mg 0xB0004 v)

/-- DBG_MEMCMD: the write of 0x10_0018 (18, R451). -/
def execDbgMemcmd (v : Word) (s : State) : Host.Outcome State Fault Refusal := .next (csrWriteAt s .mg 0x100018 v)

end Sys2Proof.Machine
end

