-- ==== Sys2Proof/Machine/Epilogue.lean ====
section
/-! DEFINITION. Group 0x5F: the epilogue output path, row statistics and the Firn rescale (08, R193 to R212). -/

namespace Sys2Proof.Machine

open Sys2Proof

/-! ## VOUT (R195 to R197) -/

/-- The source format of VOUT: FP32 or INT32. -/
def voutSrc (w : VecWord) : Fmt := if w.t = 1 then .int32 else .fp32

/-- The converted code of element `i` and its flags (R195). -/
def voutElem (s : State) (w : VecWord) (i : Nat) : Nat × Flags :=
  tensorConvert (voutSrc w) (vfmt w.t2) w.sat (vElem (getV s w.va) 32 i)

/-- The flags of the active elements below E. -/
def voutFlags (s : State) (w : VecWord) (e : Nat) : Flags :=
  orFlags (((List.range e).filter fun i => (getK s w.km).getLsbD i).map fun i => (voutElem s w i).2)

/-- VOUT to a buffer (R196). DESIGN CHOICE (log 47): MZ 1 changes nothing here; R196 leaves the bytes of inactive elements as they
are, whatever Table 7-2 says of inactive elements of a register. -/
def voutBuf (w : VecWord) (x : VoutExt) (s : State) (_ : Run) (i : Inst) : Verdict :=
  let b := elemBytes w.t2.toNat
  let f4 := w.t2 == 6
  let e := vecE s 32
  let off := offVal s x.or_ x.off
  let k := getK s w.km
  match memCheck k e f4 off b b (bufBytes s i.uid x.h.toNat) with
  | some (n, c) => .vecFault n c
  | none =>
    if rngsBusy s s.seq.nextUid [memRng s i.uid x.h e f4 off b b true] then .waitFor [memRng s i.uid x.h e f4 off b b true]
    else .go (raiseVec (memPutElems s i.uid x.h k e f4 off b b fun n => (voutElem s w n).1) (voutFlags s w e))

/-- VOUT to a storage row of a tile register (R197). -/
def voutTile (w : VecWord) (x : VoutExt) (s : State) (_ : Run) (_ : Inst) : Verdict :=
  let t := getT s x.tt
  let e := vecE s 32
  let row := offVal s x.or_ x.off
  if w.t2.toNat ≠ t.fmt.toNat ∨ row < 0 ∨ (shapeRows t.shape : Int) ≤ row ∨ shapeCols t.shape < e then
    .vecFault 0 eTshape
  else if rngsBusy s s.seq.nextUid [rTile x.tt true] then .waitFor [rTile x.tt true]
  else
    let k := getK s w.km
    let rb := rowBytes t.shape t.fmt
    let codes := tabulate (shapeCols t.shape) fun n => if n < e ∧ k.getLsbD n then (voutElem s w n).1 else 0
    .go (raiseVec (putTile s x.tt (tileWrite t (row.toNat * rb) rb (pack (tileBits t.fmt) codes)) (row.toNat * rb) rb) (voutFlags s w e))

def execVout (w : VecWord) (x : VoutExt) (s : State) : Host.Outcome State Fault Refusal :=
  vecIssue s (.vout w x) (offRegs x.or_ x.off) (if x.dk = 0 then voutBuf w x else voutTile w x)

/-! ## Row statistics (R199 to R202) -/

/-- A word of a row when its SET bit is 1. -/
def statWord (x : StatRow) (j : Nat) : Option Nat :=
  if x.set.getLsbD j then
    some ((match j with
      | 0 => x.w0
      | 1 => x.w1
      | 2 => x.w2
      | _ => x.w3).toNat)
  else none

/-- A row with word `j` written and its SET bit set. -/
def setStatWord (x : StatRow) (j v : Nat) : StatRow :=
  let y := { x with set := bvSet x.set j true }
  match j with
  | 0 => { y with w0 := BitVec.ofNat 32 v }
  | 1 => { y with w1 := BitVec.ofNat 32 v }
  | 2 => { y with w2 := BitVec.ofNat 32 v }
  | _ => { y with w3 := BitVec.ofNat 32 v }

/-- A row of statistics written: no storage error lies there any more (14, R351). -/
def putStatRow (s : State) (r : Nat) (x : StatRow) : State := dropMarks (setStatRow s r x) (· == .firn 4 r)

/-- W0 to W3 as VSRD writes them, +0 for an absent word (R200). -/
def statLanes (x : StatRow) : Nat := pack 32 (tabulate 4 fun j => (statWord x j).getD 0)

def execVsrd (w : VecWord) (r : RowOp) (x : VsrdExt) (s : State) : Host.Outcome State Fault Refusal :=
  vecIssue s (.vsrd w r x) (rowRegs r) fun s _ i =>
    let v := rowVal s r
    if rowBad v then .vecFault 0 eBadval
    else if rngsBusy s s.seq.nextUid [rFirn v.toNat 1 false] then .waitFor [rFirn v.toNat 1 false]
    else
      let st := statRow s v.toNat
      if x.fin && st.cnt != x.nb then .vecFault st.cnt.toNat eStatopen
      else .go (setV (firnTake s i.uid 4 v.toNat) w.vd (bvPut (getV s w.vd) 0 160
        (statLanes st + (st.cnt.toNat * 16 + st.set.toNat) * 2 ^ 128)))

/-- Lanes 0 to 3 and the SET and CNT bits of lane 4 of VA as a row (R201). -/
def statOfLanes (v : VReg) : StatRow :=
  let l := fun j => BitVec.ofNat 32 (vElem v 32 j)
  ⟨l 0, l 1, l 2, l 3, BitVec.ofNat 4 (vElem v 32 4), BitVec.ofNat 8 (vElem v 32 4 / 16)⟩

def execVswr (w : VecWord) (r : RowOp) (s : State) : Host.Outcome State Fault Refusal :=
  vecIssue s (.vswr w r) (rowRegs r) fun s _ _ =>
    let v := rowVal s r
    if rowBad v then .vecFault 0 eBadval
    else if rngsBusy s s.seq.nextUid [rFirn v.toNat 1 true] then .waitFor [rFirn v.toNat 1 true]
    else .go (putStatRow s v.toNat (statOfLanes (getV s w.va)))

/-- FP32 under RNE, for the merge modes. -/
def mAdd : Nat → Nat → Nat × Flags := fpAdd .fp32 .rne
def mSub : Nat → Nat → Nat × Flags := fpSub .fp32 .rne
def mMul : Nat → Nat → Nat × Flags := fpMul .fp32 .rne
def mDiv : Nat → Nat → Nat × Flags := fpDiv .fp32 .rne
def mFma : Nat → Nat → Nat → Nat × Flags := fpFma .fp32 .rne false false
def mMax : Nat → Nat → Nat × Flags := fpMinMax .fp32 true

/-- `1.0` where the bits of `x` and the maximum agree, otherwise `exp2(rne(x - m))` (R202). -/
def mCorrect (x m : Nat) : Nat × Flags :=
  if x = m then (0x3F800000, 0)
  else
    let (d, f1) := mSub x m
    let (y, f2) := fpTrans .exp2 d
    (y, f1 ||| f2)

/-- Mode MV on a row whose W0 holds a value (R202). -/
def mergeMv (x : StatRow) (w0 a0 a1 a2 : Nat) : StatRow × Flags :=
  let w1 := (statWord x 1).getD 0
  let w2 := (statWord x 2).getD 0
  let (n, f1) := mAdd w0 a0
  if fpIsZero .fp32 n then (x, f1)
  else
    let (d, f2) := mSub a1 w1
    let (q, f3) := mDiv a0 n
    let (t, f4) := mMul w0 q
    let (w1', f5) := mFma d q w1
    let (dd, f6) := mMul d d
    let (p, f7) := mAdd w2 a2
    let (w2', f8) := mFma dd t p
    (setStatWord (setStatWord (setStatWord x 1 w1') 2 w2') 0 n, orFlags [f1, f2, f3, f4, f5, f6, f7, f8])

/-- The merge modes of Table 8-5. -/
def mergeRow (x : StatRow) (mode wi : Nat) (a0 a1 a2 : Nat) : StatRow × Flags :=
  match mode with
  | 0 =>
    match statWord x wi with
    | none => (setStatWord x wi a0, 0)
    | some w =>
      let (m, fl) := mMax w a0
      (setStatWord x wi m, fl)
  | 1 =>
    match statWord x wi with
    | none => (setStatWord x wi a0, 0)
    | some w =>
      let (m, fl) := mAdd w a0
      (setStatWord x wi m, fl)
  | 2 =>
    match statWord x 0 with
    | none => (setStatWord (setStatWord x 0 a0) 2 0x3F800000, 0)
    | some w0 =>
      let (m, f1) := mMax w0 a0
      let (c, f2) := mCorrect w0 m
      (setStatWord (setStatWord x 2 c) 0 m, f1 ||| f2)
  | 3 =>
    match statWord x 1 with
    | none => (setStatWord x 1 a0, 0)
    | some w1 =>
      let (v, fl) := mFma w1 ((statWord x 2).getD 0x3F800000) a0
      (setStatWord x 1 v, fl)
  | 4 =>
    match statWord x 0, statWord x 1 with
    | some w0, some w1 =>
      let (m, f1) := mMax w0 a0
      let (c, f2) := mCorrect w0 m
      let (y, f3) := mCorrect a0 m
      let (p, f4) := mMul a1 y
      let (v, f5) := mFma w1 c p
      (setStatWord (setStatWord x 1 v) 0 m, orFlags [f1, f2, f3, f4, f5])
    | _, _ => (setStatWord (setStatWord x 0 a0) 1 a1, 0)
  | _ =>
    match statWord x 0 with
    | none => (setStatWord (setStatWord (setStatWord x 0 a0) 1 a1) 2 a2, 0)
    | some w0 => mergeMv x w0 a0 a1 a2

def execVsmrg (w : VecWord) (r : RowOp) (x : VsmrgExt) (s : State) : Host.Outcome State Fault Refusal :=
  vecIssue s (.vsmrg w r x) (rowRegs r) fun s _ i =>
    let v := rowVal s r
    if rowBad v then .vecFault 0 eBadval
    else if rngsBusy s s.seq.nextUid [rFirn v.toNat 1 true] then .waitFor [rFirn v.toNat 1 true]
    else
      let s := firnTake s i.uid 4 v.toNat
      let a := fun j => vElem (getV s w.va) 32 j
      let (y, fl) := mergeRow (statRow s v.toNat) x.mode.toNat x.wi.toNat (a 0) (a 1) (a 2)
      let y := if x.inc && y.cnt != 255 then { y with cnt := y.cnt + 1 } else y
      .go (raiseVec (setV (putStatRow s v.toNat y) w.vd (bvPut (getV s w.vd) 0 128 (statLanes y))) fl)

/-! ## VSCLF (R208) -/

/-- A row scaled by a factor, and its flags (R208). DESIGN CHOICE (log 47): the flags are those of the 128 word products; the
roundings of CHK and ABS raise none. -/
def scaleRow (x : FirnRow) (f : Nat) : FirnRow × Flags :=
  if x.zero then (x, 0)
  else
    let rs := (rowWords x).map fun c => mMul c f
    ({ x with words := BitVec.ofNat 4096 (pack 32 (rs.map (·.1)))
              chk := BitVec.ofNat 32 (mMul x.chk.toNat f).1
              abs := BitVec.ofNat 32 (fpMul .fp32 .rup x.abs.toNat (fpAbs .fp32 f)).1
              blk := blkNext x.blk, checked := false },
     orFlags (rs.map (·.2)))

/-- Row `row` of the slices of AM compared and scaled (R208). -/
def scaleSlices (s : State) (am : BitVec 4) (row f uid : Nat) : State :=
  ((List.range 4).filter fun a => am.getLsbD a).foldl (fun s a =>
    let s := checkRead s a row uid
    let (y, fl) := scaleRow (firnRow s a row) f
    raiseVec (putFirnRow s a row y) fl) s

/-- VSCLF. DESIGN CHOICE (log 47): of several INT32 rows the lowest is the row that VEC_FAULTLAST records (R211). -/
def execVsclf (w : VecWord) (r : RowOp) (x : VsclfExt) (s : State) : Host.Outcome State Fault Refusal :=
  vecIssue s (.vsclf w r x) (rowRegs r) fun s _ i =>
    let v := rowVal s r
    if v < 0 ∨ 2047 < v + x.nr.toNat then .vecFault 0 eBadval
    else
      let base := v.toNat
      let n := x.nr.toNat + 1
      if rngsBusy s s.seq.nextUid [rFirn base n true] then .waitFor [rFirn base n true]
      else
        let bad := (List.range n).find? fun m => (List.range 4).any fun a =>
          let y := firnRow s a (base + m)
          x.am.getLsbD a && !y.zero && y.isInt
        match bad with
        | some m => .vecFault (base + m) eTshape
        | none =>
          .go ((List.range n).foldl (fun s m =>
            scaleSlices s x.am (base + m) ((statWord (statRow s (base + m)) x.ws.toNat).getD 0x3F800000) i.uid)
              ((List.range n).foldl (fun s m => firnTake s i.uid 4 (base + m)) s))

end Sys2Proof.Machine
end

