-- ==== Sys2Proof/Machine/Response.lean ====
section
/-! DEFINITION. Responses of the fabric port (12 R458, Table 12-8; 17 R425; 16 R402): walks (10, R265 to R268), and what each
answer does. -/

namespace Sys2Proof.Machine

open Sys2Proof

/-! ## Walks (10, R265 to R268) -/

/-- The activity that a walk translates for still waits for it. -/
def walkLive (s : State) (w : Walk) : Bool :=
  match w.for_ with
  | .stream id => s.strm.streams.any fun st => st.id == id && st.walking
  | .aside tag => s.strm.asides.any fun a => a.tag == tag && a.walking && some a.uid == w.uid
  | .upd => s.upd.cur.any fun u => u.walking && some u.uid == w.uid
  | .updWrite key => s.upd.writes.any fun x => x.key == key && x.walking
  | .fill _ => s.seq.run.any fun r => r.fetching && some r.uid == w.uid
  | .load => s.ctl.load.any (·.walking)

/-- A walk leaves the walker. -/
def dropWalk (s : State) (w : Walk) : State :=
  { s with strm := { s.strm with walks := s.strm.walks.filter fun x => x.n != w.n } }

/-- A walk has ended: its activity is no longer walking. -/
def walkClear (s : State) (w : Walk) : State :=
  let s := dropWalk s w
  match w.for_ with
  | .stream id => setStream s id fun st => { st with walking := false }
  | .aside tag => setAside s tag fun a => { a with walking := false }
  | .upd => setUpd s fun u => { u with walking := false }
  | .updWrite key => setUpdWrite s key fun x => { x with walking := false }
  | .fill _ => s
  | .load => setLoad s fun j => { j with walking := false }

/-- A failed walk suspends what it translates for, or ends the run of a fill, or LOAD (R268, 15 R370, R377). -/
def walkFault (s : State) (w : Walk) (level reason : Nat) : State :=
  let uid := w.uid.getD 0
  match w.for_ with
  | .stream id =>
    match s.strm.streams.find? fun st => st.id == id with
    | some st => suspendStream s st w.va level reason
    | none => s
  | .aside tag =>
    let (s, f) := noteFault s uid slotAside w.va w.write level reason
    setAside s tag fun a => { a with susp := some f }
  | .upd =>
    let (s, f) := noteFault s uid slotUpd w.va w.write level reason
    setUpd s fun u => { u with susp := some f }
  | .updWrite key =>
    let (s, f) := noteFault s uid slotUpd w.va w.write level reason
    setUpdWrite s key fun x => { x with susp := some f }
  | .fill _ => fillXlate s uid
  | .load =>
    match s.ctl.load with
    | some j => loadEnd s j eXlate 0
    | none => s

/-- A walk whose read is refused or uncorrectable: the access that it translates for ends (Table 12-8). -/
def walkEnd (s : State) (w : Walk) (a : Answer) : State :=
  match w.for_ with
  | .stream id =>
    match s.strm.streams.find? fun st => st.id == id with
    | some st => failStream s st a w.va
    | none => s
  | .aside tag => endAccess (dropAside s tag) (w.uid.getD 0) slotAside a w.va
  | .upd =>
    match s.upd.cur with
    | some u => endAccess (endUpd s u (answerCode a)) u.uid slotUpd a w.va
    | none => s
  | .updWrite key =>
    match s.upd.writes.find? fun x => x.key == key with
    | some x => endAccess (writeFailed s x (answerCode a)) x.uid slotUpd a w.va
    | none => s
  | .fill va => fillEnd s (w.uid.getD 0) va a
  | .load =>
    match s.ctl.load with
    | some j => loadEnd s j (answerCode a) 0
    | none => s

/-- The answer to a read of something that has ended since: nothing is done with it, but that an uncorrectable one is a check
event all the same (R458, Table 12-8). -/
def lateAnswer (s : State) (a : Answer) (va : Nat) (uid : Option Nat) : State :=
  if a = .uncorr then checkEvent s eUncorr 10 0 0 va uid 0 else s

/-- The walker reads the next entry with the tag of the read before. -/
def walkOn (s : State) (w : Walk) (tag : Nat) : State :=
  { s with strm := { s.strm with
      walks := mapIf (fun x => x.n == w.n) (fun _ => w) s.strm.walks
      reqs := s.strm.reqs ++ [walkReq s tag (w.table + 8 * levelIndex w.va w.level) w] } }

/-- An entry that a walk has read: the next level, the leaf, or a fault (R265). -/
def walkRead (s : State) (w : Walk) (tag e : Nat) : State :=
  match walkEntry (feat1 s 2) w.level w.write w.va e with
  | .next table => walkOn s { w with level := w.level - 1, table := table } tag
  | .leaf pa bits wr =>
    let s := walkClear (tlbAdd s w.va pa bits wr) w
    match w.for_ with
    | .fill va => fillSend s (w.uid.getD 0) va
    | _ => s
  | .fault reason => walkFault (walkClear s w) w w.level reason

/-- The answer to a walker read. A walk whose entries have been invalidated since starts again (R267). -/
def walkAnswer (s : State) (w : Walk) (r : Req) (a : Answer) (data : BitVec 2048) : State :=
  if !walkLive s w then
    let s := dropWalk s w
    if w.for_ = .load then s else lateAnswer s a w.va w.uid
  else if a ≠ .ok then walkEnd (walkClear s w) w a
  else if !w.redo then walkRead s w r.tag (laneGet data r.addr.toNat 8)
  else if s.strm.rootEn then walkOn s (rootWalk s w) r.tag
  else walkFault (walkClear s w) w 4 xRootOff

/-! ## Responses -/

/-- What the response to a request does, once the request has left the list of those in flight. -/
def answerReq (s : State) (r : Req) (a : Answer) (data : BitVec 2048) : State :=
  match r.owner with
  | .stream id starts n skip =>
    match s.strm.streams.find? fun st => st.id == id with
    | some st => streamAnswer s st r starts n skip a data
    | none => s
  | .aside tag =>
    match s.strm.asides.find? fun x => x.tag == tag with
    | some x => asideAnswer s x r a data
    | none => s
  | .upd part off =>
    match s.upd.cur.filter fun u => r.uid == some u.uid && u.issued with
    | some u => updAnswer s u part off r a data
    | none => lateAnswer s a off r.uid
  | .updWrite key =>
    match s.upd.writes.find? fun x => x.key == key with
    | some x => updWriteAnswer s x a
    | none => s
  | .walk n =>
    match s.strm.walks.find? fun x => x.n == n with
    | some w => walkAnswer s w r a data
    | none => s
  | .fill va =>
    match a with
    | .ok => fillDone s va (BitVec.ofNat 512 (laneGet data r.addr.toNat 64))
    | _ => fillEnd s (r.uid.getD 0) va a
  | .load off => loadAnswer s r off a data
  | .image _ _ => imageAnswer s a data

/-- What waits for a response, a translation or a tag is sent on, deliveries that waited are tried again, and runs that have
nothing in flight are finished. -/
def afterAnswer (s : State) : State := settle (imageNext (loadNext (kickUpd (kickAsides (landAll s)))))

/-- FABRIC_RESPONSE: discarded when its request was issued before a reset, a check event of Source 17 when it names no
request, otherwise accepted with the answer of R458 (17 R425, 16 R402). -/
def execFabricResponse (tag : BitVec 13) (resp rs : BitVec 2) (data : BitVec 2048) (s : State) :
    Host.Outcome State Fault Refusal :=
  let t := tag.toNat
  if s.strm.orphans.contains t then
    .next { s with strm := { s.strm with orphans := s.strm.orphans.erase t } }
  else
    match s.strm.reqs.find? fun r => r.tag == t with
    | none => .next (checkEvent s eStrayresp 17 0 t 0 none 0)
    | some r =>
      let s := { s with strm := { s.strm with reqs := s.strm.reqs.filter fun x => x.tag != t } }
      .next (afterAnswer (answerReq s r (answerOf resp rs) data))

end Sys2Proof.Machine
end

