-- ==== Sys2Proof/Machine/Scalar.lean ====
section
/-! DEFINITION. Scalar, branch and tile instructions (09, R459 to R462; 04, R80 to R85). -/

namespace Sys2Proof.Machine

open Sys2Proof

/-! ## Scalar arithmetic (R460) -/

/-- Table 9-15. -/
def saluFn (fn : BitVec 4) (a b : DWord) : DWord :=
  let sh := b.toNat % 64
  match fn.toNat with
  | 0 => a + b
  | 1 => a - b
  | 2 => a * b
  | 3 => a &&& b
  | 4 => a ||| b
  | 5 => a ^^^ b
  | 6 => a <<< sh
  | 7 => a >>> sh
  | 8 => a.sshiftRight sh
  | 9 => if a.slt b then 1 else 0
  | 10 => if a.ult b then 1 else 0
  | 11 => if b.slt a then b else a
  | 12 => if a.slt b then b else a
  | _ => b

def execSalu (w : SaluWord) (s : State) : Host.Outcome State Fault Refusal :=
  .next (issue s .s 1 (.salu w) (w.sd :: (if w.fn = 13 then [] else [w.sa]) ++ (if w.i then [] else [w.sb])) fun s _ _ =>
    .go (setS s w.sd (saluFn w.fn (getS s w.sa) (if w.i then w.imm else getS s w.sb))))

/-- The value that SEL names (R461). -/
def sreadVal (s : State) (i : Inst) (sel : BitVec 8) : DWord :=
  match sel.toNat with
  | 0 => s.boot.ties.clusterId.zeroExtend 64
  | 1 => s.boot.ties.dieId.zeroExtend 64
  | 2 => i.tick0
  | 3 => s.seq.late.zeroExtend 64
  | 4 => s.perf.cycles
  | n => s.perf.cnt[(n - 32) % 32]'(Nat.mod_lt _ (by decide))

def execSread (sel : BitVec 8) (sd : BitVec 5) (s : State) : Host.Outcome State Fault Refusal :=
  .next (issue s .s 1 (.sread sel sd) [sd] fun s _ i => .go (setS s sd (sreadVal s i sel)))

/-! ## Branches (R216, R462) -/

/-- The condition of BR (R462). -/
def brTaken (cond : BitVec 3) (a b : DWord) : Bool :=
  match cond.toNat with
  | 0 => true
  | 1 => a == b
  | 2 => a != b
  | 3 => a.slt b
  | 4 => !a.slt b
  | 5 => a.ult b
  | _ => !a.ult b

/-- The fetch at a scalar-register target outside the code or not at a multiple of 16 (R216). What stands at a target within the
code is checked as it is fetched, by `issue` (log 5). -/
def targetCheck (bytes pc : Nat) : Option Code := if bytes ≤ pc ∨ pc % 16 ≠ 0 then some eCoderange else none

def brBody (w : BrWord) (s : State) (r : Run) (i : Inst) : Verdict :=
  let taken := brTaken w.cond (getS s w.sa) (getS s w.sb)
  if w.rt then
    if taken then
      let pc := (getS s w.st).toNat
      match targetCheck (codeLen s i) pc with
      | some e => .fetchFault pc e
      | none => .jump s pc
    else .go s
  else
    let t : Int := r.pc + w.tgt.toInt
    if t < 0 ∨ (codeLen s i : Int) ≤ t then .fault eBadval
    else if taken then .jump s t.toNat
    else .go s

def execBr (w : BrWord) (s : State) : Host.Outcome State Fault Refusal :=
  .next (issue s .s 1 (.br w) ((if w.cond = 0 then [] else [w.sa, w.sb]) ++ (if w.rt then [w.st] else [])) (brBody w))

/-! ## Tile instructions (04, R77 to R85) -/

def execTcfg (tt : BitVec 4) (shape : BitVec 3) (fmt : BitVec 3) (s : State) : Host.Outcome State Fault Refusal :=
  .next (issue s .s 1 (.tcfg tt shape fmt) [] fun s _ _ => 
    if rngsBusy s s.seq.nextUid [rTile tt true] then .wait else .go (putTile s tt (tileConfig shape fmt) 0 65536))

def execTrel (tt : BitVec 4) (s : State) : Host.Outcome State Fault Refusal :=
  .next (issue s .s 1 (.trel tt) [] fun s _ _ => 
    if rngsBusy s s.seq.nextUid [rTile tt true] then .wait else .go (putTile s tt (tileRelease (getT s tt)) 0 65536))

/-- The bytes of `rows` storage rows from a buffer, in storage order (R81). -/
def tldBytes (s : State) (uid : Nat) (h : BitVec 6) (off str : Int) (rows rb : Nat) : List Byte :=
  (List.range rows).flatMap fun (r : Nat) => bufRead s uid h.toNat (off + (r : Int) * str).toNat rb

def tldBody (m : TileMem) (s : State) (_ : Run) (i : Inst) : Verdict :=
  let t := getT s m.tt
  let rows := shapeRows t.shape
  let rb := rowBytes t.shape t.fmt
  let off := offVal s m.or_ m.off
  let str := strVal s m.sr m.str
  match r81 off str rows rb (bufBytes s i.uid m.h.toNat) with
  | some e => .fault e
  | none =>
    let h := hull off str rows rb
    if rngsBusy s s.seq.nextUid [rTile m.tt true, rBuf s i.uid m.h.toNat h.1 h.2 false] then .waitFor [rTile m.tt true, rBuf s i.uid m.h.toNat h.1 h.2 false]
    else
      let u := putTile s m.tt (tileWrite t 0 (rows * rb) (leNat (tldBytes s i.uid m.h off str rows rb))) 0 (rows * rb)
      .go (bufTakes u i.uid m.h.toNat ((List.range rows).map fun (r : Nat) => ((off + (r : Int) * str).toNat, rb)))

def execTld (m : TileMem) (s : State) : Host.Outcome State Fault Refusal :=
  .next (issue s .d 1 (.tld m) (offRegs m.or_ m.off ++ strRegs m.sr m.str) (tldBody m))

/-- One storage row converted: its codes and flags (R84). -/
def tstRow (t : Tile) (dfmt : BitVec 3) (sat : Bool) (r : Nat) : List (Nat × Flags) :=
  tabulate (shapeCols t.shape) fun e => tensorConvert (tileFmt t.fmt) (tileFmt dfmt) sat (tileElem t r e)

/-- DESIGN CHOICE (log 47): an EMPTY register is E_TEMPTY also where the access fails R81; the spec gives the two no order. -/
def tstBody (m : TileMem) (dfmt : BitVec 3) (sat : Bool) (s : State) (_ : Run) (i : Inst) : Verdict :=
  let t := getT s m.tt
  let rows := shapeRows t.shape
  let rb := rowBytes t.shape dfmt
  let off := offVal s m.or_ m.off
  let str := strVal s m.sr m.str
  if !t.full then .fault eTempty
  else
    match r81 off str rows rb (bufBytes s i.uid m.h.toNat) with
    | some e => .fault e
    | none =>
      let h := hull off str rows rb
      if rngsBusy s s.seq.nextUid [rTile m.tt false, rBuf s i.uid m.h.toNat h.1 h.2 true] then .waitFor [rTile m.tt false, rBuf s i.uid m.h.toNat h.1 h.2 true]
      else
        .go ((List.range rows).foldl (fun s (r : Nat) =>
          let cs := tstRow t dfmt sat r
          raiseVec (bufStore s i.uid m.h.toNat (off + (r : Int) * str).toNat
            (natBytes rb (pack (tileBits dfmt) (cs.map (·.1))))) (orFlags (cs.map (·.2)))) (tileTake s i.uid m.tt 0 65536))

def execTst (m : TileMem) (dfmt : BitVec 3) (sat : Bool) (s : State) : Host.Outcome State Fault Refusal :=
  .next (issue s .d 1 (.tst m dfmt sat) (offRegs m.or_ m.off ++ strRegs m.sr m.str) (tstBody m dfmt sat))

end Sys2Proof.Machine
end

