-- ==== Sys2Proof/Machine/Tap.lean ====
section
/-! DEFINITION. The test access port and the CSR access instrument (17, R440, R441; 16, R416). -/

namespace Sys2Proof.Machine

open Sys2Proof

/-- The levels of the signals of Tables 17-10 and 17-11, in their order, bit 0 of each first: TICK, TICK_NUM, POWER_CAP,
THROTTLE, TEMP_IN, CURR_IN, CURTAIN_IN, CURTAIN_OUT, WITHDRAW, FUSE_REQ, FUSE_STB, FUSE_DATA. Between commands the pulse of TICK is over and the fuse
bus quiet (log 34). -/
def boundary (s : State) : BitVec 102 :=
  let p := s.pwr
  BitVec.ofNat 102 (p.tickNumIn.toNat * 2 ^ 1 + p.capIn.toNat * 2 ^ 65 + bit p.throttle * 2 ^ 73
    + p.tempIn.toNat * 2 ^ 74 + p.currIn.toNat * 2 ^ 84 + bit p.curtainIn * 2 ^ 96 + bit p.curtainOut * 2 ^ 97
    + bit p.withdrawPin * 2 ^ 98)

/-- The TAP after a reset of it: BYPASS (IEEE 1149.1; log 34). -/
def tapReset (d : Dbg) : Dbg :=
  { d with ir := 0xFF, bypass := false, capture := 0, update := 0, extest := false }

/-- TRST_N: the TAP is reset (R440). -/
def execTrstN (s : State) : Host.Outcome State Fault Refusal := .next { s with dbg := tapReset s.dbg }

/-- TEST_LOGIC_RESET: the TAP is reset (R440). -/
def execTestLogicReset (s : State) : Host.Outcome State Fault Refusal := .next { s with dbg := tapReset s.dbg }

/-- An instruction scan: the register takes `code`, and what Capture-IR loaded is shifted out (R440). -/
def scanIr (d : Dbg) (code : BitVec 8) : Dbg := { d with ir := code, irOut := 0x01 }

/-- The code that BYPASS leaves in the instruction register: its operand where that has no instruction of its own, which
Table 17-13 gives 0x01, 0x02 and 0x10, and otherwise the code of BYPASS itself (R440; log 34). -/
def bypassCode (code : BitVec 8) : BitVec 8 := if code = 0x01 ∨ code = 0x02 ∨ code = 0x10 then 0xFF else code

/-- BYPASS, under any code that has no instruction of its own: the one-bit bypass register, which captures 0 (R440). -/
def execBypass (code : BitVec 8) (s : State) : Host.Outcome State Fault Refusal :=
  .next { s with dbg := { scanIr s.dbg (bypassCode code) with bypass := false, extest := false } }

/-- SAMPLE/PRELOAD: the boundary cells are sampled, and preload values loaded (Table 17-13). -/
def samplePre (s : State) (code : BitVec 8) (cells : BitVec 102) (drive : Bool) : State :=
  { s with dbg := { scanIr s.dbg code with capture := boundary s, update := cells, extest := drive } }

/-- SAMPLE/PRELOAD (Table 17-13). -/
def execSamplePreload (cells : BitVec 102) (s : State) : Host.Outcome State Fault Refusal :=
  .next (samplePre s 0x01 cells false)

/-- EXTEST: the outputs are driven from the cells while PORESET_N is low; otherwise as SAMPLE/PRELOAD (Table 17-13). -/
def execExtest (cells : BitVec 102) (s : State) : Host.Outcome State Fault Refusal :=
  .next (samplePre s 0x02 cells (!s.boot.poreset))

/-- The level that an output pin shows: its cell under EXTEST while PORESET_N is low (Table 17-13). -/
def pinLevel (s : State) (cell : Nat) (level : Bool) : Bool :=
  if s.dbg.extest && !s.boot.poreset then s.dbg.update.getLsbD cell else level

/-- ACCESS: the IEEE 1687 network is selected; as BYPASS while the debug state is LOCKED (R440). -/
def execAccess (s : State) : Host.Outcome State Fault Refusal :=
  .next { s with dbg := { scanIr s.dbg 0x10 with bypass := false, extest := false } }

/-- The writes that post a command and take its response away: slot words, doorbell and acknowledgement of the management
mailbox (15, R374). In OBSERVE the instrument performs these, since R372 and R416 have it carry QUERY there, and no other
write (DEDUCED, log 34). -/
def postsCommand (off : Nat) : Bool := off == 0x10004 || off == 0x10008 || decide (0x10100 ≤ off ∧ off < 0x10500)

/-- DEBUG_CSR_ACCESS: out of reach unless ACCESS is selected and the debug state is not LOCKED; a write while it is OBSERVE,
but for those that post a command, is not performed and sets the error bit (R441, R372). -/
def execDebugCsrAccess (wr : Bool) (off : BitVec 24) (v : Word) (s : State) : Host.Outcome State Fault Refusal :=
  if s.dbg.ir != 0x10 || debugState s == 0 then .next s
  else if !wr then .next (csrReadAt s .dp (wordOff off))
  else if debugState s = 1 ∧ !postsCommand (wordOff off) then .next (setCsrPort s .dp fun q => { q with rdata := 0, err := true })
  else .next (csrWriteAt s .dp (wordOff off) v)

end Sys2Proof.Machine
end

