-- ==== Sys2Proof/Machine/Target.lean ====
section
/-! DEFINITION. The target side of the fabric port: the aperture (04 R96, R97; 17 R426, Table 17-4; 15 R387), the scratchpad
atomic unit (12 R308, R317, R318, R321), the user mailbox (18 R446; 15 R391). -/

namespace Sys2Proof.Machine

open Sys2Proof

/-! ## The aperture (R96, Table 4-8) -/

/-- WIN_BASE (R96). -/
def winBase (s : State) : Nat :=
  s.boot.ties.apertureBase.toNat * 2 ^ 41 + s.boot.ties.dieId.toNat * 2 ^ 35 + s.boot.ties.clusterId.toNat * 2 ^ 29

/-- The aperture offset of an address; none outside the aperture. -/
def apOffset (s : State) (a : Nat) : Option Nat :=
  if winBase s ≤ a ∧ a < winBase s + 2 ^ 29 then some (a - winBase s) else none

/-- The offset lies in the user mailbox (Table 4-8). -/
def inUser (off : Nat) : Bool := decide (0x1F000000 ≤ off ∧ off ≤ 0x1F00FFFF)

/-- The bytes that a request reaches (Table 17-4). -/
def reachBytes (r : TargetReq) : Nat :=
  match r.op.toNat with
  | 1 => 8
  | 4 => if r.sz then 8 else 4
  | 5 => 16
  | _ => 64 * (r.len.toNat + 1)

/-- The request is one that Table 17-4 allows: whole units within a block, aligned operands, an operation of Table 12-3. -/
def requestLegal (r : TargetReq) : Bool :=
  let a := r.addr.toNat
  match r.op.toNat with
  | 1 => a % 8 == 0
  | 4 => a % (if r.sz then 8 else 4) == 0 && decide (r.aop.toNat ≤ 10)
  | 5 => a % 16 == 0
  | _ => a % 64 == 0 && decide (a % 256 + reachBytes r ≤ 256)

/-- A granule of the scratchpad window lies in a frame of a window buffer (R97 step 2). -/
def inWindow97 (s : State) (off : Nat) : Bool :=
  decide (off < 0x2000000) && s.strm.bufs.any fun b => b.owner == none && b.frames.contains (off / 65536)

/-- Every granule that a request reaches is one of window buffers. -/
def windowOk (s : State) (off n : Nat) : Bool :=
  (List.range ((off + n + 63) / 64 - off / 64)).all fun k => inWindow97 s ((off / 64 + k) * 64)

/-! ## Answers -/

/-- The beats of a response, of one 64-byte granule each in either generation: of a read its granules, of a READ8 the granule of
its address, and otherwise one beat from offset 0 (17 Table 17-4, R423, R425). -/
def targetBeats (r : TargetReq) (data : BitVec 2048) : List BusBeat :=
  let a := r.addr.toNat
  match r.op.toNat with
  | 0 => busBeats 64 a (64 * (r.len.toNat + 1)) 0 data
  | 1 => busBeats 64 a 8 0 data
  | _ => [⟨0, 0, data, true⟩]

/-- The response to a target-side request: TS_RESP, TS_RS, data, and the beats that carry it. -/
def targetAnswer (s : State) (r : TargetReq) (resp rs : Nat) (data : Nat) : State :=
  let d := BitVec.ofNat 2048 data
  { s with strm := { s.strm with
      rsp := BitVec.ofNat 2 resp, rspRs := BitVec.ofNat 2 rs, rspData := d, rspBeats := targetBeats r d } }

/-- Refusals that come before the target is considered: a reset (R426), the wipe (R387), the tenant (R97 step 1), an
operation that is reserved (Table 17-4). -/
def targetRefused (s : State) (r : TargetReq) : Option Nat :=
  if !clusterUp s then some 1
  else if s.ctl.wipe.isSome || r.tid != s.ctl.owner then some 2
  else if 6 ≤ r.op.toNat then some 1
  else none

/-! ## Window reads and writes (R97, R90) -/

/-- An error that cannot be corrected lies in `n` bytes from physical address `off`. -/
def padSpoiled (s : State) (off n : Nat) : Bool := s.chk.marks.any fun m => m.hard && inPieces [(off, n)] m.place

/-- `n` bytes from physical address `off` are read for the fabric: what was prefetched is used, corrected errors are counted,
and one that cannot be corrected is a check event without an instance (19 R455; 14 Table 14-1, Source 3). -/
def targetTake (s : State) (off n : Nat) : State := readMarks (padUse s off n) none (inPieces [(off, n)])

/-- Bytes of a read, in the lanes of their block; TS_RS is 1 for bytes that cannot be corrected (14 Table 14-1, Source 3). -/
def windowRead (s : State) (r : TargetReq) (off n : Nat) : State :=
  targetAnswer (targetTake s off n) r 0 (bit (padSpoiled s off n))
    (leNat (padRead s.pad off n) * 2 ^ (8 * (r.addr.toNat % 256)))

/-- The bytes whose mask bits are set are written; no error lies in them any more (14, R351; log 16). -/
def windowWrite (s : State) (r : TargetReq) (off : Nat) : State :=
  let a := r.addr.toNat
  let pad := (List.range (reachBytes r)).foldl (fun p k =>
    if r.mask.getLsbD ((a + k) % 256) then padPut p (off + k) (BitVec.ofNat 8 (byteField r.data ((a + k) % 256) 1)) else p)
    s.pad
  let bytes := (List.range (reachBytes r)).filterMap fun k => if r.mask.getLsbD ((a + k) % 256) then some (off + k, 1) else none
  targetAnswer (dropMarks { s with pad := pad } (inPieces bytes)) r 0 0 0

/-- WINDOW_ACCESS: READ, WRITE and WRITEM anywhere in the aperture but the user mailbox (R97, R426). A request that Table 17-4
does not allow is answered with the decode error (DESIGN CHOICE, log 32). -/
def execWindowAccess (r : TargetReq) (s : State) : Host.Outcome State Fault Refusal :=
  let op := r.op.toNat
  let off := apOffset s r.addr.toNat
  if op = 1 ∨ op = 4 ∨ op = 5 ∨ off.any inUser then .next s
  else
    match targetRefused s r, off with
    | some c, _ => .next (targetAnswer s r c 0 0)
    | none, none => .next (targetAnswer s r 1 0 0)
    | none, some o =>
      if !windowOk s o (reachBytes r) || !requestLegal r then .next (targetAnswer s r 1 0 0)
      else if op = 0 then .next (windowRead s r o (reachBytes r))
      else if r.rs ≠ 0 then .next (targetAnswer s r 0 1 0)
      else .next (windowWrite s r o)

/-! ## The scratchpad atomic unit (12) -/

/-- The signed value of an operand of 4 or 8 bytes. -/
def atomSigned (sz : Bool) (x : Nat) : Int := sext (if sz then 64 else 32) x

/-- An FADD result, with the canonical NaN (R318). -/
def atomFadd (sz : Bool) (x v : Nat) : Nat :=
  let f : Fmt := if sz then .fp64 else .fp32
  let y := (fpAdd f .rne x v).1
  if fpIsNan f y then fmtNan f else y

/-- The new value at the home (Table 12-3). -/
def atomNew (aop : Nat) (sz : Bool) (x v c : Nat) : Nat :=
  let le := fun a b => decide (atomSigned sz a ≤ atomSigned sz b)
  match aop with
  | 0 => x + v
  | 1 => x &&& v
  | 2 => x ||| v
  | 3 => x ^^^ v
  | 4 => if le x v then x else v
  | 5 => if le x v then v else x
  | 6 => min x v
  | 7 => max x v
  | 8 => v
  | 9 => if x = c then v else x
  | _ => atomFadd sz x v

/-- CLAIM at the home: the result word and the new NEXT (R321, Tables 12-4, 12-5). -/
def claimAt (rec : Nat) (e n : Nat) : Nat × Nat :=
  let next := rec % 2 ^ 32
  let limit := rec / 2 ^ 64 % 2 ^ 32
  if rec / 2 ^ 32 % 2 ^ 16 ≠ e then (2 * 2 ^ 48, next)
  else if limit ≤ next then (2 ^ 48, next)
  else
    let cnt := min n (limit - next)
    (next + cnt * 2 ^ 32, next + cnt)

/-- READ8, ATOMIC and CLAIM performed at the atomic unit; an ATOMIC or CLAIM of a location that cannot be corrected has no
effect, and its answer says so (R320). -/
def atomicAt (s : State) (r : TargetReq) (off : Nat) : State :=
  let n := reachBytes r
  let rec_ := leNat (padRead s.pad off n)
  let m := 2 ^ (8 * n)
  let put := fun (s : State) (k v : Nat) =>
    dropMarks { s with pad := padWrite s.pad off (natBytes k v) } (inPieces [(off, k)])
  let bad := padSpoiled s off n
  let s := targetTake s off n
  if bad && r.op != 1 then targetAnswer s r 0 1 0
  else
  match r.op.toNat with
  | 1 => targetAnswer s r 0 (bit bad) (rec_ * 2 ^ (8 * (r.addr.toNat % 256)))
  | 4 =>
    let v := bvGet r.data 0 64 % m
    let c := bvGet r.data 64 64 % m
    targetAnswer (put s n (atomNew r.aop.toNat r.sz rec_ v c)) r 0 0 rec_
  | _ =>
    let x := claimAt rec_ (bvGet r.data 0 16) (bvGet r.data 16 16)
    targetAnswer (put s 4 x.2) r 0 0 x.1

/-- WINDOW_ATOMIC: READ8, ATOMIC and CLAIM anywhere in the aperture but the user mailbox (R97, R426; 12 R308). A request that
Table 17-4 does not allow is answered with the decode error (DESIGN CHOICE, log 32). -/
def execWindowAtomic (r : TargetReq) (s : State) : Host.Outcome State Fault Refusal :=
  let op := r.op.toNat
  let off := apOffset s r.addr.toNat
  if !(op = 1 ∨ op = 4 ∨ op = 5) ∨ off.any inUser then .next s
  else
    match targetRefused s r, off with
    | some c, _ => .next (targetAnswer s r c 0 0)
    | none, none => .next (targetAnswer s r 1 0 0)
    | none, some o =>
      if !windowOk s o (reachBytes r) || !requestLegal r then .next (targetAnswer s r 1 0 0)
      else if op ≠ 1 ∧ r.rs ≠ 0 then .next (targetAnswer s r 0 1 0)
      else .next (atomicAt s r o)

/-! ## The user mailbox (18, R446) -/

/-- A granule of the user mailbox, by its offset there, that holds a register. -/
def userGranule (s : State) (g : Nat) : Bool := (List.range 16).any fun k => (mbxReg s .user (64 * g + 4 * k)).isSome

/-- The mask bits of the word at an address: all set, all clear, or some. -/
def wordMask (r : TargetReq) (a : Nat) : Nat := bvGet r.mask (a % 256) 4

/-- The words of a request: their addresses. -/
def requestWords (r : TargetReq) : List Nat := (List.range (16 * (r.len.toNat + 1))).map fun k => r.addr.toNat + 4 * k

/-- A word written in the user mailbox; a rejection and an ignored write record nothing (R374, R391, R446). -/
def userWrite (s : State) (off : Nat) (v : Word) : State :=
  match mbxWrite s .user off v with
  | some w => w.2
  | none => s

/-- The words of a write, in ascending address order. -/
def userWrites (s : State) (r : TargetReq) (base : Nat) : State :=
  (requestWords r).foldl (fun s a =>
    if wordMask r a = 15 then userWrite s (a - base) (BitVec.ofNat 32 (byteField r.data (a % 256) 4)) else s) s

/-- The granules of a read; words that hold no register read 0. -/
def userRead (s : State) (r : TargetReq) (base : Nat) : Nat :=
  (requestWords r).foldl (fun d a => d + (mbxReg s .user (a - base)).getD 0 * 2 ^ (8 * (a % 256))) 0

/-- USER_MAILBOX_ACCESS: a request to the user mailbox (R446). A request that Table 17-4 does not allow is answered with the
decode error (DESIGN CHOICE, log 32). -/
def execUserMailboxAccess (r : TargetReq) (s : State) : Host.Outcome State Fault Refusal :=
  let op := r.op.toNat
  match apOffset s r.addr.toNat with
  | none => .next s
  | some o =>
    if !inUser o then .next s
    else
      match targetRefused s r with
      | some c => .next (targetAnswer s r c 0 0)
      | none =>
        let base := winBase s + 0x1F000000
        let rel := o - 0x1F000000
        if op = 1 ∨ op = 4 ∨ op = 5 then .next (targetAnswer s r 1 0 0)
        else if !(List.range (r.len.toNat + 1)).all (fun k => userGranule s (rel / 64 + k)) then .next (targetAnswer s r 1 0 0)
        else if !requestLegal r then .next (targetAnswer s r 1 0 0)
        else if op = 0 then .next (targetAnswer s r 0 0 (userRead s r base))
        else if (requestWords r).any fun a => wordMask r a != 0 && wordMask r a != 15 then .next (targetAnswer s r 1 0 0)
        else if r.rs ≠ 0 then .next (targetAnswer s r 0 1 0)
        else .next (targetAnswer (userWrites s r base) r 0 0 0)

end Sys2Proof.Machine
end

