-- ==== Sys2Proof/Machine/Dispatch.lean ====
section
/-! DEFINITION. The meaning of each command, one arm per constructor. -/

namespace Sys2Proof.Machine

open Sys2Proof

/-- The effect of a command on everything but the queue. -/
def exec (i : Instr) (s : State) : Host.Outcome State Fault Refusal :=
  match i with
  | .mma w => Sys2Proof.Machine.execMma w s
  | .storeClause => Sys2Proof.Machine.execStoreClause s
  | .mmv w => Sys2Proof.Machine.execMmv w s
  | .swap => Sys2Proof.Machine.execSwap s
  | .vadd w => Sys2Proof.Machine.execVadd w s
  | .vsub w => Sys2Proof.Machine.execVsub w s
  | .vmul w => Sys2Proof.Machine.execVmul w s
  | .vdiv w => Sys2Proof.Machine.execVdiv w s
  | .vmin w => Sys2Proof.Machine.execVmin w s
  | .vmax w => Sys2Proof.Machine.execVmax w s
  | .vfma w => Sys2Proof.Machine.execVfma w s
  | .vfms w => Sys2Proof.Machine.execVfms w s
  | .vfnma w => Sys2Proof.Machine.execVfnma w s
  | .vfnms w => Sys2Proof.Machine.execVfnms w s
  | .vsqrt w => Sys2Proof.Machine.execVsqrt w s
  | .vabs w => Sys2Proof.Machine.execVabs w s
  | .vneg w => Sys2Proof.Machine.execVneg w s
  | .vcpys w => Sys2Proof.Machine.execVcpys w s
  | .vand w => Sys2Proof.Machine.execVand w s
  | .vor w => Sys2Proof.Machine.execVor w s
  | .vxor w => Sys2Proof.Machine.execVxor w s
  | .vsll w => Sys2Proof.Machine.execVsll w s
  | .vsrl w => Sys2Proof.Machine.execVsrl w s
  | .vsra w => Sys2Proof.Machine.execVsra w s
  | .vexp2 w => Sys2Proof.Machine.execVexp2 w s
  | .vlog2 w => Sys2Proof.Machine.execVlog2 w s
  | .vrcp w => Sys2Proof.Machine.execVrcp w s
  | .vrsqrt w => Sys2Proof.Machine.execVrsqrt w s
  | .vtanh w => Sys2Proof.Machine.execVtanh w s
  | .vsigm w => Sys2Proof.Machine.execVsigm w s
  | .vcmp pred w => Sys2Proof.Machine.execVcmp pred w s
  | .vsel w => Sys2Proof.Machine.execVsel w s
  | .vperm w => Sys2Proof.Machine.execVperm w s
  | .vbcast w => Sys2Proof.Machine.execVbcast w s
  | .vext w => Sys2Proof.Machine.execVext w s
  | .vredsum w => Sys2Proof.Machine.execVredsum w s
  | .vredprod w => Sys2Proof.Machine.execVredprod w s
  | .vredmax w => Sys2Proof.Machine.execVredmax w s
  | .vredmin w => Sys2Proof.Machine.execVredmin w s
  | .vredargmax w => Sys2Proof.Machine.execVredargmax w s
  | .vredargmin w => Sys2Proof.Machine.execVredargmin w s
  | .vcvt w => Sys2Proof.Machine.execVcvt w s
  | .kand w => Sys2Proof.Machine.execKand w s
  | .kor w => Sys2Proof.Machine.execKor w s
  | .kxor w => Sys2Proof.Machine.execKxor w s
  | .kandn w => Sys2Proof.Machine.execKandn w s
  | .knot w => Sys2Proof.Machine.execKnot w s
  | .kpop w => Sys2Proof.Machine.execKpop w s
  | .vld w m => Sys2Proof.Machine.execVld w m s
  | .vst w m => Sys2Proof.Machine.execVst w m s
  | .vldt w x => Sys2Proof.Machine.execVldt w x s
  | .vstt w x => Sys2Proof.Machine.execVstt w x s
  | .vrdf w r => Sys2Proof.Machine.execVrdf w r s
  | .vwrf w r => Sys2Proof.Machine.execVwrf w r s
  | .setvl w x => Sys2Proof.Machine.execSetvl w x s
  | .vout w x => Sys2Proof.Machine.execVout w x s
  | .vsrd w r x => Sys2Proof.Machine.execVsrd w r x s
  | .vswr w r => Sys2Proof.Machine.execVswr w r s
  | .vsmrg w r x => Sys2Proof.Machine.execVsmrg w r x s
  | .vsclf w r x => Sys2Proof.Machine.execVsclf w r x s
  | .salu w => Sys2Proof.Machine.execSalu w s
  | .sread sel sd => Sys2Proof.Machine.execSread sel sd s
  | .br w => Sys2Proof.Machine.execBr w s
  | .sceneEnd => Sys2Proof.Machine.execSceneEnd s
  | .tcfg tt shape fmt => Sys2Proof.Machine.execTcfg tt shape fmt s
  | .trel tt => Sys2Proof.Machine.execTrel tt s
  | .tld m => Sys2Proof.Machine.execTld m s
  | .tst m dfmt sat => Sys2Proof.Machine.execTst m dfmt sat s
  | .dstr slot pts image => Sys2Proof.Machine.execDstr slot pts image s
  | .aside pts image => Sys2Proof.Machine.execAside pts image s
  | .cue slot pr p => Sys2Proof.Machine.execCue slot pr p s
  | .cueSatisfied slot => Sys2Proof.Machine.execCueSatisfied slot s
  | .waitq slot hold => Sys2Proof.Machine.execWaitq slot hold s
  | .acq w => Sys2Proof.Machine.execAcq w s
  | .acqPoll tag => Sys2Proof.Machine.execAcqPoll tag s
  | .rel w => Sys2Proof.Machine.execRel w s
  | .atom w => Sys2Proof.Machine.execAtom w s
  | .claim w => Sys2Proof.Machine.execClaim w s
  | .rroute w => Sys2Proof.Machine.execRroute w s
  | .rsend ta => Sys2Proof.Machine.execRsend ta s
  | .rred w => Sys2Proof.Machine.execRred w s
  | .upd w => Sys2Proof.Machine.execUpd w s
  | .updComplete => Sys2Proof.Machine.execUpdComplete s
  | .updCommit => Sys2Proof.Machine.execUpdCommit s
  | .streamReadRequest slot => Sys2Proof.Machine.execStreamReadRequest slot s
  | .streamWriteRequest slot => Sys2Proof.Machine.execStreamWriteRequest slot s
  | .sorterIssue => Sys2Proof.Machine.execSorterIssue s
  | .instructionFill line => Sys2Proof.Machine.execInstructionFill line s
  | .fabricResponse tag resp rs data => Sys2Proof.Machine.execFabricResponse tag resp rs data s
  | .windowAccess r => Sys2Proof.Machine.execWindowAccess r s
  | .windowAtomic r => Sys2Proof.Machine.execWindowAtomic r s
  | .userMailboxAccess r => Sys2Proof.Machine.execUserMailboxAccess r s
  | .replayPendingEntry => Sys2Proof.Machine.execReplayPendingEntry s
  | .lockstepDivergence loc taken => Sys2Proof.Machine.execLockstepDivergence loc taken s
  | .controlRestart => Sys2Proof.Machine.execControlRestart s
  | .withdrawal => Sys2Proof.Machine.execWithdrawal s
  | .withdrawalTimeout => Sys2Proof.Machine.execWithdrawalTimeout s
  | .returnRecord => Sys2Proof.Machine.execReturnRecord s
  | .tick num cap => Sys2Proof.Machine.execTick num cap s
  | .sceneStart => Sys2Proof.Machine.execSceneStart s
  | .replayStart => Sys2Proof.Machine.execReplayStart s
  | .sceneLate pos => Sys2Proof.Machine.execSceneLate pos s
  | .leaseExpiry idx => Sys2Proof.Machine.execLeaseExpiry idx s
  | .sceneRelease pos => Sys2Proof.Machine.execSceneRelease pos s
  | .missingTick => Sys2Proof.Machine.execMissingTick s
  | .idleEntry => Sys2Proof.Machine.execIdleEntry s
  | .throttle level => Sys2Proof.Machine.execThrottle level s
  | .tempIn v => Sys2Proof.Machine.execTempIn v s
  | .currIn v => Sys2Proof.Machine.execCurrIn v s
  | .curtainIn level => Sys2Proof.Machine.execCurtainIn level s
  | .curtainPulseEnd => Sys2Proof.Machine.execCurtainPulseEnd s
  | .stopEventEnd => Sys2Proof.Machine.execStopEventEnd s
  | .poresetNFall => Sys2Proof.Machine.execPoresetNFall s
  | .poresetNRise ties => Sys2Proof.Machine.execPoresetNRise ties s
  | .clresetNFall => Sys2Proof.Machine.execClresetNFall s
  | .clresetNRise => Sys2Proof.Machine.execClresetNRise s
  | .powerDown => Sys2Proof.Machine.execPowerDown s
  | .cclkChange khz => Sys2Proof.Machine.execCclkChange khz s
  | .fuseLoad bits => Sys2Proof.Machine.execFuseLoad bits s
  | .copyExamine n first => Sys2Proof.Machine.execCopyExamine n first s
  | .configChoose => Sys2Proof.Machine.execConfigChoose s
  | .release => Sys2Proof.Machine.execRelease s
  | .train m => Sys2Proof.Machine.execTrain m s
  | .trainingTimeout => Sys2Proof.Machine.execTrainingTimeout s
  | .vc0Flit f => Sys2Proof.Machine.execVc0Flit f s
  | .vc0FlitUsed ch => Sys2Proof.Machine.execVc0FlitUsed ch s
  | .vc1Flit side f => Sys2Proof.Machine.execVc1Flit side f s
  | .vc2Message side f => Sys2Proof.Machine.execVc2Message side f s
  | .flitSend side vc ch => Sys2Proof.Machine.execFlitSend side vc ch s
  | .creditReturn side vc ch => Sys2Proof.Machine.execCreditReturn side vc ch s
  | .linkAck side seq => Sys2Proof.Machine.execLinkAck side seq s
  | .linkNak side seq => Sys2Proof.Machine.execLinkNak side seq s
  | .curtain orig => Sys2Proof.Machine.execCurtain orig s
  | .groupEnd gtag run sender => Sys2Proof.Machine.execGroupEnd gtag run sender s
  | .groupReplay gtag run sender => Sys2Proof.Machine.execGroupReplay gtag run sender s
  | .groupAbandon gtag run status sender => Sys2Proof.Machine.execGroupAbandon gtag run status sender s
  | .fence sender => Sys2Proof.Machine.execFence sender s
  | .rejoin sender => Sys2Proof.Machine.execRejoin sender s
  | .rejoinComplete => Sys2Proof.Machine.execRejoinComplete s
  | .ringDown cut => Sys2Proof.Machine.execRingDown cut s
  | .negotiate m slot => Sys2Proof.Machine.execNegotiate m slot s
  | .query m slot => Sys2Proof.Machine.execQuery m slot s
  | .load m slot first => Sys2Proof.Machine.execLoad m slot first s
  | .unload m slot => Sys2Proof.Machine.execUnload m slot s
  | .enqueue m slot => Sys2Proof.Machine.execEnqueue m slot s
  | .abort m slot => Sys2Proof.Machine.execAbort m slot s
  | .clearfault m slot => Sys2Proof.Machine.execClearfault m slot s
  | .xltResume m slot => Sys2Proof.Machine.execXltResume m slot s
  | .xltAbort m slot => Sys2Proof.Machine.execXltAbort m slot s
  | .tenant m slot => Sys2Proof.Machine.execTenant m slot s
  | .wipeComplete => Sys2Proof.Machine.execWipeComplete s
  | .curtainCommand m slot => Sys2Proof.Machine.execCurtainCommand m slot s
  | .withdraw m slot => Sys2Proof.Machine.execWithdraw m slot s
  | .fenceCommand m slot => Sys2Proof.Machine.execFenceCommand m slot s
  | .rejoinCommand m slot => Sys2Proof.Machine.execRejoinCommand m slot s
  | .mbxDoorbell v => Sys2Proof.Machine.execMbxDoorbell v s
  | .mbxAck v => Sys2Proof.Machine.execMbxAck v s
  | .mbxSlotWrite off v => Sys2Proof.Machine.execMbxSlotWrite off v s
  | .mbxNtcTail v => Sys2Proof.Machine.execMbxNtcTail v s
  | .xltInval v => Sys2Proof.Machine.execXltInval v s
  | .xltInvalComplete => Sys2Proof.Machine.execXltInvalComplete s
  | .perfClear v => Sys2Proof.Machine.execPerfClear v s
  | .dbgMemcmd v => Sys2Proof.Machine.execDbgMemcmd v s
  | .csrWrite off v => Sys2Proof.Machine.execCsrWrite off v s
  | .trstN => Sys2Proof.Machine.execTrstN s
  | .bypass code => Sys2Proof.Machine.execBypass code s
  | .samplePreload cells => Sys2Proof.Machine.execSamplePreload cells s
  | .extest cells => Sys2Proof.Machine.execExtest cells s
  | .access => Sys2Proof.Machine.execAccess s
  | .debugCsrAccess wr off v => Sys2Proof.Machine.execDebugCsrAccess wr off v s
  | .csrRead off => Sys2Proof.Machine.execCsrRead off s
  | .controlSramUncorrectable word taken => Sys2Proof.Machine.execControlSramUncorrectable word taken s
  | .testLogicReset => Sys2Proof.Machine.execTestLogicReset s

end Sys2Proof.Machine
end

