-- ==== Sys2Proof/Machine/Idle.lean ====
section
/-! DEFINITION. What a step on an empty queue does: one CCLK cycle in which nothing is commanded (logs 1, 2). What the cluster does
of itself happens there: storage errors arise (14, R350; log 16), the weight bus loads, precise faults whose earlier
instructions are complete are taken (09, R221), what waits for a tag or a delivery goes on, the heads of the engine queues issue (09, R213);
and the cycle counter (18, R448), the cycles under the power limit (16, R415) and the returned credits (17, R431) follow. -/

namespace Sys2Proof.Machine

open Sys2Proof

/-! ## Counters and credits -/

/-- The first waiting credit of each VC returned to the neighbour: at most one per VC per cycle (17, R431). -/
def returnCredits (p : Port) : Port :=
  let drop := fun (l : List (BitVec 2 × BitVec 2)) (vc : BitVec 2) => l.eraseP fun c => c.1 == vc
  { p with crRet := drop (drop (drop (drop p.crRet 0) 1) 2) 3 }

/-- The counters of cycles and the credits that go out in a cycle. -/
def countCycle (s : State) : State :=
  let cyc := if counting s then s.perf.cycles + 1 else s.perf.cycles
  let thr := if clusterUp s && limited s then s.pwr.thrCnt + 1 else s.pwr.thrCnt
  { s with
    perf := { s.perf with cycles := cyc }
    pwr := { s.pwr with thrCnt := thr }
    rev := { s.rev with east := returnCredits s.rev.east, west := returnCredits s.rev.west } }

/-! ## Storage errors (14, R350, R351; log 16) -/

/-- The location that an error strikes, when something is stored there: a word of a valid scratchpad line, a row of Firn or of the
row statistics that is not as after R120, a valid line of a tile register, a cached line, a word of control SRAM. -/
def upsetPlace (s : State) (u : Upset) : Option Place :=
  match u.src with
  | 3 => if s.pad.valid.getLsbD (u.a % 2 ^ 22 / 128) then some (.pad (u.a % 2 ^ 22)) else none
  | 4 =>
    let a := u.a % 5
    let r := u.b % 2048
    if a = 4 then if statRow s r = .reset then none else some (.firn a r)
    else if (firnRow s a r).zero then none else some (.firn a r)
  | 5 =>
    let t := BitVec.ofNat 4 u.a
    if (getT s t).valid.getLsbD (u.b % 64) then some (.tile t.toNat (u.b % 64)) else none
  | 6 =>
    if u.b % 2 = 0 then (s.seq.icache[u.a]?).map fun l => .icache l.1
    else (s.strm.dcache[u.a]?).map fun l => .dcache l.1
  | 7 => if s.seq.run.any (·.fetching) then some .decode else none
  | 9 => some (.sram (u.a % 65536))
  | _ => none

/-- What is stored at a location once an error that cannot be corrected has struck it: the bits of `flips` have changed. -/
def spoil (s : State) (p : Place) (flips : Nat) : State :=
  match p with
  | .pad w => { s with pad := padWrite s.pad (8 * w) (natBytes 8 (leNat (padRead s.pad (8 * w) 8) ^^^ flips)) }
  | .firn a r =>
    if a = 4 then
      let x := statRow s r
      setStatRow s r { x with w0 := x.w0 ^^^ BitVec.ofNat 32 flips }
    else
      let x := firnRow s a r
      setFirnRow s a r { x with words := x.words ^^^ BitVec.ofNat 4096 flips }
  | .tile t l =>
    let k := BitVec.ofNat 4 t
    setT s k { getT s k with data := (getT s k).data ^^^ BitVec.ofNat 524288 (flips % 2 ^ 8192 * 2 ^ (8192 * l)) }
  | _ => s

/-- An error lies at a location from now on; a location that holds one that cannot be corrected keeps it. -/
def addMark (s : State) (p : Place) (hard : Bool) : State :=
  let hard := hard || s.chk.marks.any fun m => m.place == p && m.hard
  { s with chk := { s.chk with marks := ⟨p, hard⟩ :: s.chk.marks.filter fun m => m.place != p } }

/-- A mismatch of the duplicated decode: the word that the sequencer decodes does not issue (Table 14-1, Source 7). -/
def decodeMismatch (s : State) : State :=
  match s.seq.run with
  | some r => checkEvent s eDecode 7 0 r.pc 0 (some r.uid) 0
  | none => s

/-- A storage error arises: nowhere, in the decoder, or at a location, whose stored data it may change. -/
def strike (s : State) (u : Upset) : State :=
  match upsetPlace s u with
  | none => s
  | some .decode => decodeMismatch s
  | some p => addMark (if u.hard then spoil s p u.flips else s) p u.hard

/-- The storage error, if any, of this quiet cycle. -/
def raiseUpset (s : State) : State :=
  let t := { s with chk := { s.chk with upsets := s.chk.upsets + 1 } }
  match Config.upset s.chk.upsets with
  | none => t
  | some u => strike t u

/-! ## What goes on of itself -/

/-- A precise fault that waited is taken once every earlier instruction is complete (09, R221). -/
def takeHeld (s : State) : State :=
  match s.seq.run with
  | none => s
  | some r =>
    match r.fault with
    | none => s
    | some f => if issuedDone s r.uid f.seq then takeFault s r f else s

/-- The oldest instruction of an engine queue issues, if nothing holds it (09, R213; log 1). -/
def issueHead (s : State) (q : Queue) : State :=
  match s.seq.queue.find? fun e => e.q == q with
  | none => s
  | some e =>
    match exec e.c { s with seq := { s.seq with issuing := some e } } with
    | .next t => { t with seq := { t.seq with issuing := none } }
    | _ => s

/-- What the units of a cluster that is up do in a quiet cycle. -/
def unitsCycle (s : State) : State :=
  let s := raiseUpset s
  let s := icacheTake (afterAnswer (loadBg s))
  settle ([Queue.m, Queue.v, Queue.d].foldl issueHead (takeHeld s))

/-- A quiet cycle. -/
def idleCycle (s : State) : State :=
  let s := countCycle s
  if clusterUp s then unitsCycle s else s

end Sys2Proof.Machine
end

