-- ==== Sys2Proof/Machine/Step.lean ====
section
/-! DEFINITION. One step of the cluster: the command at the front of the queue, or a quiet cycle of CCLK. -/

namespace Sys2Proof.Machine

open Sys2Proof

/-- The command at the front of the queue runs on the state with the rest of the queue; on an empty queue one quiet
cycle of CCLK passes (log 2). -/
def step (s : State) : Host.Outcome State Fault Refusal :=
  match s.pending with
  | [] => .next (idleCycle s)
  | c :: rest => exec c { s with pending := rest }

/-- The state with the command that a table word spells put at the front of the queue; the table gives no row bits, so
no word spells a command and the state stands (log 6). -/
def State.withFetchWord (s : State) (nbits w : Nat) : State :=
  match decodeTableWord nbits w with
  | some c => { s with pending := c :: s.pending }
  | none => s

end Sys2Proof.Machine
end

