-- ==== Sys2Proof/Safety.lean ====
section
/-! DEFINITION. The terms in which statements are made: when an instruction can issue, what the lanes of a vector result
are, which parts of the state an effect leaves alone, and the canonical form of what State holds sparsely. -/

namespace Sys2Proof.Machine

open Sys2Proof

/-! ## Issue (09, R213, R215, R216; 10, R260) -/

/-- An instruction `c` of `words` words on queue `q` as the sequencer of the run `r` meets it, at the next place in program
order. -/
def fetchedAt (s : State) (r : Run) (q : Queue) (words : Nat) (c : Instr) (regs : List (BitVec 5)) : Queued :=
  ⟨c, q, r.uid, s.seq.nextUid, r.pc, words, regs, r.route⟩

/-- The running instance `i` with context `r` can issue the instruction `c` of `words` words on queue `q`: it fetches, no
WAITQ holds the fetch, the words lie within its code, the cached code does not say otherwise, they pass the checks of Table
9-10, and no earlier instruction that has not issued, no register that waits for a result and no lack of scoreboard
entries holds it back. -/
structure Issuable (s : State) (r : Run) (i : Inst) (q : Queue) (words : Nat) (c : Instr) (regs : List (BitVec 5)) :
    Prop where
  running  : s.seq.run = some r
  inst     : findInst s r.uid = some i
  fetched  : s.seq.issuing = none
  fetching : r.fetching = true
  free     : (s.seq.queue.any fun a => waitHolds a.c .s) = false
  inCode   : r.pc + 16 * words ≤ codeLen s i
  here     : fetchOf s i r.pc c = .this
  checked  : executeCheck (runCtx s i) c = none
  ready    : issueReady s (fetchedAt s r q words c regs) = true

/-- No storage error lies undetected (14, R351). What a read that meets one does is stated apart from what it reads. -/
def Clean (s : State) : Prop := s.chk.marks = []

/-- The state after an instruction of `words` words at the run `r` whose effect is `t`. -/
def after (t : State) (r : Run) (words : Nat) : State := setPc t (r.pc + 16 * words)

/-- The state in which a vector instruction has its effect: it has been counted (19, VEC_ISSUE). -/
def counted (s : State) : State := perfAdd s 0x0201 1

/-- A vector instruction `c` on registers `regs` has the effect `t` wherever it can issue. -/
def VecEffect (c : Instr) (regs : List (BitVec 5)) (s : State) (r : Run) (i : Inst) (t : State) : Prop :=
  Issuable s r i .v 1 c regs → exec c s = .next (after t r 1)

/-! ## Lanes (07, R160 to R163) -/

/-- What an element-wise instruction of word `w` writes: with elements of `b` bits below `e`, `f` giving each active
element's bits and flags, the new value of VD is `v` and the flags raised are `fl`. -/
structure LaneResult (s : State) (w : VecWord) (b e : Nat) (f : Nat → Nat × Flags) (v : VReg) (fl : Flags) : Prop where
  active : ∀ n < e, (getK s w.km).getLsbD n = true → vElem v b n = (f n).1 % 2 ^ b
  idle   : ∀ n < e, (getK s w.km).getLsbD n = false → vElem v b n = if w.mz then 0 else vElem (getV s w.vd) b n
  rest   : ∀ j, b * e ≤ j → v.getLsbD j = (getV s w.vd).getLsbD j
  flags  : fl = orFlags (((List.range e).filter fun n => (getK s w.km).getLsbD n).map fun n => (f n).2)

/-- An element-wise instruction wherever it can issue: VD takes the lanes of `f`, VEC_NUMSTAT the flags, `u` is the state
that its counters leave. -/
def LaneEffect (c : Instr) (regs : List (BitVec 5)) (w : VecWord) (s u : State) (r : Run) (i : Inst) (b e : Nat)
    (f : Nat → Nat × Flags) : Prop :=
  Issuable s r i .v 1 c regs →
    ∃ v fl, exec c s = .next (after (raiseVec (setV u w.vd v) fl) r 1) ∧ LaneResult s w b e f v fl

/-- The number of elements of format `t` that take part (R161). -/
def lanesOf (s : State) (t : BitVec 4) : Nat := min s.vec.vl.toNat (16384 / fmtBits (vfmt t))

/-! ## Exact values and correct rounding (03, R44 to R61) -/

/-- The exact value of a code: of an integer format, or of a floating-point code that is finite; 0 for the others (R44). -/
def ratOf (f : Fmt) (c : Nat) : ℚ :=
  match fpDecode f c with
  | .fin n m e => (if n then -1 else 1) * m * 2 ^ e
  | _ => 0

/-- The numerical order of two codes that are not NaN, with the infinities beyond every finite value (R55). -/
def below (f : Fmt) (a b : Nat) : Prop :=
  match fpDecode f a, fpDecode f b with
  | .inf x, .inf y => x = true ∧ y = false
  | .inf x, .fin _ _ _ => x = true
  | .fin _ _ _, .inf y => y = false
  | .fin _ _ _, .fin _ _ _ => ratOf f a < ratOf f b
  | _, _ => False

/-- What a finite overflow gives: the largest finite value where the destination saturates or the mode rounds toward zero,
otherwise the infinity, or the NaN of a format that has none (R58, R59). -/
def ovCode (f : Fmt) (m : Rm) (sat neg : Bool) : Nat :=
  let sg := if neg then fmtSign f else 0
  let inf := match fmtInf f with
    | some i => i + sg
    | none => fmtNan f
  if sat then fmtMaxCode f + sg
  else
    match m with
    | .rne => inf
    | .rtz => fmtMaxCode f + sg
    | .rdn => if neg then inf else fmtMaxCode f
    | .rup => if neg then fmtMaxCode f + sg else inf

/-- The mode rounds a value of this sign away from zero, or toward it (Table 3-5). -/
def awayFrom (m : Rm) (x : ℝ) : Prop := (m = .rup ∧ 0 < x) ∨ (m = .rdn ∧ x < 0)

def towardZero (m : Rm) (x : ℝ) : Prop := m = .rtz ∨ (m = .rdn ∧ 0 < x) ∨ (m = .rup ∧ x < 0)

/-- `x` overflows: rounded with unbounded exponent it exceeds the largest finite value (R50, Table 3-6). -/
def Overflows (f : Fmt) (m : Rm) (x : ℝ) : Prop :=
  let top : ℝ := ratOf f (fmtMaxCode f)
  let ulp : ℝ := ratOf f (fmtMaxCode f) - ratOf f (fmtMaxCode f - 1)
  (m = .rne ∧ (top + ulp / 2 < |x| ∨ (top + ulp / 2 = |x| ∧ fmtMaxCode f % 2 = 1))) ∨ (awayFrom m x ∧ top < |x|) ∨
    (towardZero m x ∧ top + ulp ≤ |x|)

/-- `x` is tiny: rounded with unbounded exponent it lies below the smallest normal value (R50). -/
def Tiny (f : Fmt) (m : Rm) (x : ℝ) : Prop :=
  let least : ℝ := ratOf f (2 ^ fmtM f)
  let step : ℝ := ratOf f 1
  (m = .rne ∧ |x| < least - step / 4) ∨ (towardZero m x ∧ |x| < least) ∨ (awayFrom m x ∧ |x| ≤ least - step / 2)

/-- The code `c` is finite, and its value is the one of the format that the mode takes for `x`: the nearest, of two the one with
an even code; the greatest in magnitude not beyond `x`; the greatest not above it; the least not below it (R48, R49). -/
structure Nearest (f : Fmt) (m : Rm) (x : ℝ) (c : Nat) : Prop where
  code   : c < 2 ^ fmtBits f
  finite : fpIsFinite f c = true
  rne    : m = .rne → ∀ y < 2 ^ fmtBits f, fpIsFinite f y = true →
    |(ratOf f c : ℝ) - x| ≤ |(ratOf f y : ℝ) - x| ∧
      (|(ratOf f c : ℝ) - x| = |(ratOf f y : ℝ) - x| → ratOf f y ≠ ratOf f c → c % 2 = 0)
  rtz    : m = .rtz → |(ratOf f c : ℝ)| ≤ |x| ∧ 0 ≤ (ratOf f c : ℝ) * x ∧
    ∀ y < 2 ^ fmtBits f, fpIsFinite f y = true → |(ratOf f y : ℝ)| ≤ |x| → |(ratOf f y : ℝ)| ≤ |(ratOf f c : ℝ)|
  rdn    : m = .rdn → (ratOf f c : ℝ) ≤ x ∧
    ∀ y < 2 ^ fmtBits f, fpIsFinite f y = true → (ratOf f y : ℝ) ≤ x → (ratOf f y : ℝ) ≤ ratOf f c
  rup    : m = .rup → x ≤ (ratOf f c : ℝ) ∧
    ∀ y < 2 ^ fmtBits f, fpIsFinite f y = true → x ≤ (ratOf f y : ℝ) → (ratOf f c : ℝ) ≤ ratOf f y
  zero   : ratOf f c = 0 → (x < 0 ∧ f ≠ .f4 → c = fmtSign f) ∧ (0 < x ∨ f = .f4 → c = 0)

/-- `r` is the exact value `x`, which is not 0, rounded once into the format `f` under the mode `m`, with the flags of R50 and
R61; `sat` says that a finite overflow saturates. -/
structure RoundsTo (f : Fmt) (m : Rm) (sat : Bool) (x : ℝ) (r : Nat × Flags) : Prop where
  above : Overflows f m x → 0 < x → r = (ovCode f m sat false, flOverflow ||| flInexact)
  below : Overflows f m x → x < 0 → r = (ovCode f m sat true, flOverflow ||| flInexact)
  near  : ¬ Overflows f m x → Nearest f m x r.1
  exact : ¬ Overflows f m x → (ratOf f r.1 : ℝ) = x → r.2 = 0
  small : ¬ Overflows f m x → (ratOf f r.1 : ℝ) ≠ x → Tiny f m x → r.2 = flInexact ||| flUnderflow
  large : ¬ Overflows f m x → (ratOf f r.1 : ℝ) ≠ x → ¬ Tiny f m x → r.2 = flInexact

/-- A node of the tree of a reduction over the leaves `leaf`: at level 0 a leaf, at level `k + 1` node `j` combines nodes 2j and
2j + 1 of level `k`, in this order; a node whose partner is absent stands for itself (07, R177). Flags join. -/
def treeNode (f : Nat → Nat → Nat × Flags) (leaf : Nat → Option Nat × Flags) : Nat → Nat → Option Nat × Flags
  | 0, j => leaf j
  | k + 1, j =>
    let x := treeNode f leaf k (2 * j)
    let y := treeNode f leaf k (2 * j + 1)
    match x.1, y.1 with
    | some a, some b => (some (f a b).1, (f a b).2 ||| x.2 ||| y.2)
    | some a, none => (some a, x.2 ||| y.2)
    | none, z => (z, x.2 ||| y.2)

/-! ## Cholesky factors (13, R339) -/

/-- The pivot of column `k`: the diagonal entry of `a` less the squares of the entries before it in its row of the factor `c`, each
by fma, ascending. -/
def pivot (a c : Nat → Nat → Nat) (k : Nat) : Nat :=
  (List.range k).foldl (fun x j => (fpFma .fp32 .rne false false (uNeg (c k j)) (c k j) x).1) (a k k)

/-- The first `n` columns of `c` are those of the Cholesky factor of `a`, B x B, by the recurrence of R339, each pivot above
`thr`. -/
structure Factor (b : Nat) (a : Nat → Nat → Nat) (thr n : Nat) (c : Nat → Nat → Nat) : Prop where
  above : ∀ k < n, (fpCmp .fp32 .gt (pivot a c k) thr).1 = true
  diag  : ∀ k < n, c k k = (fpSqrt .fp32 .rne (pivot a c k)).1
  below : ∀ k < n, ∀ i, k < i → i < b → c i k = (fpDiv .fp32 .rne
    ((List.range k).foldl (fun x j => (fpFma .fp32 .rne false false (uNeg (c i j)) (c k j) x).1) (a i k)) (c k k)).1

/-! ## Frames -/

/-- Everything but the vector registers, the mask registers, VL, the numeric status, the scalar registers, the code offset
and the counters is as before: tiles, Firn, streams, ring, update engine, checking, mailboxes, power. -/
structure SameOutside (s t : State) : Prop where
  pending : t.pending = s.pending
  tiles   : t.tiles = s.tiles
  mat     : t.mat = s.mat
  firn    : t.firn = s.firn
  fault   : t.vec.faultLast = s.vec.faultLast
  insts   : t.seq.insts = s.seq.insts
  modl    : t.seq.modl = s.seq.modl
  seqF    : t.seq.fault = s.seq.fault
  late    : t.seq.late = s.seq.late
  held    : t.seq.held = s.seq.held
  queue   : t.seq.queue = s.seq.queue
  issuing : t.seq.issuing = s.seq.issuing
  icache  : t.seq.icache = s.seq.icache
  start   : t.seq.startSel = s.seq.startSel
  due     : t.seq.lateDue = s.seq.lateDue
  strm    : t.strm = s.strm
  rev     : t.rev = s.rev
  upd     : t.upd = s.upd
  chk     : t.chk = s.chk
  ctl     : t.ctl = s.ctl
  feat    : t.feat = s.feat
  boot    : t.boot = s.boot
  pwr     : t.pwr = s.pwr
  dbg     : t.dbg = s.dbg

/-- The frame of an instruction that writes the vector register `vd` and flags only. -/
structure VecFrame (s t : State) (vd : BitVec 5) : Prop where
  out  : SameOutside s t
  regs : ∀ x, x ≠ vd → getV t x = getV s x
  k    : ∀ x, getK t x = getK s x
  vl   : t.vec.vl = s.vec.vl
  scal : ∀ x, getS t x = getS s x
  mem  : ∀ a, padGet t.pad a = padGet s.pad a

/-- The frame of an instruction that stores to the scratchpad: no register, no row, no tile and no numeric status changes. -/
structure StoreFrame (s t : State) : Prop where
  pending : t.pending = s.pending
  tiles   : t.tiles = s.tiles
  mat     : t.mat = s.mat
  firn    : t.firn = s.firn
  vec     : t.vec = s.vec
  seq     : t.seq = s.seq
  strm    : t.strm = s.strm
  rev     : t.rev = s.rev
  upd     : t.upd = s.upd
  chk     : t.chk = s.chk
  ctl     : t.ctl = s.ctl

/-- A target-side request answered with TS_RESP and TS_RS, with zero data, and nothing else (17, R425, R426). -/
def answered (s : State) (r : TargetReq) (resp rs : BitVec 2) : Host.Outcome State Fault Refusal :=
  .next { s with strm := { s.strm with rsp := resp, rspRs := rs, rspData := 0, rspBeats := targetBeats r 0 } }

/-! ## Memory -/

/-- The physical address `a` is one of the `b` bytes of element `n` of a buffer access (07, R181; 04, R94). -/
def elemByte (buf : Buf) (f4 : Bool) (off str : Int) (b n a : Nat) : Prop :=
  ∃ k < b, bufPhys buf ((memAddr f4 off str n).toNat + k) = a

/-- The canonical form of the scratchpad: addresses strictly rising within 32 MiB, no listed byte of value 0, and every
listed byte in a valid line. -/
def Pad.wf (p : Pad) : Bool := memWf 33554432 p.cells && p.cells.all fun c => p.valid.getLsbD (c.1 / 1024)

/-- A buffer that has the frames of its size: distinct, and of the 512 of the scratchpad (04, R88, R93). -/
def Buf.wf (b : Buf) : Prop := (∀ f ∈ b.frames, f < 512) ∧ b.frames.Nodup ∧ b.size ≤ 65536 * b.frames.length

/-- Bit `k` of a tile register as a read sees it: zero in an invalid line (04, R79). -/
def tileBit (t : Tile) (k : Nat) : Bool := t.valid.getLsbD (k / 8192) && t.data.getLsbD k

/-- The canonical form of Firn: keys strictly rising, no listed row as it is after reset. -/
def Firn.wf (f : Firn) : Bool :=
  kSorted f.rows && f.rows.all (fun x => decide (x.2 ≠ .reset)) && kSorted f.stats
    && f.stats.all fun x => decide (x.2 ≠ .reset)

/-- The canonical forms of the whole state, and VL within its range (04 R88, R93, R94; 07 R165). -/
structure Canonical (s : State) : Prop where
  pad  : Pad.wf s.pad = true
  bufs : ∀ b ∈ s.strm.bufs, Buf.wf b
  firn : Firn.wf s.firn = true
  vl   : 1 ≤ s.vec.vl.toNat ∧ s.vec.vl.toNat ≤ 512

end Sys2Proof.Machine
end

