-- ==== Sys2Proof/Certificates/Slice0/Obligations.lean ====
section
/-! DEFINITION. The statements about the ZC-4 cluster, each a closed proposition. Rule numbers and table numbers are those
of spec/. -/

open Sys2Proof Sys2Proof.Machine

/-! ## The vector engine (07) -/

/-- INT32 lanes (R161, R162, R169, Table 7-5): sums, differences and products keep the low 32 bits, VMIN and VMAX
take the signed order, shifts take the amount modulo 32; no flag. -/
def Obligations.VecInt32Lanes : Prop :=
  ∀ (s : State) (r : Run) (i : Inst) (w : VecWord), w.t = 1 →
    let eff := fun (c : Instr) (f : Word → Word → Word) =>
      LaneEffect c [] w s (counted s) r i 32 (lanesOf s 1) fun n =>
        ((f (BitVec.ofNat 32 (vElem (getV s w.va) 32 n)) (BitVec.ofNat 32 (vElem (getV s w.vb) 32 n))).toNat, 0)
    eff (.vadd w) (fun a b => a + b) ∧ eff (.vsub w) (fun a b => a - b) ∧ eff (.vmul w) (fun a b => a * b) ∧
    eff (.vmin w) (fun a b => if b.slt a then b else a) ∧ eff (.vmax w) (fun a b => if a.slt b then b else a) ∧
    eff (.vand w) (fun a b => a &&& b) ∧ eff (.vor w) (fun a b => a ||| b) ∧ eff (.vxor w) (fun a b => a ^^^ b) ∧
    eff (.vsll w) (fun a b => a <<< (b.toNat % 32)) ∧ eff (.vsrl w) (fun a b => a >>> (b.toNat % 32)) ∧
    eff (.vsra w) (fun a b => a.sshiftRight (b.toNat % 32))

/-- Floating-point lanes (R167, R51, R56): each active element is the IEEE result in the format of T under RM. VABS
clears the sign bit, VNEG inverts it, VCPYS takes that of VB; no other bit changes and no flag is raised (R168). The
NaN rule of R51: the first NaN operand, quieted, is the result of a sum, a product and a quotient; INVALID is raised
exactly when an operand is a signalling NaN. Sum, difference, product, the four fused forms, quotient and square root
of finite operands are the exact value rounded once, with the flags of R50 and R61 (R51, R49); an exact zero has the
sign of IEEE 754. Minimum and maximum are those of R56. -/
def Obligations.VecFloatLanes : Prop :=
  (∀ (s : State) (r : Run) (i : Inst) (w : VecWord),
      let f := vfmt w.t
      let m := rmOf w.rm
      let eff := fun (c : Instr) (g : Nat → Nat → Nat → Nat × Flags) =>
        LaneEffect c [] w s (counted s) r i (fmtBits f) (lanesOf s w.t) fun n =>
          g (vElem (getV s w.va) (fmtBits f) n) (vElem (getV s w.vb) (fmtBits f) n) (vElem (getV s w.vc) (fmtBits f) n)
      (w.t ≠ 1 →
        eff (.vadd w) (fun a b _ => fpAdd f m a b) ∧ eff (.vsub w) (fun a b _ => fpSub f m a b) ∧
        eff (.vmul w) (fun a b _ => fpMul f m a b) ∧ eff (.vmin w) (fun a b _ => fpMinMax f false a b) ∧
        eff (.vmax w) (fun a b _ => fpMinMax f true a b)) ∧
      eff (.vdiv w) (fun a b _ => fpDiv f m a b) ∧ eff (.vsqrt w) (fun a _ _ => fpSqrt f m a) ∧
      eff (.vfma w) (fun a b c => fpFma f m false false a b c) ∧ eff (.vfms w) (fun a b c => fpFma f m false true a b c) ∧
      eff (.vfnma w) (fun a b c => fpFma f m true false a b c) ∧ eff (.vfnms w) (fun a b c => fpFma f m true true a b c)) ∧
  (∀ (s : State) (r : Run) (i : Inst) (w : VecWord),
      let b := fmtBits (vfmt w.t)
      let sg := 2 ^ (b - 1)
      let eff := fun (c : Instr) (g : Nat → Nat → Nat) =>
        LaneEffect c [] w s (counted s) r i b (lanesOf s w.t) fun n =>
          (g (vElem (getV s w.va) b n) (vElem (getV s w.vb) b n), 0)
      eff (.vabs w) (fun x _ => x % sg) ∧ eff (.vneg w) (fun x _ => x % sg + (1 - x / sg) * sg) ∧
      eff (.vcpys w) (fun x y => x % sg + y / sg * sg)) ∧
  (∀ (f : Fmt) (m : Rm) (a b : Nat), fmtIsInt f = false → (fpIsNan f a || fpIsNan f b) = true →
      let r := (fpQuiet f (if fpIsNan f a then a else b), flagIf (fpIsSnan f a || fpIsSnan f b) flInvalid)
      fpAdd f m a b = r ∧ fpSub f m a b = r ∧ fpMul f m a b = r ∧ fpDiv f m a b = r) ∧
  (∀ (f : Fmt) (m : Rm) (a b c : Nat), fmtInf f ≠ none → a < 2 ^ fmtBits f → b < 2 ^ fmtBits f → c < 2 ^ fmtBits f →
      fpIsFinite f a = true → fpIsFinite f b = true → fpIsFinite f c = true →
      let x : ℝ := ratOf f a
      let y : ℝ := ratOf f b
      let z : ℝ := ratOf f c
      let rounds := fun (v : ℝ) (r : Nat × Flags) => v ≠ 0 → RoundsTo f m false v r
      rounds (x + y) (fpAdd f m a b) ∧ rounds (x - y) (fpSub f m a b) ∧ rounds (x * y) (fpMul f m a b) ∧
      rounds (x * y + z) (fpFma f m false false a b c) ∧ rounds (x * y - z) (fpFma f m false true a b c) ∧
      rounds (-(x * y) + z) (fpFma f m true false a b c) ∧ rounds (-(x * y) - z) (fpFma f m true true a b c) ∧
      (y ≠ 0 → rounds (x / y) (fpDiv f m a b)) ∧ (0 < x → rounds (Real.sqrt x) (fpSqrt f m a)) ∧
      (x + y = 0 → fpAdd f m a b =
        (if (if fpNegBit f a = fpNegBit f b then fpNegBit f a else decide (m = .rdn)) then fmtSign f else 0, 0)) ∧
      (x * y = 0 → fpMul f m a b = (if fpNegBit f a = fpNegBit f b then 0 else fmtSign f, 0)) ∧
      (y = 0 → x ≠ 0 → fpDiv f m a b = (fpInfCode f (fpNegBit f a != fpNegBit f b), flOverflow)) ∧
      (x < 0 → fpSqrt f m a = (fmtNan f, flInvalid))) ∧
  (∀ (f : Fmt) (a b : Nat), fmtIsInt f = false → a < 2 ^ fmtBits f → b < 2 ^ fmtBits f →
      let sn := flagIf (fpIsSnan f a || fpIsSnan f b) flInvalid
      (fpIsNan f a = true → fpIsNan f b = true →
        fpMinMax f false a b = (fmtNan f, sn) ∧ fpMinMax f true a b = (fmtNan f, sn)) ∧
      (fpIsNan f a = true → fpIsNan f b = false → fpMinMax f false a b = (b, sn) ∧ fpMinMax f true a b = (b, sn)) ∧
      (fpIsNan f a = false → fpIsNan f b = true → fpMinMax f false a b = (a, sn) ∧ fpMinMax f true a b = (a, sn)) ∧
      (fpIsNan f a = false → fpIsNan f b = false →
        (below f a b → fpMinMax f false a b = (a, 0) ∧ fpMinMax f true a b = (b, 0)) ∧
        (below f b a → fpMinMax f false a b = (b, 0) ∧ fpMinMax f true a b = (a, 0)) ∧
        (ratOf f a = 0 → fpIsFinite f a = true → ratOf f b = 0 → fpIsFinite f b = true →
          fpMinMax f false a b = (if fpNegBit f a then a else b, 0) ∧
          fpMinMax f true a b = (if fpNegBit f a then b else a, 0))))

/-- A transcendental instruction writes the function of each active element and is counted twice: as a vector
instruction and as a transcendental one (R170, 19 Table 19-2). What Table 7-6 fixes exactly: NaN operands, infinities
and zeros, an overflowing VEXP2, a negative operand of VLOG2 and VRSQRT, and the operands whose results are exact
powers or integers (R170). Every other finite operand gives a result within the bound of Table 7-6 around the exact
value, which lies in the enclosure that the model computes (R170); INEXACT is then raised (R171). Of these the
model's choices: log 7, free values within the bounds of Table 7-6; log 47, open points of flags and order. -/
def Obligations.VecTransLanes : Prop :=
  (∀ (s : State) (r : Run) (i : Inst) (w : VecWord), w.t = 0 →
      let eff := fun (c : Instr) (fn : TransFn) =>
        LaneEffect c [] w s (perfAdd (counted s) 0x0203 1) r i 32 (lanesOf s 0) fun n =>
          fpTrans fn (vElem (getV s w.va) 32 n)
      eff (.vexp2 w) .exp2 ∧ eff (.vlog2 w) .log2 ∧ eff (.vrcp w) .rcp ∧ eff (.vrsqrt w) .rsqrt ∧
      eff (.vtanh w) .tanh ∧ eff (.vsigm w) .sigm) ∧
  ((∀ (fn : TransFn) (c : Nat), fpIsNan .fp32 c = true →
      fpTrans fn c = (fpQuiet .fp32 c, flagIf (fpIsSnan .fp32 c) flInvalid)) ∧
    (∀ c, c = 0 ∨ c = 0x80000000 →
      fpTrans .exp2 c = (0x3F800000, 0) ∧ fpTrans .log2 c = (0xFF800000, flOverflow) ∧
      fpTrans .rcp c = (c + 0x7F800000, flOverflow) ∧ fpTrans .rsqrt c = (c + 0x7F800000, flOverflow) ∧
      fpTrans .tanh c = (c, 0) ∧ fpTrans .sigm c = (0x3F000000, 0)) ∧
    fpTrans .exp2 0x7F800000 = (0x7F800000, 0) ∧ fpTrans .exp2 0xFF800000 = (0, 0) ∧
    fpTrans .log2 0x7F800000 = (0x7F800000, 0) ∧ fpTrans .log2 0xFF800000 = (0x7FC00000, flInvalid) ∧
    fpTrans .rcp 0x7F800000 = (0, 0) ∧ fpTrans .rcp 0xFF800000 = (0x80000000, 0) ∧
    fpTrans .rsqrt 0x7F800000 = (0, 0) ∧ fpTrans .rsqrt 0xFF800000 = (0x7FC00000, flInvalid) ∧
    fpTrans .tanh 0x7F800000 = (0x3F800000, 0) ∧ fpTrans .tanh 0xFF800000 = (0xBF800000, 0) ∧
    fpTrans .sigm 0x7F800000 = (0x3F800000, 0) ∧ fpTrans .sigm 0xFF800000 = (0, 0)) ∧
  (∀ c < 2 ^ 32, fpIsFinite .fp32 c = true →
    let x := ratOf .fp32 c
    let gives := fun (fn : TransFn) (v : ℚ) =>
      fpIsFinite .fp32 (fpTrans fn c).1 = true ∧ ratOf .fp32 (fpTrans fn c).1 = v ∧ (fpTrans fn c).2 = 0
    (128 ≤ x → fpTrans .exp2 c = (0x7F800000, flOverflow ||| flInexact)) ∧
    (∀ k : ℤ, -149 ≤ k → k ≤ 127 → x = k → gives .exp2 (2 ^ k)) ∧
    (x < 0 → fpTrans .log2 c = (0x7FC00000, flInvalid) ∧ fpTrans .rsqrt c = (0x7FC00000, flInvalid)) ∧
    (∀ k : ℤ, x = 2 ^ k → gives .log2 k) ∧
    (∀ k : ℤ, -126 ≤ -k → -k ≤ 127 → (x = 2 ^ k → gives .rcp (2 ^ (-k))) ∧ (x = -2 ^ k → gives .rcp (-2 ^ (-k)))) ∧
    (∀ k : ℤ, x = 4 ^ k → gives .rsqrt (2 ^ (-k)))) ∧
  (∀ (fn : TransFn) (bd : TransBound) (y : Ival) (c : Nat),
    let near := dyRound .fp32 .rne .ieee false (if y.lo.m = 0 then y.hi else y.lo)
    transWithin bd y near.1 = true → near.2 &&& flOverflow = 0 →
      transWithin bd y (transResult fn bd y c).1 = true ∧
      ((transResult fn bd y c).2 = 0 ∨ (transResult fn bd y c).2 &&& flInexact = flInexact)) ∧
  (∀ c < 2 ^ 32, ∀ (n : Bool) (m : Nat) (e : Int), fpDecode .fp32 c = .fin n m e → m ≠ 0 →
    let a := dyOfFin n m e
    let pos := dyAbs a
    let gives := fun (fn : TransFn) (bd : TransBound) (y : Ival) =>
      fpTrans fn c = transResult fn bd y c ∧ transWithin bd y (fpTrans fn c).1 = true
    (¬ 128 ≤ ratOf .fp32 c → gives .exp2 .ulp1 (ivExp2 a)) ∧
    (n = false →
      gives .log2 (if 1 / 2 ≤ ratOf .fp32 c ∧ ratOf .fp32 c ≤ 2 then .abs24 else .ulp1) (ivLog2 m e) ∧
      gives .rsqrt .ulp1 (ivRsqrt m e)) ∧
    gives .rcp .ulp1 (if n then ivNeg (ivDivPos ⟨1, 0⟩ pos) else ivDivPos ⟨1, 0⟩ pos) ∧
    gives .tanh .ulp2 (if n then ivNeg (ivTanhPos pos) else ivTanhPos pos) ∧
    gives .sigm .ulp2 (ivSigm a))

/-- VCMP: a bit below E is 1 exactly when its element is active and the predicate holds, every bit from E up is 0
(R172). VSEL: below E, VA's element where the selector's bit is 1 and VB's where it is 0; the rest of VD stands
(R173). VPERM takes the element that the index of VB names, and gives 0 with INVALID for an index of E or more;
VBCAST copies the low bits of a scalar register; VEXT copies element 0 into one (R175, R176). VCVT converts element i
of the format of T into element i of the format of T2; the wider of the two decides how many elements take part
(R180, R161). Table 7-7 in numbers; a comparison with a NaN holds for NE and UN only, and raises INVALID for an
ordered predicate or a signalling NaN; otherwise the numerical order decides, with -0 equal to +0 and the infinities
beyond every finite value (R55). A conversion rounds the exact value once into a floating-point format, saturating
into F4 and, with SAT, into E4M3 and E5M2; a zero keeps its sign, an integer zero is +0; an infinity stays one, or is
a NaN with INVALID where the destination has none; a NaN gives the value of Table 3-6. Into an integer format it
rounds to an integer and saturates with INVALID, and a NaN gives 0 with INVALID (R57 to R61). -/
def Obligations.VecSelects : Prop :=
  (∀ (s : State) (r : Run) (i : Inst) (w : VecWord) (pred : BitVec 4) (p : Pred), predOf pred.toNat = some p →
      let b := fmtBits (vfmt w.t)
      let x := fun n => vElem (getV s w.va) b n
      let y := fun n => vElem (getV s w.vb) b n
      let res := fun n : Nat =>
        if w.t = 1 then
          (predOrd p (decide (int32Val (x n) < int32Val (y n))) (decide (int32Val (y n) < int32Val (x n))), (0 : Flags))
        else fpCmp (vfmt w.t) p (x n) (y n)
      Issuable s r i .v 1 (.vcmp pred w) [] →
        ∃ m fl, exec (.vcmp pred w) s = .next (after (raiseVec (setK (counted s) (w.vd.truncate 3) m) fl) r 1) ∧
          (∀ n, m.getLsbD n = (decide (n < lanesOf s w.t) && (getK s w.km).getLsbD n && (res n).1)) ∧
          fl = orFlags (((List.range (lanesOf s w.t)).filter fun n => (getK s w.km).getLsbD n).map fun n => (res n).2)) ∧
  (∀ (s : State) (r : Run) (i : Inst) (w : VecWord),
      let b := fmtBits (vfmt w.t)
      Issuable s r i .v 1 (.vsel w) [] →
        ∃ v, exec (.vsel w) s = .next (after (setV (counted s) w.vd v) r 1) ∧
          (∀ n < lanesOf s w.t,
            vElem v b n = vElem (getV s (if (getK s w.km).getLsbD n then w.va else w.vb)) b n) ∧
          ∀ j, b * lanesOf s w.t ≤ j → v.getLsbD j = (getV s w.vd).getLsbD j) ∧
  (∀ (s : State) (r : Run) (i : Inst) (w : VecWord),
      let b := fmtBits (vfmt w.t)
      let e := min s.vec.vl.toNat (16384 / max b 32)
      LaneEffect (.vperm w) [] w s (counted s) r i b e (fun n =>
        let j := vElem (getV s w.vb) 32 n
        if j < e then (vElem (getV s w.va) b j, 0) else (0, flInvalid)) ∧
      LaneEffect (.vbcast w) [w.va] w s (counted s) r i b (lanesOf s w.t) (fun _ => ((getS s w.va).toNat % 2 ^ b, 0)) ∧
      VecEffect (.vext w) [w.vd] s r i (setS (counted s) w.vd (BitVec.ofNat 64 (vElem (getV s w.va) b 0)))) ∧
  (∀ (s : State) (r : Run) (i : Inst) (w : VecWord),
      let a := vfmt w.t
      let d := vfmt w.t2
      LaneEffect (.vcvt w) [] w s (counted s) r i (fmtBits d)
        (min s.vec.vl.toNat (16384 / max (fmtBits a) (fmtBits d)))
        fun n => fpConvert a d (rmOf w.rm) w.sat (vElem (getV s w.va) (fmtBits a) n)) ∧
  ((List.range 9).map predOf =
      [some .eq, some .ne, some .lt, some .le, some .gt, some .ge, some .un, some .ord, none]) ∧
  (∀ (f : Fmt) (p : Pred) (a b : Nat), fmtIsInt f = false → a < 2 ^ fmtBits f → b < 2 ^ fmtBits f →
      ((fpIsNan f a || fpIsNan f b) = true →
        fpCmp f p a b = (decide (p = .ne ∨ p = .un),
          flagIf (p = .lt ∨ p = .le ∨ p = .gt ∨ p = .ge ∨ fpIsSnan f a = true ∨ fpIsSnan f b = true) flInvalid)) ∧
      (fpIsNan f a = false → fpIsNan f b = false →
        (fpCmp f p a b).2 = 0 ∧
        (below f a b → (fpCmp f p a b).1 = decide (p = .ne ∨ p = .lt ∨ p = .le ∨ p = .ord)) ∧
        (below f b a → (fpCmp f p a b).1 = decide (p = .ne ∨ p = .gt ∨ p = .ge ∨ p = .ord)) ∧
        (¬ below f a b → ¬ below f b a → (fpCmp f p a b).1 = decide (p = .eq ∨ p = .le ∨ p = .ge ∨ p = .ord)))) ∧
  (∀ (a d : Fmt) (m : Rm) (sat : Bool) (c : Nat), c < 2 ^ fmtBits a →
      let r := fpConvert a d m sat c
      let full := decide (d = .f4) || sat && decide (d = .e4m3 ∨ d = .e5m2)
      let neg := !fmtIsInt a && fpNegBit a c
      let hi : ℤ := 2 ^ (fmtBits d - 1) - 1
      (fmtIsInt d = false →
        (fpIsFinite a c = true → ratOf a c ≠ 0 → RoundsTo d m full (ratOf a c : ℚ) r) ∧
        (fpIsFinite a c = true → ratOf a c = 0 → r = (if neg then fmtSign d else 0, 0)) ∧
        (fpIsNan a c = false → fpIsFinite a c = false →
          r = match fmtInf d with
            | some i => (i + if neg then fmtSign d else 0, 0)
            | none => (fmtNan d, flInvalid)) ∧
        (fpIsNan a c = true → r = (convNan a d c, flagIf (fpIsSnan a c) flInvalid))) ∧
      (fmtIsInt d = true →
        (fpIsNan a c = true → r = (0, flInvalid)) ∧
        (fpIsNan a c = false → fpIsFinite a c = false →
          r = (if neg then 2 ^ (fmtBits d - 1) else hi.toNat, flInvalid)) ∧
        (fpIsFinite a c = true →
          let x := ratOf a c
          let n : ℤ := match m with
            | .rne => if x - ⌊x⌋ < 1 / 2 ∨ (x - ⌊x⌋ = 1 / 2 ∧ ⌊x⌋ % 2 = 0) then ⌊x⌋ else ⌊x⌋ + 1
            | .rtz => if 0 ≤ x then ⌊x⌋ else ⌈x⌉
            | .rdn => ⌊x⌋
            | .rup => ⌈x⌉
          r = if hi < n then (hi.toNat, flInvalid)
            else if n < -hi - 1 then (2 ^ (fmtBits d - 1), flInvalid)
            else ((n % 2 ^ fmtBits d).toNat, flagIf (decide (x ≠ n)) flInexact)))) ∧
  ((∀ c, convNan .e4m3 .e4m3 c = c ∧ convNan .f4 .f4 c = c) ∧
    (∀ (f : Fmt) (c : Nat), f ≠ .e4m3 → f ≠ .f4 → convNan f f c = fpQuiet f c) ∧
    (∀ c, convNan .fp32 .fp64 c = (if fpNegBit .fp32 c then 2 ^ 63 else 0) + 0x7FF0000000000000
        + fpQuiet .fp32 c % 2 ^ 23 * 2 ^ 29) ∧
    (∀ c, convNan .fp64 .fp32 c = (if fpNegBit .fp64 c then 2 ^ 31 else 0) + 0x7F800000
        + fpQuiet .fp64 c % 2 ^ 52 / 2 ^ 29) ∧
    ∀ (a d : Fmt) (c : Nat), a ≠ d → (a, d) ≠ (.fp32, .fp64) → (a, d) ≠ (.fp64, .fp32) → convNan a d c = fmtNan d)

/-- The mask instructions act on all 512 bits; KPOP counts the ones below VL into a scalar register (R174). SETVL: a
positive value sets VL to it, at most 512, and SD to the new VL (R165). -/
def Obligations.VecMasksAndVl : Prop :=
  (∀ (s : State) (r : Run) (i : Inst) (w : VecWord),
      let a := getK s (w.va.truncate 3)
      let b := getK s (w.vb.truncate 3)
      let eff := fun (c : Instr) (m : Mask) => VecEffect c [] s r i (setK (counted s) (w.vd.truncate 3) m)
      eff (.kand w) (a &&& b) ∧ eff (.kor w) (a ||| b) ∧ eff (.kxor w) (a ^^^ b) ∧ eff (.kandn w) (a &&& ~~~b) ∧
      eff (.knot w) (~~~a) ∧
      VecEffect (.kpop w) [w.vd] s r i (setS (counted s) w.vd (BitVec.ofNat 64
        ((List.range s.vec.vl.toNat).filter fun n => (getK s w.km).getLsbD n).length))) ∧
  (∀ (s : State) (r : Run) (i : Inst) (w : VecWord) (x : SetVlExt) (v : Int),
      v = (if x.vs then (getS s x.ss).toInt else x.imm.toNat) → 0 < v →
      let n := (min v 512).toNat
      let u := counted s
      VecEffect (.setvl w x) (x.sd :: if x.vs then [x.ss] else []) s r i
        (setS { u with vec := { u.vec with vl := BitVec.ofNat 10 n } } x.sd (BitVec.ofNat 64 n)))

/-- A reduction over 512 leaves of 32 bits or 256 of 64 combines neighbours level by level, node 2j before node 2j +
1; a leaf is an active element below E, a signalling NaN among them quieted with INVALID; a node whose partner has no
active element stands for itself (R177). It leaves its tree's value, or the identity of Table 7-8 when no element is
active, in element 0 of VD, and raises the flags of its combinations; the index forms leave the index of the first
active element with that value there, or of the first active element when the value is a NaN, or 0xFFFFFFFF (R177 to
R179). -/
def Obligations.VecReduce : Prop :=
  (∀ (s : State) (w : VecWord) (f : Nat → Nat → Nat × Flags), w.t = 0 ∨ w.t = 1 ∨ w.t = 8 →
    redValue s w f = treeNode f (fun n =>
      let c := vElem (getV s w.va) (fmtBits (vfmt w.t)) n
      if n < lanesOf s w.t ∧ (getK s w.km).getLsbD n = true then
        if w.t ≠ 1 ∧ fpIsSnan (vfmt w.t) c = true then (some (fpQuiet (vfmt w.t) c), flInvalid) else (some c, 0)
      else (none, 0)) (if w.t = 8 then 8 else 9) 0) ∧
  (∀ (s : State) (r : Run) (i : Inst) (w : VecWord),
    let b := fmtBits (vfmt w.t)
    let eff := fun (c : Instr) (f : Nat → Nat → Nat × Flags) (ident : Nat) =>
      VecEffect c [] s r i (raiseVec (setV (counted s) w.vd (bvPut (getV s w.vd) 0 b ((redValue s w f).1.getD ident)))
        (redValue s w f).2)
    let act := (List.range (lanesOf s w.t)).filter fun n => (getK s w.km).getLsbD n
    let idx : Option Nat → Nat := fun v => match v with
      | none => 0xFFFFFFFF
      | some v =>
        if w.t ≠ 1 ∧ fpIsNan (vfmt w.t) v then act.headD 0
        else (act.find? fun n => vElem (getV s w.va) b n == v).getD 0
    let arg := fun (c : Instr) (f : Nat → Nat → Nat × Flags) =>
      VecEffect c [] s r i (raiseVec (setV (counted s) w.vd (bvPut (getV s w.vd) 0 32 (idx (redValue s w f).1)))
        (redValue s w f).2)
    let sel := fun (x y z : Nat) => if w.t = 0 then x else if w.t = 1 then y else z
    eff (.vredsum w) (byFmt w (intOp (· + ·)) fpAdd) 0 ∧
    eff (.vredprod w) (byFmt w (intOp (· * ·)) fpMul) (sel 0x3F800000 1 0x3FF0000000000000) ∧
    eff (.vredmax w) (byFmt w (intOp max) fun f _ => fpMinMax f true) (sel 0xFF800000 0x80000000 0xFFF0000000000000) ∧
    eff (.vredmin w) (byFmt w (intOp min) fun f _ => fpMinMax f false) (sel 0x7F800000 0x7FFFFFFF 0x7FF0000000000000) ∧
    arg (.vredargmax w) (byFmt w (intOp max) fun f _ => fpMinMax f true) ∧
    arg (.vredargmin w) (byFmt w (intOp min) fun f _ => fpMinMax f false))

/-- The INT32 reductions over the active elements, whatever the shape of the tree: the sum and the product modulo
2^32, the greatest and the least element, and the index of the first element that equals it (R177 to R179). -/
def Obligations.VecReduceInt32 : Prop :=
  ∀ (s : State) (r : Run) (i : Inst) (w : VecWord), w.t = 1 → s.vec.vl.toNat ≤ 512 →
    let x := fun n => int32Val (vElem (getV s w.va) 32 n)
    let act := (List.range s.vec.vl.toNat).filter fun n => (getK s w.km).getLsbD n
    let lane0 := fun (c : Instr) (good : Nat → Prop) =>
      Issuable s r i .v 1 c [] → ∃ k < 2 ^ 32, good k ∧
        exec c s = .next (after (raiseVec (setV (counted s) w.vd (bvPut (getV s w.vd) 0 32 k)) 0) r 1)
    lane0 (.vredsum w) (fun k => (k : Int) = (act.map x).sum % 2 ^ 32) ∧
    lane0 (.vredprod w) (fun k => (k : Int) = (act.map x).prod % 2 ^ 32) ∧
    lane0 (.vredmax w) (fun k =>
      if act = [] then k = 0x80000000 else (∃ n ∈ act, x n = int32Val k) ∧ ∀ n ∈ act, x n ≤ int32Val k) ∧
    lane0 (.vredmin w) (fun k =>
      if act = [] then k = 0x7FFFFFFF else (∃ n ∈ act, x n = int32Val k) ∧ ∀ n ∈ act, int32Val k ≤ x n) ∧
    lane0 (.vredargmax w) (fun k =>
      if act = [] then k = 0xFFFFFFFF else k ∈ act ∧ ∀ n ∈ act, x n ≤ x k ∧ (x n = x k → k ≤ n)) ∧
    lane0 (.vredargmin w) (fun k =>
      if act = [] then k = 0xFFFFFFFF else k ∈ act ∧ ∀ n ∈ act, x k ≤ x n ∧ (x n = x k → k ≤ n))

/-- VLD: every active element below E reads its bytes from the buffer; inactive ones follow MZ. It has its effect
where each active element is aligned and inside the buffer and no earlier work holds the range; the reads leave every
register but VD, and every byte, as it was (R181, R162). A read meets the storage errors that lie where it reads, and
a write ends them (14, R350, R351): what that does is stated of check events. VLDT reads 2,048 bytes of a FULL tile
register, invalid lines as zero; VSTT writes them, makes the two lines valid and the register FULL, and changes no
other line (R184, R79, R77). Of these the model's choices: log 4, what an instruction that waits holds back; log 16,
when storage errors arise. -/
def Obligations.VecLoads : Prop :=
  (∀ (s : State) (r : Run) (i : Inst) (w : VecWord) (m : VecMem),
      let b := elemBytes w.t.toNat
      let e := lanesOf s w.t
      let off := offVal s m.or_ m.off
      let str := strVal s m.sr m.str
      let f4 := w.t == 6
      let at_ := fun n => memAddr f4 off str n
      Issuable s r i .v 1 (.vld w m) (offRegs m.or_ m.off ++ strRegs m.sr m.str) →
      (∀ n < e, (getK s w.km).getLsbD n = true →
        at_ n % (b : Int) = 0 ∧ 0 ≤ at_ n ∧ at_ n + b ≤ bufBytes s i.uid m.h.toNat) →
      rngsBusy s s.seq.nextUid [memRng s i.uid m.h e f4 off str b false] = false →
        ∃ v, LaneResult s w (fmtBits (vfmt w.t)) e (fun n =>
            let x := leNat (bufRead s i.uid m.h.toNat (at_ n).toNat b)
            (if f4 then x / 16 ^ (n % 2) % 16 else x, 0)) v 0 ∧
          let t := bufTakes (setV (counted s) w.vd v) i.uid m.h.toNat
            (((List.range e).filter fun n => (getK s w.km).getLsbD n).map fun n => ((at_ n).toNat, b))
          exec (.vld w m) s = .next (after t r 1) ∧
          (Clean s → getV t w.vd = v ∧ VecFrame s t w.vd ∧ t.vec.numstat = s.vec.numstat)) ∧
  (∀ (s : State) (r : Run) (i : Inst) (w : VecWord) (x : VecTile),
      let lo := 16384 * x.lp.toNat
      (Issuable s r i .v 1 (.vldt w x) [] → (getT s x.tt).full = true →
        ∃ v, exec (.vldt w x) s = .next (after
            (tileTake (setV (counted s) w.vd v) i.uid x.tt (2048 * x.lp.toNat) 2048) r 1) ∧
          (Clean s → tileTake (setV (counted s) w.vd v) i.uid x.tt (2048 * x.lp.toNat) 2048 = setV (counted s) w.vd v) ∧
          ∀ k < 16384, v.getLsbD k = tileBit (getT s x.tt) (lo + k)) ∧
      (Issuable s r i .v 1 (.vstt w x) [] → rngsBusy s s.seq.nextUid [rTile x.tt true] = false →
        ∃ u : Tile, exec (.vstt w x) s =
            .next (after (putTile (counted s) x.tt u (2048 * x.lp.toNat) 2048) r 1) ∧
          (Clean s → putTile (counted s) x.tt u (2048 * x.lp.toNat) 2048 = setT (counted s) x.tt u) ∧
          u.full = true ∧ u.shape = (getT s x.tt).shape ∧ u.fmt = (getT s x.tt).fmt ∧
          (∀ l < 64, u.valid.getLsbD l = (decide (l / 2 = x.lp.toNat) || (getT s x.tt).valid.getLsbD l)) ∧
          ∀ k < 524288, tileBit u k =
            if lo ≤ k ∧ k < lo + 16384 then (getV s w.va).getLsbD (k - lo) else tileBit (getT s x.tt) k))

/-- VST: the active elements below E are stored in ascending order; every byte that is not one of an active element
is as it was, no register changes, storage errors where it writes end and nothing else of the check logic changes,
and where no later active element has the same address the element reads back (R181, R183). An F4 element takes its
half of a byte, and the half of an element that is not active stands (R182). Of these the model's choices: log 4,
what an instruction that waits holds back; log 16, when storage errors arise. -/
def Obligations.VecStore : Prop :=
  ∀ (s : State) (r : Run) (i : Inst) (w : VecWord) (m : VecMem) (buf : Buf),
    let b := elemBytes w.t.toNat
    let e := lanesOf s w.t
    let off := offVal s m.or_ m.off
    let str := strVal s m.sr m.str
    let f4 := w.t == 6
    let at_ := fun n => memAddr f4 off str n
    let active := fun n => decide (n < e) && (getK s w.km).getLsbD n
    Issuable s r i .v 1 (.vst w m) (offRegs m.or_ m.off ++ strRegs m.sr m.str) →
    (∀ n < e, (getK s w.km).getLsbD n = true →
      at_ n % (b : Int) = 0 ∧ 0 ≤ at_ n ∧ at_ n + b ≤ bufBytes s i.uid m.h.toNat) →
    rngsBusy s s.seq.nextUid [memRng s i.uid m.h e f4 off str b true] = false →
    findBuf s i.uid m.h.toNat = some buf → Buf.wf buf → Pad.wf s.pad = true →
      ∃ t, exec (.vst w m) s = .next (after t r 1) ∧
        (∀ a, (∀ n, active n = true → ¬ elemByte buf f4 off str b n a) → padGet t.pad a = padGet s.pad a) ∧
        (∀ n, active n = true → f4 = false → (∀ k, n < k → active k = true → at_ k ≠ at_ n) →
          leNat (bufRead t i.uid m.h.toNat (at_ n).toNat b) = vElem (getV s w.va) (fmtBits (vfmt w.t)) n) ∧
        (∀ n < e, f4 = true → 0 ≤ at_ n → at_ n + 1 ≤ bufBytes s i.uid m.h.toNat →
          let nibble := fun u : State => leNat (bufRead u i.uid m.h.toNat (at_ n).toNat 1) / 16 ^ (n % 2) % 16
          nibble t = if active n then vElem (getV s w.va) 4 n else nibble s) ∧
        StoreFrame { s with chk := t.chk } t ∧ t.chk = { s.chk with marks := t.chk.marks } ∧ (Clean s → t.chk = s.chk)

/-- VRDF reads a row of the four slices of Firn into the lanes below E, a ZERO row as +0, and makes the comparisons
of the row; VWRF writes the row of every slice that a lane below E reaches, other lanes as +0, with BLK 1 and CHECKED
0, and no other row (R185, R186, R125, R127). A read of a Firn row that is not CHECKED makes it CHECKED, and compares
it unless it is ZERO; a comparison is counted as passed, skipped or failed, and a mismatch is recorded and is a check
event; an INT32 row passes when the sum of its 128 words is its 64-bit check sum, and is skipped when it has
saturated (R127 to R129, Table 5-7). An FP32 row is skipped where CHK or ABS is not finite; a word that is not
finite, or a rounded sum of the words that lies further from CHK than the tolerance of R128, is a mismatch. Of these
the model's choices: log 16, when storage errors arise; log 28, the check lane of MMV and skips; log 47, open points
of flags and order. -/
def Obligations.VecFirn : Prop :=
  (∀ (s : State) (r : Run) (i : Inst) (w : VecWord) (x : RowOp) (row : Nat), rowVal s x = row → row < 2048 →
      let e := lanesOf s 0
      let lane := fun n => if n < e ∧ (getK s w.km).getLsbD n = true then vElem (getV s w.va) 32 n else 0
      (Issuable s r i .v 1 (.vrdf w x) (rowRegs x) → rngsBusy s s.seq.nextUid [rFirn row 1 false] = false →
        ∃ v, exec (.vrdf w x) s = .next (after (checkReads (raiseVec (setV (counted s) w.vd v) 0)
            [(0, row), (1, row), (2, row), (3, row)] i.uid) r 1) ∧
          LaneResult s w 32 e (fun n =>
            (if (firnRow s (n / 128) row).zero then 0 else bvGet (firnRow s (n / 128) row).words (32 * (n % 128)) 32, 0))
            v 0) ∧
      (Issuable s r i .v 1 (.vwrf w x) (rowRegs x) → rngsBusy s s.seq.nextUid [rFirn row 1 true] = false →
        Firn.wf s.firn = true → 1 ≤ s.vec.vl.toNat → s.vec.vl.toNat ≤ 512 →
        ∃ t, exec (.vwrf w x) s = .next (after t r 1) ∧
          (∀ a < 4, 128 * a < e →
            let y := firnRow t a row
            y.zero = false ∧ y.isInt = (w.t == 1) ∧ y.blk = 1 ∧ y.checked = false ∧ y.sat = false ∧
            ∀ c < 128, firnWord y c = lane (128 * a + c)) ∧
          (∀ a q, a < 4 → q < 2048 → (q ≠ row ∨ e ≤ 128 * a) → firnRow t a q = firnRow s a q) ∧
          (∀ q, statRow t q = statRow s q) ∧ t.vec = s.vec ∧ t.pad = s.pad ∧ t.tiles = s.tiles ∧ t.mat = s.mat)) ∧
  ((∀ (s : State) (a row uid : Nat),
      let u := firnTake s uid a row
      let x := firnRow u a row
      let t := setFirnRow u a row { x with checked := true }
      (Clean s → u = s) ∧ (x.checked = true → checkRead s a row uid = u) ∧
      (x.checked = false → x.zero = true → checkRead s a row uid = t) ∧
      (x.checked = false → x.zero = false → checkRead s a row uid = countCompare t (compareRow x) false a row uid)) ∧
    (∀ (s : State) (mv : Bool) (a row uid : Nat),
      countCompare s .pass mv a row uid = { s with mat := { s.mat with chkComp := s.mat.chkComp + 1 } } ∧
      countCompare s .skip mv a row uid = { s with mat := { s.mat with chkSkip := s.mat.chkSkip + 1 } } ∧
      countCompare s .mismatch mv a row uid = checkEvent { s with mat := { s.mat with
          chkComp := s.mat.chkComp + 1, chkFail := s.mat.chkFail + 1
          chkLast := ⟨true, mv, BitVec.ofNat 2 a, BitVec.ofNat 11 row⟩ } }
        eChkmismatch (if mv then 2 else 1) a row 0 (some uid) 0) ∧
    (∀ x : FirnRow, x.isInt = false → x.zero = false →
      let v := fun c => bvGet x.words (32 * c) 32
      let blk : ℚ := x.blk.toNat
      let chk := x.chk.toNat
      let abs := x.abs.toNat
      let sum : ℚ := ((List.range 128).map fun c => ratOf .fp32 (v c)).sum
      let sound := fpIsFinite .fp32 chk && fpIsFinite .fp32 abs
      (sound = false → compareRow x = .skip) ∧
      (sound = true → (∃ c < 128, fpIsFinite .fp32 (v c) = false) → compareRow x = .mismatch) ∧
      (sound = true → (∀ c < 128, fpIsFinite .fp32 (v c) = true) → ∀ s : Nat × Flags,
        (sum = 0 → s.1 = 0) → (sum ≠ 0 → RoundsTo .fp32 .rne false sum s) →
        let t := (2 * blk + 4) * 2 ^ (-24 : ℤ) * ratOf .fp32 abs + (blk + 1) * 2 ^ (-141 : ℤ)
        compareRow x = if fpIsFinite .fp32 s.1 = false ∨ t < |ratOf .fp32 s.1 - ratOf .fp32 chk| then .mismatch
          else .pass)) ∧
    ∀ x : FirnRow, x.isInt = true → x.zero = false →
      compareRow x = if x.sat then .skip
        else if ((List.range 128).map fun c => int32Val (bvGet x.words (32 * c) 32)).sum = (x.abs ++ x.chk).toInt then .pass
        else .mismatch)

/-- The precise faults of the vector engine: nothing of the instruction happens, it and what follows it leave the
queues, and the fetch stops; once every earlier instruction is complete VEC_FAULTLAST takes the element and the
status, and the run is abandoned (R181, R184, R165, R188, R221). Of these the model's choices: log 12, a store clause
waits as a pending store; log 47, open points of flags and order. -/
def Obligations.VecFaults : Prop :=
  (∀ (s : State) (r : Run) (i : Inst) (w : VecWord),
    let stops := fun (c : Instr) (regs : List (BitVec 5)) (n : Nat) (e : Code) =>
      Issuable s r i .v 1 c regs → exec c s = .next (raiseFault s r ⟨s.seq.nextUid, e, r.pc, some n⟩)
    (∀ (m : VecMem) (n : Nat),
      let b := elemBytes w.t.toNat
      let at_ := fun n => memAddr (w.t == 6) (offVal s m.or_ m.off) (strVal s m.sr m.str) n
      let ok := fun n => at_ n % (b : Int) = 0 ∧ 0 ≤ at_ n ∧ at_ n + b ≤ bufBytes s i.uid m.h.toNat
      n < lanesOf s w.t → (getK s w.km).getLsbD n = true →
      (∀ k < n, (getK s w.km).getLsbD k = true → ok k) →
      (at_ n % (b : Int) ≠ 0 →
        stops (.vld w m) (offRegs m.or_ m.off ++ strRegs m.sr m.str) n eAlign ∧
        stops (.vst w m) (offRegs m.or_ m.off ++ strRegs m.sr m.str) n eAlign) ∧
      (at_ n % (b : Int) = 0 → (at_ n < 0 ∨ (bufBytes s i.uid m.h.toNat : Int) < at_ n + b) →
        stops (.vld w m) (offRegs m.or_ m.off ++ strRegs m.sr m.str) n eBufsize ∧
        stops (.vst w m) (offRegs m.or_ m.off ++ strRegs m.sr m.str) n eBufsize)) ∧
    (∀ x : VecTile, (getT s x.tt).full = false → stops (.vldt w x) [] 0 eTempty) ∧
    (∀ x : SetVlExt, x.vs = true → (getS s x.ss).toInt ≤ 0 → stops (.setvl w x) [x.sd, x.ss] 0 eBadval) ∧
    (∀ x : RowOp, (rowVal s x < 0 ∨ 2047 < rowVal s x) →
      stops (.vrdf w x) (rowRegs x) 0 eBadval ∧ stops (.vwrf w x) (rowRegs x) 0 eBadval)) ∧
  ∀ (s : State) (r : Run) (n seq pc : Nat) (e : Code), r.fault = none →
    let f : HeldFault := ⟨seq, e, pc, some n⟩
    let u := { s with seq := { s.seq with queue := s.seq.queue.filter fun x => !(x.uid == r.uid && decide (seq ≤ x.seq)) } }
    raiseFault s r f = if issuedDone u r.uid seq = true then
        preciseFault { u with vec := { u.vec with faultLast := ⟨true, BitVec.ofNat 11 n, e⟩ } } r e pc
      else { u with seq := { u.seq with run := some { r with fetching := false, fault := some f } } }

/-- The frame of the instructions that write one vector register: no other vector register, no mask, no scalar
register, no byte and no other unit changes; the code offset moves on by one word (R162, R163, R216). -/
def Obligations.VecFrames : Prop :=
  ∀ (s t : State) (r : Run) (i : Inst) (c : Instr) (regs : List (BitVec 5)) (w : VecWord),
    (c ∈ [.vadd w, .vsub w, .vmul w, .vdiv w, .vmin w, .vmax w, .vfma w, .vfms w, .vfnma w, .vfnms w, .vsqrt w, .vabs w,
        .vneg w, .vcpys w, .vand w, .vor w, .vxor w, .vsll w, .vsrl w, .vsra w, .vexp2 w, .vlog2 w, .vrcp w, .vrsqrt w,
        .vtanh w, .vsigm w, .vsel w, .vperm w, .vredsum w, .vredprod w, .vredmax w, .vredmin w, .vredargmax w,
        .vredargmin w, .vcvt w] ∧ regs = [] ∨ c = .vbcast w ∧ regs = [w.va]) →
    Issuable s r i .v 1 c regs → exec c s = .next t →
      VecFrame s t w.vd ∧ t.seq.run = some { r with pc := r.pc + 16 }

/-! ## The epilogue (08) -/

/-- VOUT to a buffer: the active elements below E, converted under RNE with -0 as +0 and NaN canonical, are stored
one after another from the offset, two F4 elements to a byte, and the half of a byte of an element that is not active
stands; every other byte is as it was; the flags of the active elements are raised (R195, R196). VOUT to a tile
register: element n of the storage row takes the converted active element n and every other element of the row zero;
no other bit changes, and the register is FULL (R197). Of these the model's choices: log 47, open points of flags and
order. -/
def Obligations.VoutResults : Prop :=
  (∀ (s : State) (r : Run) (i : Inst) (w : VecWord) (x : VoutExt) (buf : Buf), x.dk = 0 →
      let b := elemBytes w.t2.toNat
      let e := lanesOf s 0
      let off := offVal s x.or_ x.off
      let f4 := w.t2 == 6
      let at_ := fun n => memAddr f4 off b n
      let active := fun n => decide (n < e) && (getK s w.km).getLsbD n
      let out := fun n => tensorConvert (if w.t = 1 then .int32 else .fp32) (vfmt w.t2) w.sat (vElem (getV s w.va) 32 n)
      Issuable s r i .v 1 (.vout w x) (offRegs x.or_ x.off) →
      (∀ n, active n = true → at_ n % (b : Int) = 0 ∧ 0 ≤ at_ n ∧ at_ n + b ≤ bufBytes s i.uid x.h.toNat) →
      rngsBusy s s.seq.nextUid [memRng s i.uid x.h e f4 off b b true] = false →
      findBuf s i.uid x.h.toNat = some buf → Buf.wf buf → Pad.wf s.pad = true →
        ∃ t, exec (.vout w x) s = .next (after (raiseVec t (orFlags (((List.range e).filter active).map fun n => (out n).2))) r 1) ∧
          (∀ a, (∀ n, active n = true → ¬ elemByte buf f4 off b b n a) → padGet t.pad a = padGet s.pad a) ∧
          (∀ n, active n = true → f4 = false →
            leNat (bufRead t i.uid x.h.toNat (at_ n).toNat b) = (out n).1 % 2 ^ (8 * b)) ∧
          (∀ n < e, f4 = true → 0 ≤ at_ n → at_ n + 1 ≤ bufBytes s i.uid x.h.toNat →
            let nibble := fun u : State => leNat (bufRead u i.uid x.h.toNat (at_ n).toNat 1) / 16 ^ (n % 2) % 16
            nibble t = if active n then (out n).1 % 16 else nibble s) ∧
          StoreFrame { s with chk := t.chk } t ∧ t.chk = { s.chk with marks := t.chk.marks } ∧ (Clean s → t.chk = s.chk)) ∧
  (∀ (s : State) (r : Run) (i : Inst) (w : VecWord) (x : VoutExt) (row : Nat), x.dk ≠ 0 →
      let t := getT s x.tt
      let e := lanesOf s 0
      let out := fun n => tensorConvert (if w.t = 1 then .int32 else .fp32) (vfmt w.t2) w.sat (vElem (getV s w.va) 32 n)
      let active := fun n => decide (n < e) && (getK s w.km).getLsbD n
      let lo := 8 * (row * rowBytes t.shape t.fmt)
      Issuable s r i .v 1 (.vout w x) (offRegs x.or_ x.off) → tileLegal t.shape t.fmt = true →
      rngsBusy s s.seq.nextUid [rTile x.tt true] = false → w.t2.toNat = t.fmt.toNat → offVal s x.or_ x.off = row → row < shapeRows t.shape → e ≤ shapeCols t.shape →
        ∃ u : Tile, exec (.vout w x) s = .next (after (raiseVec (putTile (counted s) x.tt u (row * rowBytes t.shape t.fmt)
              (rowBytes t.shape t.fmt)) (orFlags (((List.range e).filter active).map fun n => (out n).2))) r 1) ∧
          (∀ lo n, Clean s → putTile (counted s) x.tt u lo n = setT (counted s) x.tt u) ∧
          u.full = true ∧ u.shape = t.shape ∧ u.fmt = t.fmt ∧
          (∀ n < shapeCols t.shape, tileElem u row n = if active n then (out n).1 % 2 ^ tileBits t.fmt else 0) ∧
          ∀ k < 524288, k < lo ∨ lo + 8 * rowBytes t.shape t.fmt ≤ k → tileBit u k = tileBit t k)

/-- VSRD puts W0 to W3 of a statistics row, +0 for a word that is not set, SET and CNT into lanes 0 to 4 of VD and
leaves the other lanes; with FIN it faults with E_STATOPEN when CNT is not NB. VSWR writes a row from lanes 0 to 4.
What VSRD saves and VSWR writes back is the row (R200, R201). VSCLF scales the rows of the slices of AM by the factor
of each statistics row: a ZERO row does not change; of any other the 128 words and CHK are multiplied under RNE, ABS
by the magnitude toward +infinity, BLK rises by 1 up to 0xFFFF and CHECKED falls (R208). A read of a row meets the
storage errors that lie there, and a write ends them (14, R350). Of these the model's choices: log 16, when storage
errors arise; log 47, open points of flags and order. -/
def Obligations.StatRows : Prop :=
  ((∀ (s : State) (r : Run) (i : Inst) (w : VecWord) (x : RowOp) (y : VsrdExt) (row : Nat), rowVal s x = row → row < 2048 →
      let st := statRow s row
      Issuable s r i .v 1 (.vsrd w x y) (rowRegs x) → rngsBusy s s.seq.nextUid [rFirn row 1 false] = false →
        ((y.fin = false ∨ st.cnt = y.nb) →
          ∃ v, exec (.vsrd w x y) s = .next (after (setV (firnTake (counted s) i.uid 4 row) w.vd v) r 1) ∧
            (∀ j < 4, vElem v 32 j = (statWord st j).getD 0) ∧
            vElem v 32 4 = st.set.toNat + 16 * st.cnt.toNat ∧
            (∀ j, 160 ≤ j → v.getLsbD j = (getV s w.vd).getLsbD j) ∧
            (statOfLanes v).set = st.set ∧ (statOfLanes v).cnt = st.cnt ∧ ∀ j < 4, statWord (statOfLanes v) j = statWord st j) ∧
        (y.fin = true → st.cnt ≠ y.nb →
          exec (.vsrd w x y) s = .next (raiseFault s r ⟨s.seq.nextUid, eStatopen, r.pc, some st.cnt.toNat⟩))) ∧
    ∀ (s : State) (r : Run) (i : Inst) (w : VecWord) (x : RowOp) (row : Nat), rowVal s x = row → row < 2048 →
      let lane := fun j => vElem (getV s w.va) 32 j
      rngsBusy s s.seq.nextUid [rFirn row 1 true] = false →
        VecEffect (.vswr w x) (rowRegs x) s r i (putStatRow (counted s) row
          ⟨BitVec.ofNat 32 (lane 0), BitVec.ofNat 32 (lane 1), BitVec.ofNat 32 (lane 2), BitVec.ofNat 32 (lane 3),
           BitVec.ofNat 4 (lane 4), BitVec.ofNat 8 (lane 4 / 16)⟩)) ∧
  ((∀ (s : State) (r : Run) (i : Inst) (w : VecWord) (x : RowOp) (y : VsclfExt) (base : Nat),
      rowVal s x = base → base + y.nr.toNat < 2048 →
      (∀ m ≤ y.nr.toNat, ∀ a < 4, y.am.getLsbD a = true →
        (firnRow s a (base + m)).zero = true ∨ (firnRow s a (base + m)).isInt = false) →
      rngsBusy s s.seq.nextUid [rFirn base (y.nr.toNat + 1) true] = false →
        VecEffect (.vsclf w x y) (rowRegs x) s r i ((List.range (y.nr.toNat + 1)).foldl (fun s m =>
          scaleSlices s y.am (base + m) ((statWord (statRow s (base + m)) y.ws.toNat).getD 0x3F800000) i.uid)
            ((List.range (y.nr.toNat + 1)).foldl (fun s m => firnTake s i.uid 4 (base + m)) (counted s)))) ∧
    (∀ (s : State) (am : BitVec 4) (row f uid : Nat),
      scaleSlices s am row f uid = ((List.range 4).filter fun a => am.getLsbD a).foldl (fun s a =>
        let t := checkRead s a row uid
        raiseVec (putFirnRow t a row (scaleRow (firnRow t a row) f).1) (scaleRow (firnRow t a row) f).2) s) ∧
    (∀ (s : State) (uid a row : Nat) (x : FirnRow) (y : StatRow), Clean s →
      firnTake s uid a row = s ∧ putFirnRow s a row x = setFirnRow s a row x ∧ putStatRow s row y = setStatRow s row y) ∧
    ∀ (x : FirnRow) (f : Nat),
      (x.zero = true → scaleRow x f = (x, 0)) ∧
      (x.zero = false →
        let y := (scaleRow x f).1
        (∀ c < 128, bvGet y.words (32 * c) 32 = (fpMul .fp32 .rne (bvGet x.words (32 * c) 32) f).1 % 2 ^ 32) ∧
        y.chk = BitVec.ofNat 32 (fpMul .fp32 .rne x.chk.toNat f).1 ∧
        y.abs = BitVec.ofNat 32 (fpMul .fp32 .rup x.abs.toNat (fpAbs .fp32 f)).1 ∧
        y.blk = (if x.blk = 0xFFFF then x.blk else x.blk + 1) ∧ y.checked = false ∧ y.zero = false ∧ y.isInt = x.isInt))

/-- VSMRG merges lanes 0 to 2 of VA into a statistics row by its mode, adds 1 to CNT with INC up to 255, and puts the
row's words into lanes 0 to 3 of VD (R202). The merge modes of Table 8-5 on words that are set and on words that are
not (R202). `+`, `-`, `*`, `/` and fma are those of FP32 under RNE; the flags are those of the operations. -/
def Obligations.StatMerge : Prop :=
  (∀ (s : State) (r : Run) (i : Inst) (w : VecWord) (x : RowOp) (y : VsmrgExt) (row : Nat), rowVal s x = row → row < 2048 →
      let a := fun j => vElem (getV s w.va) 32 j
      let m := mergeRow (statRow s row) y.mode.toNat y.wi.toNat (a 0) (a 1) (a 2)
      let st := if y.inc = true ∧ m.1.cnt ≠ 255 then { m.1 with cnt := m.1.cnt + 1 } else m.1
      Issuable s r i .v 1 (.vsmrg w x y) (rowRegs x) → rngsBusy s s.seq.nextUid [rFirn row 1 true] = false →
        ∃ v, exec (.vsmrg w x y) s = .next (after (raiseVec (setV (putStatRow (firnTake (counted s) i.uid 4 row) row st) w.vd v) m.2) r 1) ∧
          (∀ j < 4, vElem v 32 j = (statWord st j).getD 0) ∧ ∀ j, 128 ≤ j → v.getLsbD j = (getV s w.vd).getLsbD j) ∧
  (∀ (x : StatRow) (wi a0 a1 a2 : Nat), wi < 4 →
      let set := fun (y : StatRow) (j v : Nat) => setStatWord y j v
      let corr := fun (u m : Nat) =>
        if u = m then (0x3F800000, (0 : Flags))
        else
          let d := fpSub .fp32 .rne u m
          ((fpTrans .exp2 d.1).1, d.2 ||| (fpTrans .exp2 d.1).2)
      (statWord x wi = none → mergeRow x 0 wi a0 a1 a2 = (set x wi a0, 0) ∧ mergeRow x 1 wi a0 a1 a2 = (set x wi a0, 0)) ∧
      (∀ v, statWord x wi = some v →
        mergeRow x 0 wi a0 a1 a2 = (set x wi (fpMinMax .fp32 true v a0).1, (fpMinMax .fp32 true v a0).2) ∧
        mergeRow x 1 wi a0 a1 a2 = (set x wi (fpAdd .fp32 .rne v a0).1, (fpAdd .fp32 .rne v a0).2)) ∧
      (statWord x 0 = none →
        mergeRow x 2 wi a0 a1 a2 = (set (set x 0 a0) 2 0x3F800000, 0) ∧
        mergeRow x 4 wi a0 a1 a2 = (set (set x 0 a0) 1 a1, 0) ∧
        mergeRow x 5 wi a0 a1 a2 = (set (set (set x 0 a0) 1 a1) 2 a2, 0)) ∧
      (∀ v, statWord x 0 = some v →
        let m := fpMinMax .fp32 true v a0
        let c := corr v m.1
        mergeRow x 2 wi a0 a1 a2 = (set (set x 2 c.1) 0 m.1, m.2 ||| c.2) ∧
        (statWord x 1 = none → mergeRow x 4 wi a0 a1 a2 = (set (set x 0 a0) 1 a1, 0)) ∧
        (∀ u, statWord x 1 = some u →
          let y := corr a0 m.1
          let p := fpMul .fp32 .rne a1 y.1
          let n := fpFma .fp32 .rne false false u c.1 p.1
          mergeRow x 4 wi a0 a1 a2 = (set (set x 1 n.1) 0 m.1, m.2 ||| c.2 ||| y.2 ||| p.2 ||| n.2)) ∧
        (let n := fpAdd .fp32 .rne v a0
         let w1 := (statWord x 1).getD 0
         let w2 := (statWord x 2).getD 0
         let d := fpSub .fp32 .rne a1 w1
         let q := fpDiv .fp32 .rne a0 n.1
         let t := fpMul .fp32 .rne v q.1
         let dd := fpMul .fp32 .rne d.1 d.1
         let p := fpAdd .fp32 .rne w2 a2
         let w1' := fpFma .fp32 .rne false false d.1 q.1 w1
         let w2' := fpFma .fp32 .rne false false dd.1 t.1 p.1
         mergeRow x 5 wi a0 a1 a2 =
           if fpIsZero .fp32 n.1 then (x, n.2)
           else (set (set (set x 1 w1'.1) 2 w2'.1) 0 n.1,
             n.2 ||| d.2 ||| q.2 ||| t.2 ||| w1'.2 ||| dd.2 ||| p.2 ||| w2'.2))) ∧
      (statWord x 1 = none → mergeRow x 3 wi a0 a1 a2 = (set x 1 a0, 0)) ∧
      ∀ u, statWord x 1 = some u →
        let n := fpFma .fp32 .rne false false u ((statWord x 2).getD 0x3F800000) a0
        mergeRow x 3 wi a0 a1 a2 = (set x 1 n.1, n.2))

/-! ## Scalar, branch and tile instructions (09, 04) -/

/-- SALU: SD takes the result of Table 9-15 on SA and SB or the immediate; nothing else changes; FN 14 and 15 are
illegal (R460). SREAD: SD takes the value that SEL names (R461). BR: taken where the condition on SA and SB holds. An
immediate target is relative to the branch, a register target an offset in the code; a branch that is not taken goes
on with the next word; a target outside the code is a precise fault (R462, R216). -/
def Obligations.ScalarOps : Prop :=
  (∀ (s : State) (r : Run) (i : Inst) (w : SaluWord) (f : DWord → DWord → DWord),
      (w.fn.toNat, f) ∈ ([(0, fun a b => a + b), (1, fun a b => a - b), (2, fun a b => a * b), (3, fun a b => a &&& b),
        (4, fun a b => a ||| b), (5, fun a b => a ^^^ b), (6, fun a b => a <<< (b.toNat % 64)),
        (7, fun a b => a >>> (b.toNat % 64)), (8, fun a b => a.sshiftRight (b.toNat % 64)),
        (9, fun a b => if a.toInt < b.toInt then 1 else 0), (10, fun a b => if a.toNat < b.toNat then 1 else 0),
        (11, fun a b => if b.toInt < a.toInt then b else a), (12, fun a b => if a.toInt < b.toInt then b else a),
        (13, fun _ b => b)] : List (Nat × (DWord → DWord → DWord))) →
      Issuable s r i .s 1 (.salu w) (w.sd :: (if w.fn = 13 then [] else [w.sa]) ++ (if w.i then [] else [w.sb])) →
        exec (.salu w) s = .next (after (setS s w.sd (f (getS s w.sa) (if w.i then w.imm else getS s w.sb))) r 1)) ∧
  (∀ w : SaluWord, 14 ≤ w.fn.toNat → (Instr.salu w).wf = false) ∧
  (∀ (s : State) (r : Run) (i : Inst) (sel : BitVec 8) (sd : BitVec 5) (v : DWord),
      (sel = 0 ∧ v = s.boot.ties.clusterId.zeroExtend 64 ∨ sel = 1 ∧ v = s.boot.ties.dieId.zeroExtend 64 ∨
        sel = 2 ∧ v = i.tick0 ∨ sel = 3 ∧ v = s.seq.late.zeroExtend 64 ∨ sel = 4 ∧ v = s.perf.cycles ∨
        ∃ k : Fin 32, sel.toNat = 32 + k.val ∧ v = s.perf.cnt[k.val]) →
      Issuable s r i .s 1 (.sread sel sd) [sd] → exec (.sread sel sd) s = .next (after (setS s sd v) r 1)) ∧
  (∀ (s : State) (r : Run) (i : Inst) (w : BrWord) (p : Prop),
      let a := getS s w.sa
      let b := getS s w.sb
      (w.cond = 0 ∧ p = True ∨ w.cond = 1 ∧ p = (a = b) ∨ w.cond = 2 ∧ p = (a ≠ b) ∨ w.cond = 3 ∧ p = (a.toInt < b.toInt) ∨
        w.cond = 4 ∧ p = (b.toInt ≤ a.toInt) ∨ w.cond = 5 ∧ p = (a.toNat < b.toNat) ∨ w.cond = 6 ∧ p = (b.toNat ≤ a.toNat)) →
      Issuable s r i .s 1 (.br w) ((if w.cond = 0 then [] else [w.sa, w.sb]) ++ (if w.rt then [w.st] else [])) →
      let tgt : Int := if w.rt then (getS s w.st).toNat else r.pc + w.tgt.toInt
      let inside := 0 ≤ tgt ∧ tgt < codeLen s i ∧ (w.rt = true → tgt % 16 = 0)
      (p → inside → exec (.br w) s = .next (setPc s tgt.toNat)) ∧
      (¬ p → (w.rt = true ∨ inside) → exec (.br w) s = .next (setPc s (r.pc + 16))) ∧
      (w.rt = false → ¬ inside → exec (.br w) s = .next (raiseFault s r ⟨s.seq.nextUid, eBadval, r.pc, none⟩)) ∧
      (w.rt = true → p → ¬ inside →
        exec (.br w) s = .next (raiseFault s r ⟨s.seq.nextUid, eCoderange, tgt.toNat, none⟩)))

/-- TCFG sets shape and format and empties the register; TREL empties it and keeps them; in both every line becomes
invalid (R77). TLD fills the storage rows of a tile register from strided rows of a buffer and makes it FULL (R80,
R81); byte k of row q is the buffer's byte at OFF + q * STR + k. TST stores the storage rows of a FULL tile register,
converted to DFMT under RNE, to strided rows of a buffer; every byte outside those rows is as it was, and the flags
are raised in VEC_NUMSTAT (R83, R84, R81). Storage errors that lie where these read are met, and those where they
write end (14, R350); where none lies nothing of the check logic changes. Of these the model's choices: log 16, when
storage errors arise; log 47, open points of flags and order. -/
def Obligations.TileTransfers : Prop :=
  (∀ (s : State) (r : Run) (i : Inst) (m : TileMem) (df : BitVec 3) (sat : Bool),
      let t := getT s m.tt
      let off := offVal s m.or_ m.off
      let str := strVal s m.sr m.str
      let last := off + ((shapeRows t.shape : Int) - 1) * str
      let stops := fun (c : Instr) (e : Code) =>
        Issuable s r i .d 1 c (offRegs m.or_ m.off ++ strRegs m.sr m.str) →
          exec c s = .next (raiseFault s r ⟨s.seq.nextUid, e, r.pc, none⟩)
      let checked := fun (c : Instr) (rb : Nat) =>
        ((off % 32 ≠ 0 ∨ str % 32 ≠ 0) → stops c eAlign) ∧
        (off % 32 = 0 → str % 32 = 0 → (min off last < 0 ∨ (bufBytes s i.uid m.h.toNat : Int) < max off last + rb) →
          stops c eBufsize)
      checked (.tld m) (rowBytes t.shape t.fmt) ∧ (t.full = false → stops (.tst m df sat) eTempty) ∧
      (t.full = true → checked (.tst m df sat) (rowBytes t.shape df))) ∧
  (∀ (s : State) (r : Run) (i : Inst) (tt : BitVec 4) (sh f : BitVec 3),
      rngsBusy s s.seq.nextUid [rTile tt true] = false →
      (Issuable s r i .s 1 (.tcfg tt sh f) [] →
        exec (.tcfg tt sh f) s = .next (after (putTile s tt ⟨0, 0, sh, f, false⟩ 0 65536) r 1)) ∧
      (Issuable s r i .s 1 (.trel tt) [] →
        exec (.trel tt) s = .next (after (putTile s tt ⟨0, 0, (getT s tt).shape, (getT s tt).fmt, false⟩ 0 65536) r 1))) ∧
  (∀ (s : State) (tt : BitVec 4) (x : Tile) (lo n uid : Nat), Clean s →
      putTile s tt x lo n = setT s tt x ∧ tileTake s uid tt lo n = s) ∧
  (∀ (s : State) (r : Run) (i : Inst) (m : TileMem),
      let t := getT s m.tt
      let rb := rowBytes t.shape t.fmt
      let off := offVal s m.or_ m.off
      let str := strVal s m.sr m.str
      let h := hull off str (shapeRows t.shape) rb
      Issuable s r i .d 1 (.tld m) (offRegs m.or_ m.off ++ strRegs m.sr m.str) → tileLegal t.shape t.fmt = true →
      off % 32 = 0 → str % 32 = 0 → 0 ≤ h.1 → h.2 ≤ bufBytes s i.uid m.h.toNat →
      rngsBusy s s.seq.nextUid [rTile m.tt true, rBuf s i.uid m.h.toNat h.1 h.2 false] = false →
        ∃ u : Tile,
          let t' := bufTakes (putTile s m.tt u 0 (shapeRows t.shape * rb)) i.uid m.h.toNat
            ((List.range (shapeRows t.shape)).map fun (q : Nat) => ((off + q * str).toNat, rb))
          exec (.tld m) s = .next (after t' r 1) ∧ u.full = true ∧ u.shape = t.shape ∧ u.fmt = t.fmt ∧
          (∀ q < shapeRows t.shape, ∀ k < rb,
            BitVec.ofNat 8 (tileRead u (rb * q + k) 1) = (bufRead s i.uid m.h.toNat (off + q * str).toNat rb).getD k 0) ∧
          (Clean s → getT t' m.tt = u ∧ (∀ x, x ≠ m.tt → getT t' x = getT s x) ∧ (∀ a, padGet t'.pad a = padGet s.pad a) ∧
          t'.vec = s.vec ∧ t'.seq = s.seq ∧ t'.firn = s.firn ∧ t'.strm = s.strm)) ∧
  (∀ (s : State) (r : Run) (i : Inst) (m : TileMem) (df : BitVec 3) (sat : Bool) (buf : Buf),
      let t := getT s m.tt
      let rb := rowBytes t.shape df
      let off := offVal s m.or_ m.off
      let str := strVal s m.sr m.str
      let h := hull off str (shapeRows t.shape) rb
      let out := fun q e => tensorConvert (tileFmt t.fmt) (tileFmt df) sat (tileElem t q e)
      Issuable s r i .d 1 (.tst m df sat) (offRegs m.or_ m.off ++ strRegs m.sr m.str) → t.full = true →
      off % 32 = 0 → str % 32 = 0 → 0 ≤ h.1 → h.2 ≤ bufBytes s i.uid m.h.toNat →
      rngsBusy s s.seq.nextUid [rTile m.tt false, rBuf s i.uid m.h.toNat h.1 h.2 true] = false →
      findBuf s i.uid m.h.toNat = some buf → Buf.wf buf →
        ∃ u, exec (.tst m df sat) s = .next (after u r 1) ∧ (Clean s →
          u.vec.numstat = s.vec.numstat ||| orFlags ((List.range (shapeRows t.shape)).flatMap fun q =>
            (List.range (shapeCols t.shape)).map fun e => (out q e).2) ∧
          (∀ a, (∀ q < shapeRows t.shape, ∀ k < rb, bufPhys buf ((off + q * str).toNat + k) ≠ a) →
            padGet u.pad a = padGet s.pad a) ∧
          (∀ q < shapeRows t.shape,
            (∀ q' < shapeRows t.shape, q < q' → off + q * str + rb ≤ off + q' * str ∨ off + q' * str + rb ≤ off + q * str) →
            Pad.wf s.pad = true →
              leNat (bufRead u i.uid m.h.toNat (off + q * str).toNat rb)
                = pack (tileBits df) ((List.range (shapeCols t.shape)).map fun e => (out q e).1)) ∧
          u.tiles = s.tiles ∧ u.vec.v = s.vec.v ∧ u.vec.k = s.vec.k ∧ u.vec.vl = s.vec.vl ∧ u.seq = s.seq ∧
          u.firn = s.firn ∧ u.strm = s.strm))

/-- SCENE_END: nothing further is fetched, the instance is DRAINING, its read streams stop, and a ring scene tells
its group that it has ended (R234, R259, R293). Of these the model's choices: log 26, GROUP_REPLAY, GROUP_END and
RUN. -/
def Obligations.SceneEnds : Prop :=
  ∀ (s : State) (r : Run) (i : Inst), Issuable s r i .s 1 .sceneEnd [] →
    let me := s.boot.ties.clusterId
    let u := setInst s i.uid fun i => { i with st := .draining, gends := i.gends ++ [(i.gtag, i.grun, me)] }
    ∃ t, exec .sceneEnd s = .next t ∧ t = after (endReads { (if i.ringScene then sendStage u (.groupEnd i.gtag i.grun me) else u)
        with seq := { u.seq with run := some { r with fetching := false } } } i.uid) r 1 ∧
      (∀ st ∈ t.strm.streams, st.uid = i.uid → descReads (descOf st.image) = true → st.stopped = true) ∧
      ((findInst t i.uid).map (·.st) = some .draining) ∧ ∃ q, t.seq.run = some q ∧ q.fetching = false

/-! ## The matrix engine (05, 06) -/

/-- What an MMA needs in order to issue: its activations, its weights, its rows of Firn and its store are in order
(06 Table 6-9, R81, R124, R217). It is then in progress: its K blocks wait for the weight bus, its store clause for
its last K block; nothing is multiplied yet. The weight bus writes the next load, in issue order, into the background
set of all four arrays once that set is free (R101, R103). The rows of a load are the rows of the weight buffer in
the arrays that the MMA uses, each with its check weights (R143, R104). Of these the model's choices: log 4, what an
instruction that waits holds back; log 11, the weight bus; log 12, a store clause waits as a pending store. -/
def Obligations.MmaIssue : Prop :=
  (∀ (s : State) (r : Run) (i : Inst) (w : MmaWord),
    let t := getT s w.ta
    let weights := r81 (offVal s w.wor w.woff) (strVal s w.wsr w.wstr) (mmaWeightShape w).1 (mmaWeightShape w).2
      (bufBytes s i.uid w.wh.toNat)
    let shaped := w.src = true ∨ t.full = true ∧ t.shape = w.shape ∧ t.fmt = w.afmt
    let stops := fun e : Code => Issuable s r i .m (if w.store.isSome then 2 else 1) (.mma w) (mmaRegs w) →
      exec (.mma w) s = .next (raiseFault s r ⟨s.seq.nextUid, e, r.pc, none⟩)
    let stored := fun f : Option Code → Prop => ∀ st, w.store = some st → st.dest = false →
      f (r81 (offVal s st.sor st.soff) (strVal s st.ssr st.sstr) (mmaRows w.shape) (storeRowBytes w.narr st.ofmt)
        (bufBytes s i.uid st.sh.toNat))
    (w.src = false → t.full = false → stops eTempty) ∧
    (w.src = false → t.full = true → (t.shape ≠ w.shape ∨ t.fmt ≠ w.afmt) → stops eTshape) ∧
    (shaped → ∀ e, weights = some e → stops e) ∧
    (shaped → weights = none → stored fun x => ∀ e, x = some e → stops e) ∧
    (shaped → weights = none → (stored fun x => x = none) → rngsBusy s s.seq.nextUid (mmaRngs s i.uid w) = false →
      w.ovw = false → ∀ a ≤ w.narr.toNat, ∀ m < mmaRows w.shape, (firnRow s a (w.frb.toNat + m)).zero = false →
        (firnRow s a (w.frb.toNat + m)).isInt ≠ (w.afmt == 7) → stops eTshape)) ∧
  (∀ (off str : Int) (rows rowB size : Nat),
    let last := off + ((rows : Int) - 1) * str
    r81 off str rows rowB size = if off % 32 ≠ 0 ∨ str % 32 ≠ 0 then some eAlign
      else if min off last < 0 ∨ (size : Int) < max off last + rowB then some eBufsize else none) ∧
  (∀ (c : LoadCtx) (w : MmaWord),
    let pair := (w.afmt.toNat, w.wfmt.toNat) ∈ [(0, 0), (2, 2), (2, 4), (2, 5), (2, 6), (3, 3), (3, 4), (3, 5), (3, 6), (4, 4),
      (4, 5), (4, 6), (5, 4), (5, 5), (5, 6), (6, 4), (6, 5), (6, 6), (7, 7)]
    checkRow c 6 (.mma w) = some eTshape ↔ 5 < w.shape.toNat ∨ ¬ pair ∨ (w.src = true ∧ (w.shape = 5 ∨ w.afmt = 0)) ∨
      2048 < w.frb.toNat + mmaRows w.shape ∨ ∃ st, w.store = some st ∧ st.dest = true ∧ (st.ofmt = 0 ∨ st.ofmt = 1)) ∧
  (∀ (s : State) (r : Run) (i : Inst) (w : MmaWord),
    let n := if w.store.isSome then 2 else 1
    let off := offVal s w.wor w.woff
    let str := strVal s w.wsr w.wstr
    let sets := mmaSets s i.uid s.seq.nextUid w off str
    Issuable s r i .m n (.mma w) (mmaRegs w) →
    (w.src = false → (getT s w.ta).full = true ∧ (getT s w.ta).shape = w.shape ∧ (getT s w.ta).fmt = w.afmt) →
    r81 off str (mmaWeightShape w).1 (mmaWeightShape w).2 (bufBytes s i.uid w.wh.toNat) = none →
    (∀ st, w.store = some st → st.dest = false →
      r81 (offVal s st.sor st.soff) (strVal s st.ssr st.sstr) (mmaRows w.shape) (storeRowBytes w.narr st.ofmt)
        (bufBytes s i.uid st.sh.toNat) = none) →
    rngsBusy s s.seq.nextUid (mmaRngs s i.uid w) = false →
    (∀ a ≤ w.narr.toNat, ∀ m < mmaRows w.shape,
      w.ovw = true ∨ (firnRow s a (w.frb.toNat + m)).zero = true ∨
        (firnRow s a (w.frb.toNat + m)).isInt = (w.afmt == 7)) →
      ∃ v store, exec (.mma w) s = .next (after (mmaEnter v ⟨i.uid, s.seq.nextUid, w, r.route.rxch, i.gtag, i.grun, sets, 0, 0⟩
          store (mmaSplit s i.uid w off str)) r n) ∧
        (store.length = if w.store.isSome then 1 else 0) ∧
        (∀ p ∈ store, w.store = some p.w ∧ p.uid = i.uid ∧ p.seq = s.seq.nextUid ∧ p.ready = false ∧ p.frb = w.frb.toNat ∧
          p.m = mmaRows w.shape ∧ p.narr = w.narr.toNat + 1 ∧ p.off = offVal s p.w.sor p.w.soff ∧
          p.str = strVal s p.w.ssr p.w.sstr ∧ p.scaleA = (getS s p.w.sa).truncate 32 ∧ p.scaleB = (getS s p.w.sb).truncate 32 ∧
          p.mask = r.route.mask ∧ p.txch = r.route.txch) ∧
        (w.afmt ≠ 0 → mmaSplit s i.uid w off str = 0) ∧
        (Clean s → v.mat = s.mat ∧ v.seq = { s.seq with nextUid := s.seq.nextUid + 1 } ∧ v.tiles = s.tiles ∧ v.firn = s.firn ∧
          v.vec = s.vec ∧ v.strm = s.strm ∧ v.rev = s.rev ∧ v.upd = s.upd ∧ v.chk = s.chk ∧ v.ctl = s.ctl ∧
          ∀ a, padGet v.pad a = padGet s.pad a)) ∧
  (∀ (s : State) (j : MmaJob) (store : List PendingStore) (fl : Flags),
    mmaEnter s j store fl = if runAlive s j.uid = true then
        loadBg { s with mat := { s.mat with
          jobs := s.mat.jobs ++ [j], stores := s.mat.stores ++ store, numstat := s.mat.numstat ||| fl } }
      else s) ∧
  (∀ s : State, s.mat.bgFor ≠ none ∨ (∀ j ∈ s.mat.jobs, j.loads = []) → loadBg s = s) ∧
  (∀ (s : State) (pre post : List MmaJob) (j : MmaJob) (l : WeightSet) (rest : List WeightSet),
    s.mat.bgFor = none → s.mat.jobs = pre ++ j :: post → (∀ x ∈ pre, x.loads = []) →
    (∀ x ∈ pre ++ post, x.seq ≠ j.seq) → j.loads = l :: rest →
      loadBg s = { s with mat := { s.mat with
        jobs := pre ++ { j with loads := rest } :: post, bgFor := some j.seq
        setA := if s.mat.fgA then s.mat.setA else l, setB := if s.mat.fgA then l else s.mat.setB } }) ∧
  (∀ (s : State) (uid seq : Nat) (w : MmaWord) (off str : Int) (k a row : Nat),
    let ps := if w.wfmt = 0 then [(Part.high, Part.high), (Part.high, Part.low), (Part.low, Part.high)]
      else [(Part.whole, Part.whole)]
    let sets := mmaSets s uid seq w off str
    sets.length = mmaBlocks w.shape * ps.length ∧ (∀ x ∈ sets, x.arrays.length = 4 ∧ ∀ y ∈ x.arrays, y.length = 128) ∧
    (k < mmaBlocks w.shape * ps.length → a ≤ w.narr.toNat → row < 128 → w.shape ≠ 5 → ∃ p, ps[k % ps.length]? = some p ∧
      ((sets[k]?.bind (·.arrays[a]?)).bind (·[row]?)) = some (mkWeightRow (if w.wfmt = 0 then .bf16 else tileFmt w.wfmt) false
        ((weightCodes s uid w.wh (off + ((128 * (k / ps.length) + row : Nat) : Int) * str
          + ((128 * a * tileBits w.wfmt / 8 : Nat) : Int)) 128 w.wfmt).map (partOf p.2))))) ∧
  ∀ (f : Fmt) (packed : Bool) (codes : List Nat), codes.length = 128 →
    let x := mkWeightRow f packed codes
    (∀ n < 128, bvGet x.w (32 * n) 32 = codes.getD n 0 % 2 ^ 32) ∧
    (packed = false → (x.c, x.d) = (BitVec.ofNat 32 (checkWeights f codes).1, BitVec.ofNat 32 (checkWeights f codes).2)) ∧
    (packed = true → (x.c, x.d) = (BitVec.ofNat 32 (checkWeights f (codes.take 64)).1,
        BitVec.ofNat 32 (checkWeights f (codes.take 64)).2) ∧
      (x.c2, x.d2) = (BitVec.ofNat 32 (checkWeights f (codes.drop 64)).1, BitVec.ofNat 32 (checkWeights f (codes.drop 64)).2))

/-- The product of INT8 operands is exact: with OVW, once its one K block has entered against the foreground set that
holds its weights, word n of row m of slice a is the sum over k of activation (m, k) times weight (k, 128 a + n), and
the comparison of the row passes (R147, R149, R104, R126, R128). The block sum of a floating-point pair is the exact
sum of the products rounded once, and the NaNs and infinities of Table 6-7; a negative sum that rounds to zero is
written as +0. The Firn addition is Table 6-8. One K block added into a row: each word takes the block sum of its
column, CHK and ABS those of the checksum cells, BLK rises (R123, R126); an INT32 word saturates with SAT and
OVERFLOW (R67). FP32 operands split into BF16 parts (R68), and an infinite operand against a finite nonzero value
gives the signed infinity, against a zero the NaN with INVALID (R150). Of these the model's choices: log 27, low
parts and infinities of FP32 operands; log 35, a block sum that rounds to zero. -/
def Obligations.MmaSums : Prop :=
  (∀ (s0 s : State) (j : MmaJob) (off str : Int) (buf : Buf),
    let w := j.w
    w.src = false → w.shape = 0 → w.afmt = 7 → w.wfmt = 7 → w.ovw = true → w.frb.toNat + 128 ≤ 2048 →
    Firn.wf s.firn = true → findBuf s0 j.uid w.wh.toNat = some buf →
    fgSet s.mat = (mmaSets s0 j.uid j.seq w off str).headD .reset →
    let t := getT s w.ta
    t.shape = 0 → t.fmt = 7 →
    let act := fun (m k : Nat) => (BitVec.ofNat 8 (tileElem t m k)).toInt
    let wt := fun (k c : Nat) =>
      (leNat ((bufRead s0 j.uid w.wh.toNat (off + ((k : Int) * str) + ((128 * (c / 128) : Nat) : Int)).toNat 128).drop (c % 128)
        |>.take 1) : Int)
    let sgn := fun x : Int => if x < 128 then x else x - 256
    ∀ a ≤ w.narr.toNat, ∀ m < 128,
      let y := firnRow (tileBlock s j 0) a (w.frb.toNat + m)
      y.zero = false ∧ y.isInt = true ∧ y.blk = 1 ∧ y.sat = false ∧ y.checked = false ∧ compareRow y = .pass ∧
      ∀ n < 128, (BitVec.ofNat 32 (firnWord y n)).toInt
        = ((List.range 128).map fun k => act m k * sgn (wt k (128 * a + n))).sum) ∧
  (∀ (rm : Rm) (fa fw : Fmt) (as ws : List Nat), fmtIsInt fa = false → fmtIsInt fw = false →
    (∀ a ∈ as, a < 2 ^ fmtBits fa) → (∀ w ∈ ws, w < 2 ^ fmtBits fw) →
    let pr := as.zip ws
    let b := blockSum rm .none (as.map (fpDecode fa)) (ws.map (fpDecode fw))
    let nan := fun p : Nat × Nat => fpIsNan fa p.1 || fpIsNan fw p.2
    let finite := fun p : Nat × Nat => fpIsFinite fa p.1 && fpIsFinite fw p.2
    let zero := fun p : Nat × Nat => fpIsZero fa p.1 || fpIsZero fw p.2
    let inf := fun (neg : Bool) => pr.any fun p =>
      !nan p && !finite p && !zero p && (fpNegBit fa p.1 != fpNegBit fw p.2) == neg
    let bad := (pr.any fun p => !nan p && !finite p && zero p) || (inf true && inf false)
    (pr.any nan = true → b = (fmtNan .fp32, flagIf bad flInvalid)) ∧
    (pr.any nan = false → bad = true → b = (fmtNan .fp32, flInvalid)) ∧
    (∀ neg, pr.any nan = false → bad = false → inf neg = true → b = (fpInfCode .fp32 neg, 0)) ∧
    (pr.all finite = true →
      let x : ℚ := (pr.map fun p => ratOf fa p.1 * ratOf fw p.2).sum
      (x = 0 → b = (0, 0)) ∧
      (x ≠ 0 → ∃ r, RoundsTo .fp32 rm false x r ∧ b = (if r.1 = 2 ^ 31 then 0 else r.1, r.2)))) ∧
  (∀ acc blk : Nat, acc < 2 ^ 32 → blk < 2 ^ 32 →
    let x : ℚ := ratOf .fp32 acc
    let y : ℚ := ratOf .fp32 blk
    let nan := fpIsNan .fp32 acc || fpIsNan .fp32 blk
    (nan = true → firnAdd acc blk = (fmtNan .fp32, 0)) ∧
    (nan = false → fpIsFinite .fp32 acc = false →
      firnAdd acc blk = if fpIsFinite .fp32 blk = true ∨ blk = acc then (acc, 0) else (fmtNan .fp32, flInvalid)) ∧
    (nan = false → fpIsFinite .fp32 acc = true → fpIsFinite .fp32 blk = false → firnAdd acc blk = (blk, 0)) ∧
    (fpIsFinite .fp32 acc = true → fpIsFinite .fp32 blk = true →
      (x + y = 0 → firnAdd acc blk = (0, 0)) ∧
      (x + y ≠ 0 → RoundsTo .fp32 .rne false (x + y : ℚ) (firnAdd acc blk)))) ∧
  (∀ (x : FirnRow) (af wf : Fmt) (low : LowPart) (packed : Bool) (l r : List Nat) (rows : List WeightRow),
    let y := addBlock x af wf low packed l r rows
    let side := fun n => (if n < 64 then l else r).map (partVal af)
    let drive := if packed then (l ++ r).map (partVal af) else l.map (partVal af)
    let cell := fun (f g : WeightRow → Word) =>
      (rows.map f ++ if packed then rows.map g else []).map fun c => fpDecode (if fmtIsInt wf then .int32 else .fp32) c.toNat
    let cs := cell (·.c) (·.c2)
    let ds := cell (·.d) (·.d2)
    y.1.zero = false ∧ y.1.isInt = x.isInt ∧ y.1.checked = x.checked ∧ y.1.blk = (if x.blk = 0xFFFF then x.blk else x.blk + 1) ∧
    (fmtIsInt af = false →
      let sum := fun n => blockSum .rne low (side n) (weightCol wf rows n)
      (∀ n < 128, firnWord y.1 n = (firnAdd (firnWord x n) (sum n).1).1 % 2 ^ 32) ∧ y.1.sat = x.sat ∧
      y.2 = orFlags ((List.range 128).map fun n => (firnAdd (firnWord x n) (sum n).1).2 ||| (sum n).2) ∧
      y.1.chk = BitVec.ofNat 32 (chkAdd .rne x.chk.toNat (blockSum .rne low drive cs).1) ∧
      y.1.abs = BitVec.ofNat 32 (chkAdd .rup x.abs.toNat (blockSum .rup low (drive.map fvAbs) ds).1)) ∧
    (af = .int8 → wf = .int8 → (∀ k ∈ l ++ r, k < 256) →
      let exact := fun n : Nat => int32Val (firnWord x n)
        + (List.zipWith (fun k (q : WeightRow) => (BitVec.ofNat 8 k).toInt * (BitVec.ofNat 8 (bvGet q.w (32 * n) 32)).toInt)
            (if n < 64 then l else r) rows).sum
      (∀ q ∈ rows, ∀ n < 128, bvGet q.w (32 * n) 32 < 256) →
      (∀ n < 128, int32Val (firnWord y.1 n) = max (-2 ^ 31) (min (2 ^ 31 - 1) (exact n))) ∧
      let sat := (List.range 128).any fun n => decide (exact n < -2 ^ 31 ∨ 2 ^ 31 - 1 < exact n)
      y.1.sat = (x.sat || sat) ∧ y.2 = flagIf sat flOverflow)) ∧
  (∀ (s : State) (uid : Nat) (w : MmaWord) (set : WeightSet) (low : LowPart) (first : Bool) (m : Nat) (l r : List Nat),
    Clean s → Firn.wf s.firn = true → w.frb.toNat + m < 2048 →
    let t := mmaAddRow s uid w set low first m l r
    (∀ a ≤ w.narr.toNat,
      let x := firnRow s a (w.frb.toNat + m)
      let rows := set.arrays.getD a []
      firnRow t a (w.frb.toNat + m) =
        (addBlock (if first then rowBegin x w.ovw (w.afmt == 7) else x) (if w.afmt = 0 then .bf16 else tileFmt w.afmt)
          (tileFmt set.fmt) low (w.shape == 5) l r (if w.shape = 5 then (rows.drop (m / 64 * 64)).take 64 else rows)).1) ∧
    ∀ a q, a < 4 → q < 2048 → (w.narr.toNat < a ∨ q ≠ w.frb.toNat + m) → firnRow t a q = firnRow s a q) ∧
  (∀ x < 2 ^ 32, fpIsFinite .fp32 x = true → ratOf .fp32 x ≠ 0 →
    ∃ h, RoundsTo .bf16 .rne false (ratOf .fp32 x : ℚ) h ∧ (splitFp32 x).1 = h.1 ∧
      (fpIsFinite .bf16 h.1 = false → (splitFp32 x).2 = (0, flOverflow ||| flInexact)) ∧
      (fpIsFinite .bf16 h.1 = true → (splitFp32 x).2.2 = 0 ∧
        let d := ratOf .fp32 x - ratOf .bf16 h.1
        (d = 0 → (splitFp32 x).2.1 = 0) ∧
        (d ≠ 0 → ∃ l, RoundsTo .bf16 .rne false (d : ℚ) l ∧ (splitFp32 x).2.1 = l.1))) ∧
  ∀ a w : Nat, a < 2 ^ 32 → w < 2 ^ 32 → fpIsFinite .fp32 a = false → fpIsNan .fp32 a = false → fpIsFinite .fp32 w = true →
    let chain := fun (a w : Nat) => ([(.high, .high), (.high, .low), (.low, .high)] : List (Part × Part)).foldl (fun acc p =>
      let b := blockSum .rne (if p.2 = .low then .weight else if p.1 = .low then .act else .none)
        [partVal .bf16 (partOf p.1 a)] [partVal .bf16 (partOf p.2 w)]
      ((firnAdd acc.1 b.1).1, acc.2 ||| b.2 ||| (firnAdd acc.1 b.1).2)) (0, (0 : Flags))
    let r := if ratOf .fp32 w = 0 then (fmtNan .fp32, flInvalid)
      else (fpInfCode .fp32 (fpNegBit .fp32 a != fpNegBit .fp32 w), 0)
    chain a w = r ∧ chain w a = r

/-- MMV: the strips of its vectors go to Firn rows or, with DV, to vector registers that start at +0 (R131 to R135);
no other row, register or byte changes. Where one vector's strip goes: with DV lanes 128 n to 128 n + 127 of register
DST + j, otherwise row DST + j of slice n; the check lane is compared for each, and counted (R134, R135). A strip
adds the groups of 128 consecutive K indices one after another, each as one K block (R133), through the weights of
its 128 columns. Of these the model's choices: log 28, the check lane of MMV. Of these the model's choices: log 16,
when storage errors arise; log 28, the check lane of MMV and skips; log 47, open points of flags and order. -/
def Obligations.MmvEffects : Prop :=
  (∀ (s : State) (r : Run) (i : Inst) (w : MmvWord),
      let off := offVal s w.wor w.woff
      let str := strVal s w.wsr w.wstr
      let k := 128 * (w.kb.toNat + 1)
      let rb := 128 * (w.ns.toNat + 1) * tileBits w.fmt / 8
      let h := hull off str k rb
      let t := getT s w.ta
      let weights := r81 off str k rb (bufBytes s i.uid w.wh.toNat)
      let stops := fun e : Code => Issuable s r i .m 1 (.mmv w) (offRegs w.wor w.woff ++ strRegs w.wsr w.wstr) →
        exec (.mmv w) s = .next (raiseFault s r ⟨s.seq.nextUid, e, r.pc, none⟩)
      (t.full = false → stops eTempty) ∧
      (t.full = true → (t.shape ≠ w.shape ∨ t.fmt ≠ w.fmt) → stops eTshape) ∧
      (t.full = true → t.shape = w.shape → t.fmt = w.fmt →
        (∀ e, weights = some e → stops e) ∧
        (weights = none → w.dv = false → w.ovw = false → rngsBusy s s.seq.nextUid [rTile w.ta false,
            rBuf s i.uid w.wh.toNat h.1 h.2 false, rFirn w.dst.toNat (w.mm.toNat + 1) true] = false →
          ∀ a ≤ w.ns.toNat, ∀ m ≤ w.mm.toNat, (firnRow s a (w.dst.toNat + m)).zero = false →
            (firnRow s a (w.dst.toNat + m)).isInt ≠ (w.fmt == 7) → stops eTshape)) ∧
      ∀ c : LoadCtx, checkRow c 6 (.mmv w) = some eTshape ↔ (w.shape ≠ 3 ∧ w.shape ≠ 4) ∨ w.fmt = 0 ∨ w.fmt = 1 ∨
        shapeRows w.shape < w.srow.toNat + w.mm.toNat + 1 ∨ shapeCols w.shape < k ∨
        (w.dv = true ∧ (w.ovw = false ∨ 32 < w.dst.toNat + w.mm.toNat + 1)) ∨
        (w.dv = false ∧ 2048 < w.dst.toNat + w.mm.toNat + 1)) ∧
  (∀ (s : State) (r : Run) (i : Inst) (w : MmvWord),
      let off := offVal s w.wor w.woff
      let str := strVal s w.wsr w.wstr
      let k := 128 * (w.kb.toNat + 1)
      let rb := 128 * (w.ns.toNat + 1) * tileBits w.fmt / 8
      let h := hull off str k rb
      let t := getT s w.ta
      Issuable s r i .m 1 (.mmv w) (offRegs w.wor w.woff ++ strRegs w.wsr w.wstr) →
      t.full = true → t.shape = w.shape → t.fmt = w.fmt → r81 off str k rb (bufBytes s i.uid w.wh.toNat) = none →
      rngsBusy s s.seq.nextUid ([rTile w.ta false, rBuf s i.uid w.wh.toNat h.1 h.2 false]
        ++ if w.dv then [] else [rFirn w.dst.toNat (w.mm.toNat + 1) true]) = false →
      (∀ a ≤ w.ns.toNat, ∀ m ≤ w.mm.toNat, w.dv = true ∨ w.ovw = true ∨ (firnRow s a (w.dst.toNat + m)).zero = true ∨
        (firnRow s a (w.dst.toNat + m)).isInt = (w.fmt == 7)) →
        ∃ u, exec (.mmv w) s = .next (after u r 1) ∧
          u = (List.range (w.ns.toNat + 1)).foldl (fun v n =>
              (if w.dv then mmvVec else mmvFirn) v i.uid w t (mmvStrip s i.uid w off str n) n)
            (let v := tileTake (takeRows s i.uid w.wh off str k rb) i.uid w.ta 0 65536
             if w.dv then mmvClear v w else v) ∧ (Clean s →
          (w.dv = true → w.dst.toNat + w.mm.toNat < 32 → u.firn = s.firn ∧ ∀ x : BitVec 5,
            (x.toNat < w.dst.toNat ∨ w.dst.toNat + w.mm.toNat < x.toNat) → getV u x = getV s x) ∧
          (w.dv = false → w.dst.toNat + w.mm.toNat < 2048 → u.vec = s.vec ∧ ∀ a q, a < 4 → q < 2048 →
            (w.ns.toNat < a ∨ q < w.dst.toNat ∨ w.dst.toNat + w.mm.toNat < q) → firnRow u a q = firnRow s a q) ∧
          (∀ a, padGet u.pad a = padGet s.pad a) ∧ (∀ x, getS u x = getS s x) ∧ u.tiles = s.tiles ∧
          (∀ q, statRow u q = statRow s q))) ∧
  ((∀ (s : State) (uid : Nat) (w : MmvWord) (t : Tile) (blocks : List (List WeightRow)) (n : Nat),
      mmvFirn s uid w t blocks n = (List.range (w.mm.toNat + 1)).foldl (fun v j =>
        let v := blockRow v uid w.ovw true n (w.dst.toNat + j)
        let x := rowBegin (firnRow v n (w.dst.toNat + j)) w.ovw (w.fmt == 7)
        putFirnRow (mmvOne v uid w t blocks n j x).1 n (w.dst.toNat + j) (mmvOne v uid w t blocks n j x).2) s ∧
      mmvVec s uid w t blocks n = (List.range (w.mm.toNat + 1)).foldl (fun v j =>
        let o := mmvOne v uid w t blocks n j (rowBegin .reset true (w.fmt == 7))
        let q := BitVec.ofNat 5 (w.dst.toNat + j)
        setV o.1 q (bvPut (getV o.1 q) (4096 * n) 4096 o.2.words.toNat)) s) ∧
    ∀ (s : State) (uid : Nat) (w : MmvWord) (t : Tile) (blocks : List (List WeightRow)) (n j : Nat) (x : FirnRow),
      let f := tileFmt w.fmt
      let vec := (List.range (128 * (w.kb.toNat + 1))).map fun k => tileElem t (w.srow.toNat + j) k
      mmvOne s uid w t blocks n j x =
        (countCompare (raiseMat s (mmvRow x f vec blocks).2)
          (compareRow (mmvRow (rowBegin .reset true (w.fmt == 7)) f vec blocks).1) true n j uid, (mmvRow x f vec blocks).1)) ∧
  (∀ (x : FirnRow) (f : Fmt) (vec : List Nat) (blocks : List (List WeightRow)) (b : List WeightRow),
    mmvRow x f vec [] = (x, 0) ∧
    let p := mmvRow x f vec blocks
    let part := (vec.drop (128 * blocks.length)).take 128
    let y := addBlock p.1 f f .none false part part b
    mmvRow x f vec (blocks ++ [b]) = (y.1, p.2 ||| y.2)) ∧
  ∀ (s : State) (uid : Nat) (w : MmvWord) (off str : Int) (n b k : Nat), b ≤ w.kb.toNat → k < 128 →
    ((mmvStrip s uid w off str n)[b]?.bind (·[k]?)) = some (mkWeightRow (tileFmt w.fmt) false
      (weightCodes s uid w.wh (off + ((128 * b + k : Nat) : Int) * str + ((128 * n * tileBits w.fmt / 8 : Nat) : Int)) 128 w.fmt))

/-- SWAP exchanges the sets once the background set holds the load of the oldest MMA's next K block: it becomes the
foreground set of all four arrays, the activations of the block enter against it, and the weight bus may write the
other set; after its last block the MMA's store clause may run (R101, R105, R106, R144, R152). STORE_CLAUSE runs the
oldest store clause whose product is complete, when the rows it writes are free, row by row after the comparisons of
the row (R152, R154, R127); row m goes to OFF + m * STR, its words packed in the order of the arrays, and a row whose
read ends the run is still written as it stands (R129). One word on the store path: scaled by the product of the two
factors with SCL, then converted to OFMT with -0 as +0 and the canonical NaN (R152, R153, R62). Of these the model's
choices: log 3, an event whose precondition does not hold changes nothing; log 11, the weight bus; log 12, a store
clause waits as a pending store; log 13, a ring MMA takes flits one at a time; log 35, a block sum that rounds to
zero. -/
def Obligations.StorePath : Prop :=
  (∀ s : State, (swapDue s = none → exec .swap s = .next s) ∧
      ∀ j, swapDue s = some j ↔ ∃ rest, s.mat.jobs = j :: rest ∧ s.mat.bgFor = some j.seq ∧
        (j.blk = 0 ∨ j.w.src = false ∨ j.taken = mmaRows j.w.shape)) ∧
  (∀ (s : State) (j : MmaJob), swapDue s = some j → Clean s → (∀ x ∈ s.mat.jobs.drop 1, x.seq ≠ j.seq) →
      let v := { s with mat := { s.mat with fgA := !s.mat.fgA, bgFor := none } }
      let last := !j.w.src && j.blk + 1 == mmaBlocks j.w.shape * (if j.w.wfmt = 0 then 3 else 1)
      ∃ u, exec .swap s = .next (loadBg u) ∧
        fgSet u.mat = (if s.mat.fgA then s.mat.setB else s.mat.setA) ∧ fgSet (loadBg u).mat = fgSet u.mat ∧
        u.mat.bgFor = none ∧ (u.mat.fgA = !s.mat.fgA) ∧ u.mat.setA = s.mat.setA ∧ u.mat.setB = s.mat.setB ∧
        u.mat.jobs = (if last then [] else [{ j with blk := j.blk + 1, taken := 0 }]) ++ s.mat.jobs.drop 1 ∧
        u.mat.stores = (if last then s.mat.stores.map fun p => if p.seq = j.seq then { p with ready := true } else p
          else s.mat.stores) ∧
        u.firn = (if j.w.src then s.firn else (tileBlock v j j.blk).firn) ∧
        u.mat.numstat = (if j.w.src then s.mat.numstat else (tileBlock v j j.blk).mat.numstat) ∧
        u.seq = s.seq ∧ u.vec = s.vec ∧ u.tiles = s.tiles ∧ u.pad = s.pad ∧ u.strm = s.strm ∧ u.chk = s.chk) ∧
  (∀ (s : State) (j : MmaJob) (blk m : Nat) (l r : List Nat),
      let ps := if j.w.wfmt = 0 then [(Part.high, Part.high), (Part.high, Part.low), (Part.low, Part.high)]
        else [(Part.whole, Part.whole)]
      let t := getT s j.w.ta
      (∀ p, ps[blk % ps.length]? = some p → jobRow s j blk m l r = mmaAddRow s j.uid j.w (fgSet s.mat)
        (if p.2 = .low then .weight else if p.1 = .low then .act else .none) (blk == 0) m
        (l.map (partOf p.1)) (r.map (partOf p.1))) ∧
      (j.w.shape ≠ 5 → tileBlock s j blk = (List.range (mmaRows j.w.shape)).foldl (fun s m =>
        let c := (List.range 128).map fun k => tileElem t m (128 * (blk / ps.length) + k)
        jobRow s j blk m c c) s)) ∧
  (∀ (s : State) (p : PendingStore),
      ((∀ q ∈ s.mat.stores, q.ready = false) → exec .storeClause s = .next s) ∧
      (s.mat.stores.find? (·.ready) = some p →
        (rngsBusy s p.seq (storeRngs s p) = true → exec .storeClause s = .next s) ∧
        (rngsBusy s p.seq (storeRngs s p) = false →
          let sc := fpMul .fp32 .rne p.scaleA.toNat p.scaleB.toNat
          let s0 := { s with mat := { s.mat with stores := s.mat.stores.filter fun q => q.seq != p.seq } }
          let s1 := if p.w.scl then raiseMat s0 sc.2 else s0
          let s2 := (List.range p.m).foldl (fun v m => storeOne v p sc.1 m) s1
          exec .storeClause s = .next (if p.w.dest = true ∧ runAlive s2 p.uid = true then
            sendRows s2 p.uid p.seq p.mask p.txch p.gtag p.run (rowData (tileBits p.w.ofmt) (storeBlocks s2 p sc.1)) else s2)))) ∧
  (∀ (s : State) (p : PendingStore) (sc m : Nat),
      let u := checkReads s ((List.range p.narr).map fun a => (a, p.frb + m)) p.uid
      let row := fun a => firnRow u a (p.frb + m)
      let codes := (List.range p.narr).flatMap fun a => (List.range 128).map fun c =>
        storeWord p.w (!(row a).zero && (row a).isInt) sc (firnWord (row a) c)
      let v := raiseMat u (orFlags (codes.map (·.2)))
      (runAlive s p.uid = false → storeOne s p sc m = s) ∧
      (runAlive s p.uid = true → p.w.dest = true → storeOne s p sc m = v) ∧
      ∀ buf, runAlive s p.uid = true → p.w.dest = false → findBuf u p.uid p.w.sh.toNat = some buf → Buf.wf buf →
        Pad.wf u.pad = true → 1 ≤ p.narr → p.narr ≤ 4 →
        let o := (p.off + (m : Int) * p.str).toNat
        let n := 128 * p.narr * tileBits p.w.ofmt / 8
        o + n ≤ buf.size →
          let t := storeOne s p sc m
          leNat (bufRead t p.uid p.w.sh.toNat o n) = pack (tileBits p.w.ofmt) (codes.map (·.1)) % 2 ^ (8 * n) ∧
          (∀ a, (∀ k < n, bufPhys buf (o + k) ≠ a) → padGet t.pad a = padGet u.pad a) ∧
          t.mat = v.mat ∧ t.firn = v.firn ∧ t.tiles = v.tiles ∧ t.vec = v.vec ∧ t.seq = v.seq ∧ t.strm = v.strm) ∧
  (∀ (w : StoreWord) (sc c : Nat),
      (w.scl = false → storeWord w false sc c = tensorConvert .fp32 (tileFmt w.ofmt) w.sat c ∧
        storeWord w true sc c = tensorConvert .int32 (tileFmt w.ofmt) w.sat c) ∧
      (w.scl = true →
        (storeWord w false sc c).1 = (tensorConvert .fp32 (tileFmt w.ofmt) w.sat (fpMul .fp32 .rne sc c).1).1 ∧
        (storeWord w true sc c).1 = (tensorConvert .fp32 (tileFmt w.ofmt) w.sat
          (fpMul .fp32 .rne sc (fpConvert .int32 .fp32 .rne false c).1).1).1))

/-! ## The ring instructions (11) and the update engine (13) -/

/-- RROUTE puts its mask, first member and channels in force; with members it makes the instance a ring scene of the
group named in FR and takes the GROUP_ENDs that came before its start, and discards waiting flits of earlier runs of
it (R280, R281, R293, R295). RSEND queues the rows of a FULL tile register east on VC0 for the other members of the
mask, block by block and row by row, the last flit of the transfer marked; it changes no register and no byte (R283,
R284). Of these the model's choices: log 4, what an instruction that waits holds back; log 22, messages and lanes as
operands; log 26, GROUP_REPLAY, GROUP_END and RUN. -/
def Obligations.RingSending : Prop :=
  (∀ (s : State) (r : Run) (i : Inst) (w : RouteWord) (ta : BitVec 4),
      let mask := getS s w.mr
      let fr := getS s w.fr
      let gtag := ((fr >>> 16).truncate 16 : BitVec 16)
      let others := ((List.range 64).filter fun c => mask.getLsbD c && decide (c ≠ s.boot.ties.clusterId.toNat)).length
      let wrong := bvGet fr 6 10 ≠ 0 ∨ bvGet fr 32 32 ≠ 0 ∨ (∃ c, s.rev.n.toNat ≤ c ∧ mask.getLsbD c = true) ∨
        s.rev.n.toNat ≤ fr.toNat % 64 ∨ (i.ringScene = true ∧ i.gtag ≠ gtag)
      let many := 1 < others ∧ s.feat.grant1.getLsbD 4 = false
      let t := getT s ta
      let stops := fun (c : Instr) (q : Queue) (regs : List (BitVec 5)) (e : Code) => Issuable s r i q 1 c regs →
        exec c s = .next (raiseFault s r ⟨s.seq.nextUid, e, r.pc, none⟩)
      (wrong → stops (.rroute w) .s [w.mr, w.fr] eBadval) ∧ (¬ wrong → many → stops (.rroute w) .s [w.mr, w.fr] eFeature) ∧
      (¬ wrong → ¬ many → mask &&& (s.rev.ptMap ||| s.rev.zc3) ≠ 0 → stops (.rroute w) .s [w.mr, w.fr] eRingpart) ∧
      (t.full = false → stops (.rsend ta) .d [] eTempty) ∧
      (t.full = true → (t.shape = 5 ∨ t.fmt = 0 ∨ t.fmt = 1) → stops (.rsend ta) .d [] eTshape)) ∧
  (∀ (s : State) (r : Run) (i : Inst) (w : RouteWord),
      let mask := getS s w.mr
      let fr := getS s w.fr
      let first := (fr.truncate 6 : BitVec 6)
      let gtag := ((fr >>> 16).truncate 16 : BitVec 16)
      let route : Route := ⟨mask, first, w.txch, w.rxch⟩
      let u := { s with seq := { s.seq with run := some { r with route := route } } }
      Issuable s r i .s 1 (.rroute w) [w.mr, w.fr] →
      bvGet fr 6 10 = 0 → bvGet fr 32 32 = 0 → (∀ c, s.rev.n.toNat ≤ c → mask.getLsbD c = false) →
      first.toNat < s.rev.n.toNat → (i.ringScene = true → i.gtag = gtag) →
      (((List.range 64).filter fun c => mask.getLsbD c && decide (c ≠ s.boot.ties.clusterId.toNat)).length ≤ 1 ∨
        s.feat.grant1.getLsbD 4 = true) →
      mask &&& (s.rev.ptMap ||| s.rev.zc3) = 0 →
        (mask = 0 → exec (.rroute w) s = .next (after u r 1)) ∧
        (mask ≠ 0 → exec (.rroute w) s = .next (after
          (purgeStale
          (setInst { u with rev := { u.rev with gends := u.rev.gends.filter fun x => !(x.1 == gtag && x.2.1 == i.grun) } } i.uid
            fun j => { j with ringScene := true, gtag := gtag, gmask := mask,
                              gends := j.gends ++ s.rev.gends.filter fun x => x.1 == gtag && x.2.1 == i.grun })) r 1))) ∧
  (∀ (s : State) (r : Run) (i : Inst) (ta : BitVec 4),
      let t := getT s ta
      let rows := (List.range (mmaBlocks t.shape)).flatMap fun j => (List.range (mmaRows t.shape)).map fun m =>
        (List.range 128).map fun k => tileElem t m (128 * j + k)
      Issuable s r i .d 1 (.rsend ta) [] → t.full = true → t.shape ≠ 5 → t.fmt ≠ 0 → t.fmt ≠ 1 →
      rngsBusy s s.seq.nextUid [rTile ta false] = false → Clean s → i.ending = none →
        ∃ fs, exec (.rsend ta) s = .next (after { s with
            seq := { s.seq with nextUid := s.seq.nextUid + 1 }
            rev := { s.rev with east := { s.rev.east with out := s.rev.east.out ++ fs } } } r 1) ∧
          (r.route.mask &&& ~~~(BitVec.ofNat 64 (2 ^ s.boot.ties.clusterId.toNat)) = 0 → fs = []) ∧
          (r.route.mask &&& ~~~(BitVec.ofNat 64 (2 ^ s.boot.ties.clusterId.toNat)) ≠ 0 →
            fs.length = (rowData (tileBits t.fmt) rows).length ∧
            ∀ k o, fs[k]? = some o → o.vc = 0 ∧ o.ch = r.route.txch ∧ o.inject = true ∧ o.uid = i.uid ∧
              ∃ f : Flit, o.body = .flit f ∧ (rowData (tileBits t.fmt) rows)[k]? = some f.data ∧
                flVc f = 0 ∧ flSrc f = s.boot.ties.clusterId.toNat ∧ flCh f = r.route.txch ∧ flGtag f = i.gtag ∧
                flRun f = i.grun ∧ flMask f = r.route.mask &&& ~~~(BitVec.ofNat 64 (2 ^ s.boot.ties.clusterId.toNat)) ∧
                flType f = if k + 1 = fs.length then 1 else 0))

/-- RRED: its source is read as FP32, the reduction begins with this cluster at its rank, its first partials are
queued in both directions, and partials that wait meet it (R287, R288, R290, R292), unless a storage error in its
source ends the run. The partial that a rank adds: each word of the flit plus the word of its own source under RNE
with the canonical NaN; at the last hop the sum is final, before it the sum goes on in the same direction (R287,
R288). Of these the model's choices: log 4, what an instruction that waits holds back; log 15, which waiting partial
a rank meets; log 16, when storage errors arise; log 47, open points of flags and order. -/
def Obligations.RingReduce : Prop :=
  (∀ (s : State) (r : Run) (i : Inst) (w : RredWord),
      let l := rredLen s w
      let n := ((List.range 64).filter fun c => r.route.mask.getLsbD c).length
      let rules := [8, 9, 10, 11, 14].any fun b => s.feat.grant1.getLsbD b
      let src := w.soff.toNat + l * (if w.sf then 2 else 4)
      let dst := w.doff.toNat + (if w.op = 0 then l / n * 4 else l * 4)
      let fed := ∃ u, s.upd.cur = some u ∧ u.uid = i.uid ∧ byteField u.recd 4 1 = 0 ∧ u.grad = [] ∧ byteField u.recd 8 4 = l / n
      let legal := i.ringScene = true ∧ r.route.mask.getLsbD s.boot.ties.clusterId.toNat = true ∧ w.op.toNat < 2 ∧
        ¬ (w.df = true ∧ w.op = 1) ∧ 0 < l ∧ l ≤ 8388608 ∧ l % (128 * n) = 0 ∧ (w.df = true → fed)
      let granted := s.feat.grant1.getLsbD 5 = true ∧ (w.df = true → rules = true)
      let aligned := w.soff.toNat % 64 = 0 ∧ w.doff.toNat % 64 = 0
      let fits := src ≤ bufBytes s i.uid w.sh.toNat ∧ (w.df = false → dst ≤ bufBytes s i.uid w.dh.toNat)
      let stops := fun e : Code => Issuable s r i .d 1 (.rred w) (if w.lr then [w.len.truncate 5] else []) →
        exec (.rred w) s = .next (raiseFault s r ⟨s.seq.nextUid, e, r.pc, none⟩)
      (¬ legal → stops eBadval) ∧ (legal → ¬ granted → stops eFeature) ∧ (legal → granted → ¬ aligned → stops eAlign) ∧
      (legal → granted → aligned → ¬ fits → stops eBufsize) ∧
      (rredFault s r i w = none ↔ legal ∧ granted ∧ aligned ∧ fits)) ∧
  (∀ (s : State) (r : Run) (i : Inst) (w : RredWord),
      let l := rredLen s w
      let ranks := ranksOf r.route.mask r.route.first.toNat s.rev.n.toNat
      let n := ranks.length
      let srcB := l * (if w.sf then 2 else 4)
      let red : Red := ⟨i.uid, s.seq.nextUid, w, l, n, ranks.findIdx (· == s.boot.ties.clusterId.toNat), r.route.mask,
        i.gtag, i.grun, rredSource s i.uid w l, 0, 0, 0, 0, [], []⟩
      let u := bufTake { s with seq := { s.seq with nextUid := s.seq.nextUid + 1 } } i.uid w.sh.toNat w.soff.toNat srcB
      Issuable s r i .d 1 (.rred w) (if w.lr then [w.len.truncate 5] else []) → rredFault s r i w = none →
      s.rev.red = none →
      rngsBusy s s.seq.nextUid (rBuf s i.uid w.sh.toNat w.soff.toNat ((w.soff.toNat + srcB : Nat) : Int) false ::
        if w.df then [] else
          [rBuf s i.uid w.dh.toNat w.doff.toNat ((w.doff.toNat + rredDestBytes w l n : Nat) : Int) true]) = false →
        exec (.rred w) s = .next (after (if runAlive u i.uid = true then redDrain (redFinish (redInject
          { u with rev := { u.rev with red := some red } } red)) else u) r 1) ∧
        (Clean s → i.ending = none → runAlive u i.uid = true)) ∧
  (∀ (s : State) (r : Red) (east : Bool) (f : Flit) (p j : Nat), s.rev.red = some r →
      (p, j) = redHop r (if east then r.gotE else r.gotW) →
      let i := if east then (r.rank + 2 * r.n - 2 - p) % r.n else (r.rank + 2 + p) % r.n
      let e := (if east then 0 else r.len / r.n / 2) + 64 * j
      let own := (r.src.drop (i * (r.len / r.n) + e)).take 64
      let ws := List.zipWith (fun a b =>
        let c := (fpAdd .fp32 .rne a.toNat b.toNat).1
        BitVec.ofNat 32 (if fpIsNan .fp32 c then fmtNan .fp32 else c))
        ((unpack 32 64 f.data.toNat).map (BitVec.ofNat 32)) own
      let u := perfAdd s 0x0506 64
      let r' := if east then { r with gotE := r.gotE + 1 } else { r with gotW := r.gotW + 1 }
      let v := { u with rev := { u.rev with red := some r' } }
      let last := decide (j + 1 = r.len / r.n / 128)
      (p + 2 ≠ r.n → redReduce s r east f = redOut v east true r.uid r.seq (redFlit v r 0 last ws)) ∧
      (p + 2 = r.n → r.w.op ≠ 1 → redReduce s r east f = redStore v r east i e ws) ∧
      (p + 2 = r.n → r.w.op = 1 →
        let x := redStore v r east i e ws
        redReduce s r east f = redOut x east true r.uid r.seq (redFlit x r 1 last ws)))

/-- UPD: the 256-byte record is read from the buffer, its checks pass, and the update is in progress; a protected one
enters the instance's list, and one that will commit enters the uncommitted-update record (R328, R330, R341, R408).
Behind a computation that has not ended it waits in its queue, whatever its record holds (R328). Storage errors of
the record that a read meets are stated of check events. Of these the model's choices: log 4, what an instruction
that waits holds back; log 14, the phases of an update; log 16, when storage errors arise. -/
def Obligations.UpdateIssue : Prop :=
  (∀ (s : State) (r : Run) (i : Inst) (w : UpdWord),
    let off := offVal s w.or_ w.off
    let recd := BitVec.ofNat 2048 (leNat (bufRead s i.uid w.h.toNat off.toNat 256))
    let inBuf := 0 ≤ off ∧ off + 256 ≤ bufBytes s i.uid w.h.toNat
    let sets := ((sceneOf s i).map (·.sets)).getD []
    let granted := ∀ x ∈ updNeeds recd, ctxGranted (runCtx s i) x = true
    let stops := fun e : Code => Issuable s r i .d 1 (.upd w) (offRegs w.or_ w.off ++ [w.sd]) →
      exec (.upd w) s = .next (raiseFault s r ⟨s.seq.nextUid, e, r.pc, none⟩)
    s.upd.cur = none →
    (off % 64 ≠ 0 → stops eAlign) ∧ (off % 64 = 0 → ¬ inBuf → stops eBufsize) ∧
    (off % 64 = 0 → inBuf → rngsBusy s s.seq.nextUid [rBuf s i.uid w.h.toNat off (off + 256) false] = false →
      (∀ e, updFault s r i recd = some e → stops e) ∧
      (¬ granted → updFault s r i recd = some eFeature) ∧
      (granted → updFieldsOk recd = false → updFault s r i recd = some eBadval) ∧
      (granted → updFieldsOk recd = true → updAlignOk recd = false → updFault s r i recd = some eAlign) ∧
      (granted → updFieldsOk recd = true → updAlignOk recd = true →
        (updBufOk s i.uid recd = false → updFault s r i recd = some eBufsize) ∧
        (updBufOk s i.uid recd = true → updSetsOk sets recd = false → updFault s r i recd = some eOutset) ∧
        (updBufOk s i.uid recd = true → updSetsOk sets recd = true → updFault s r i recd
          = if bvGet recd 8 1 = 1 ∧ 16 ≤ r.nProt then some eUpdlimit else none)))) ∧
  (∀ (s : State) (r : Run) (i : Inst) (w : UpdWord), s.upd.cur ≠ none →
    let regs := offRegs w.or_ w.off ++ [w.sd]
    Issuable s r i .d 1 (.upd w) regs → exec (.upd w) s = .next (holdBack s (fetchedAt s r .d 1 (.upd w) regs))) ∧
  ∀ (s : State) (r : Run) (i : Inst) (w : UpdWord) (o : Nat),
    let recd := BitVec.ofNat 2048 (leNat (bufRead s i.uid w.h.toNat o 256))
    let prot := bvGet recd 8 1 == 1
    let two := bvGet recd 12 1 == 1
    let ver := BitVec.ofNat 64 (byteField recd 0x18 8)
    let step := BitVec.ofNat 64 (byteField recd 0x10 8)
    let u : Upd :=
      { uid := i.uid, seq := s.seq.nextUid, sd := w.sd, bufH := byteField recd 5 1, recd := recd, k := r.nProt
        phase := if prot then .version else if byteField recd 6 1 ≠ 0 then .norm else .reads
        redo := false, src1 := false, vword := 0, norm := 0, pdata := [], sdata := [], grad := [], skip := false
        issued := false, walking := false, susp := none }
    offVal s w.or_ w.off = o → o % 64 = 0 → o + 256 ≤ bufBytes s i.uid w.h.toNat →
    Issuable s r i .d 1 (.upd w) (offRegs w.or_ w.off ++ [w.sd]) →
    rngsBusy s s.seq.nextUid [rBuf s i.uid w.h.toNat o (o + 256) false] = false →
    updFault s r i recd = none → s.upd.cur = none → ((prot && !two) = true → s.upd.record.length < 16) →
    rngsBusy s s.seq.nextUid (updRngs s u) = false → Clean s → i.ending = none →
      ∃ t, exec (.upd w) s = .next (after (kickUpd t) r 1) ∧ t.upd.cur = some u ∧
        t.upd.writes = s.upd.writes ∧ t.upd.commits = s.upd.commits ∧
        t.upd.record = s.upd.record ++ (if prot && !two then [(i.uid, r.nProt, ver, step)] else []) ∧
        ((findInst t i.uid).map (·.upds) = some (i.upds ++ if prot then [⟨ver, step, false, false, two⟩] else [])) ∧
        (t.seq.run.map (·.nProt) = some (r.nProt + if prot then 1 else 0)) ∧
        (∀ a, padGet t.pad a = padGet s.pad a) ∧ t.vec = s.vec ∧ t.firn = s.firn ∧ t.tiles = s.tiles ∧ t.strm = s.strm

/-- UPD_COMPLETE: when the reads are complete and the gradient is there, the engine is free again, a gradient without
infinities and NaNs, or without the skip option, is used whole, and with it one that has any cancels the commit,
after the elements before the first when it comes from the ring; the result word goes to SD (R332, R340, R342, R346).
Otherwise nothing happens. Rule M on one element (R334), rule A (R335) with phi and the lane sums of R337, rule F on
a shard (R336), the refresh and a block of rule P (R338, R339), the programmable mode (R345), and the bytes written
(R333). The version word decides the case (R341, Table 13-6): a STEP below that of the word, or a reserved bit,
abandons the run with E_UPDVER; an equal STEP redoes from the copies of before; a higher one goes on from the current
copies. UPD_COMMIT: only a commit of a scene that has executed SCENE_END, whose shadow writes are acknowledged and
whose earlier commits are issued, is issued: an 8-byte write of its version word (R342). Of these the model's
choices: log 3, an event whose precondition does not hold changes nothing; log 14, the phases of an update. Of these
the model's choices: log 3, an event whose precondition does not hold changes nothing; log 14, the phases of an
update; log 47, open points of flags and order. -/
def Obligations.UpdateResults : Prop :=
  (∀ (s : State) (u : Upd),
      (s.upd.cur = none → exec .updComplete s = .next s) ∧
      (s.upd.cur = some u → ¬ (u.phase = .ready ∨ u.phase = .gradient ∧ u.grad ≠ []) → exec .updComplete s = .next s) ∧
      (s.upd.cur = some u → (u.phase = .ready ∨ u.phase = .gradient ∧ u.grad ≠ []) →
        (Clean s → ∃ v, exec .updComplete s = .next (updFinish v u) ∧ v.upd = s.upd ∧ v.seq = s.seq ∧ updGrad v u = updGrad s u) ∧
        ∀ v, v = (if byteField u.recd 4 1 = 1 then bufTake s u.uid u.bufH (byteField u.recd 0x48 4) (4 * updN u.recd) else s) →
          exec .updComplete s = .next (if v.upd.cur = none then v else updFinish v u)) ∧
      (let g := updGrad s u
       let nf := (g.filter fun c => !fpIsFinite .fp32 c).length
       let word := fun (sing : Nat) (skip : Bool) =>
         BitVec.ofNat 64 (min nf (2 ^ 32 - 1) + min sing 65535 * 2 ^ 32 + bit skip * 2 ^ 48 + bit u.redo * 2 ^ 49)
       let ends := fun (skip : Bool) (n : Nat) (x : UpdResult × Flags) =>
         let v := { s with upd := { s.upd with cur := none, nSing := s.upd.nSing + BitVec.ofNat 32 x.1.sing } }
         kickUpd (updClose (updApply (setResult (perfAdd (raiseUpd v x.2) 0x0601 n) u.uid (some u.sd) (word x.1.sing skip)) u
           x.1) u skip)
       let pre := g.takeWhile (fpIsFinite .fp32)
       (nf = 0 ∨ bvGet u.recd 9 1 = 0 → updFinish s u = ends false g.length (updCompute u false g)) ∧
       (0 < nf → bvGet u.recd 9 1 = 1 → byteField u.recd 4 1 ≠ 1 →
         updFinish s u = ends true pre.length (updCompute u true pre)) ∧
       (0 < nf → bvGet u.recd 9 1 = 1 → byteField u.recd 4 1 = 1 →
         ∃ t, updFinish s u = kickUpd (updClose t u true) ∧ t.upd.writes = s.upd.writes ∧ t.upd.commits = s.upd.commits ∧
           t.upd.cur = none ∧
           t.seq = (setResult { s with upd := { s.upd with cur := none } } u.uid (some u.sd) (word 0 true)).seq))) ∧
  (∀ (recd : BitVec 2048) (g p m : Nat),
      let fma := fun a b c => (fpFma .fp32 .rne false false a b c).1
      let lr := updK recd 0
      let mu := updK recd 1
      let lambda := updK recd 2
      let nlr := if fpIsNan .fp32 lr then lr else fpNegate .fp32 lr
      let g' := fma lambda p g
      let m' := fma mu m g'
      let d := if bvGet recd 10 1 = 1 then fma mu m' g' else m'
      (ruleM recd g p m).1.s1 = m' ∧ (ruleM recd g p m).1.u = d ∧ (ruleM recd g p m).1.p = fma nlr d p) ∧
  (∀ (recd : BitVec 2048) (phi g p m v : Nat),
      let fma := fun a b c => (fpFma .fp32 .rne false false a b c).1
      let mul := fun a b => (fpMul .fp32 .rne a b).1
      let k := fun j => updK recd j
      let lr := k 0
      let nlr := mul (if fpIsNan .fp32 lr then lr else fpNegate .fp32 lr) phi
      let omb1 := (fpSub .fp32 .rne 0x3F800000 (k 1)).1
      let omb2 := (fpSub .fp32 .rne 0x3F800000 (k 2)).1
      let m' := fma (k 1) m (mul omb1 g)
      let v' := fma (k 2) v (mul omb2 (mul g g))
      let u := (fpDiv .fp32 .rne (mul m' (k 5)) (fpAdd .fp32 .rne (fpSqrt .fp32 .rne (mul v' (k 6))).1 (k 3)).1).1
      let u' := fma (k 4) p u
      let e := (ruleADir recd (ruleABetas recd).1 g p m v).1
      e.s1 = m' ∧ e.s2 = v' ∧ e.u = u' ∧ e.p = p ∧ (ruleAStep nlr e).1 = { e with p := fma nlr u' p }) ∧
  (∀ (u : Upd), byteField u.recd 0 1 = 1 →
      let lr := updK u.recd 0
      let nlr := if fpIsNan .fp32 lr then lr else fpNegate .fp32 lr
      (elemOnce u).1.1 = (ruleABetas u.recd).1 ∧
      (bvGet u.recd 12 1 = 0 → (elemOnce u).1.2 = (fpMul .fp32 .rne nlr (trustPhi u.recd u.norm).1).1)) ∧
  (∀ (recd : BitVec 2048) (norm : DWord),
      let pss := bvGet norm 0 32
      let uss := bvGet norm 32 32
      let good := fun c => fpIsFinite .fp32 c && !fpIsZero .fp32 c
      let root := fun c => (fpSqrt .fp32 .rne c).1
      (trustPhi recd norm).1 = if bvGet recd 11 1 = 1 ∧ good pss = true ∧ good uss = true then
          (fpMinMax .fp32 false (fpDiv .fp32 .rne (root pss) (root uss)).1 (updK recd 7)).1 else 0x3F800000) ∧
  (∀ xs : List Nat,
      (lanesAcc xs).1.length = 32 ∧
      (∀ k < 32, (lanesAcc xs).1.getD k 0 = ((List.range xs.length).filter fun i => i % 32 = k).foldl
        (fun a i => (fpFma .fp32 .rne false false (xs.getD i 0) (xs.getD i 0) a).1) 0) ∧
      ∀ l : List Nat, l.length = 32 →
        (lanesTree l).1 = (treeNode (fpAdd .fp32 .rne) (fun j => (l[j]?, 0)) 5 0).1.getD 0) ∧
  (∀ (recd : BitVec 2048) (rr : Nat) (g p r c : List Nat), 0 < updC recd → updN recd = rr * updC recd →
      g.length = updN recd → p.length = updN recd → r.length = rr → c.length = updC recd →
      let fma := fun a b c => (fpFma .fp32 .rne false false a b c).1
      let mul := fun a b => (fpMul .fp32 .rne a b).1
      let add := fun a b => (fpAdd .fp32 .rne a b).1
      let div := fun a b => (fpDiv .fp32 .rne a b).1
      let num := fun n : Nat => (fpConvert .int32 .fp32 .rne false n).1
      let cc := updC recd
      let at_ := fun (l : List Nat) (k : Nat) => l.getD k 0
      let q := fun k => fma (at_ g k) (at_ g k) (updK recd 2)
      let omb2 := (fpSub .fp32 .rne 0x3F800000 (updK recd 1)).1
      let x := (ruleF recd g p r c).1
      let rbar := div (x.2.1.foldl add 0) (num rr)
      x.1.length = updN recd ∧ x.2.1.length = rr ∧ x.2.2.length = cc ∧
      (∀ i < rr, at_ x.2.1 i = fma (updK recd 1) (at_ r i)
        (mul omb2 (div ((List.range cc).foldl (fun a j => add a (q (i * cc + j))) 0) (num cc)))) ∧
      (∀ j < cc, at_ x.2.2 j = fma (updK recd 1) (at_ c j)
        (mul omb2 (div ((List.range rr).foldl (fun a i => add a (q (i * cc + j))) 0) (num rr)))) ∧
      ∀ e < updN recd,
        let vhat := div (mul (at_ x.2.1 (e / cc)) (at_ x.2.2 (e % cc))) rbar
        let d := fma (updK recd 3) (at_ p e) (mul (at_ g e) (fpTrans .rsqrt vhat).1)
        at_ x.1 e = fma (uNeg (updK recd 0)) d (at_ p e)) ∧
  (∀ (recd : BitVec 2048) (b : Nat) (s : Mat2),
      let div := fun a b => (fpDiv .fp32 .rne a b).1
      let mul := fun a b => (fpMul .fp32 .rne a b).1
      let add := fun a b => (fpAdd .fp32 .rne a b).1
      let gt := fun a b => (fpCmp .fp32 .gt a b).1
      let num := (fpConvert .int32 .fp32 .rne false b).1
      let tr := (List.range b).foldl (fun a k => add a (mAt s k k)) 0
      let thr := mul (updK recd 3) (div tr num)
      let a := fun i j => if i = j then add (mAt s i i) (div (mul (updK recd 2) tr) num) else mAt s i j
      ((refresh recd b s).1 = none ↔ fpIsFinite .fp32 tr = false ∨ gt tr 0 = false ∨
        ∃ k < b, ∃ c, Factor b a thr k c ∧ gt (pivot a c k) thr = false) ∧
      ∀ q, (refresh recd b s).1 = some q → ∃ c, Factor b a thr b c ∧
        ∀ i < b, ∀ j < b, mAt q i j = if i < j then 0 else if i = j then div 0x3F800000 (c i i)
          else div (uNeg (((List.range (i - j)).map (j + ·)).foldl
            (fun x k => (fpFma .fp32 .rne false false (c i k) (mAt q k j) x).1) 0)) (c i i)) ∧
  (∀ (recd : BitVec 2048) (b : Nat) (g w : Mat2) (o : PBlock),
      let fma := fun a b c => (fpFma .fp32 .rne false false a b c).1
      let dot := fun (f h : Nat → Nat) => (List.range b).foldl (fun a k => fma (f k) (h k) a) 0
      let omb := (fpSub .fp32 .rne 0x3F800000 (updK recd 1)).1
      let stat := fun (x : Mat2) (side : Nat → Nat → Nat) (i k : Nat) =>
        fma (updK recd 1) (mAt x i k) (fpMul .fp32 .rne omb (dot (side i) (side k))).1
      let fresh := bvGet recd 13 1 = 1
      let out := fun c => (tensorConvert .fp32 .fp32 true c).1
      let x := (rulePBlock recd b g w o).1
      let y := x.1
      let bad := fun m => (refresh recd b m).1 = none
      let used := fun (v : Nat) (m old : Mat2) (i j : Nat) =>
        match (if fresh then (refresh recd b m).1 else none) with
        | some q => mAt q i j
        | none => if o.st / 2 ^ v % 2 = 1 then mAt old i j else if i = j then 0x3F800000 else 0
      (∀ m ∈ [g, o.ql, o.qr], m.length = b ∧ ∀ l ∈ m, l.length = b) →
      (∀ i < b, ∀ k < b, mAt y.l i k = stat o.l (fun i j => mAt g i j) i k ∧ mAt y.r i k = stat o.r (fun j i => mAt g i j) i k) ∧
      (¬ fresh → y.ql = o.ql ∧ y.qr = o.qr ∧ y.st = o.st % 16 ∧ x.2.2 = 0) ∧
      (fresh →
        (∀ q, (refresh recd b y.l).1 = some q → y.ql = q.map (·.map out)) ∧ (bad y.l → y.ql = o.ql) ∧
        (∀ q, (refresh recd b y.r).1 = some q → y.qr = q.map (·.map out)) ∧ (bad y.r → y.qr = o.qr) ∧
        (y.st % 2 = 1 ↔ ¬ bad y.l ∨ o.st % 2 = 1) ∧ (y.st / 2 % 2 = 1 ↔ ¬ bad y.r ∨ o.st / 2 % 2 = 1) ∧
        (y.st / 4 % 2 = 1 ↔ bad y.l) ∧ (y.st / 8 % 2 = 1 ↔ bad y.r) ∧
        x.2.2 = bit (refresh recd b y.l).1.isNone + bit (refresh recd b y.r).1.isNone) ∧
      ∀ i < b, ∀ j < b,
        let t := fun i j => dot (used 0 y.l o.ql i) fun k => mAt g k j
        let u := dot (t i) (used 1 y.r o.qr j)
        mAt x.2.1 i j = fma (uNeg (updK recd 0)) (fma (updK recd 4) (mAt w i j) u) (mAt w i j)) ∧
  (∀ (w : Nat) (u : List Nat),
      let r := fun k => u.getD (w / 2 ^ k % 16) 0
      let a := r 8
      let b := r 12
      let c := r 16
      let f := tileFmt (BitVec.ofNat 3 (w / 2 ^ 20 % 8))
      let gives := fun (op : Nat) (v : Nat) => w % 16 = op → (progStep w u).1 = u.set (w / 16 % 16) v
      gives 0 (fpFma .fp32 .rne false false a b c).1 ∧ gives 1 (fpMul .fp32 .rne a b).1 ∧ gives 2 (fpAdd .fp32 .rne a b).1 ∧
      gives 3 (fpTrans .rsqrt a).1 ∧
      gives 4 (if fpIsNan .fp32 a then fmtNan .fp32 else if fpIsZero .fp32 a then 0
        else if fpNegBit .fp32 a then 0xBF800000 else 0x3F800000) ∧
      gives 5 (fpMinMax .fp32 false (fpMinMax .fp32 true a b).1 c).1 ∧
      gives 6 (if fpIsNan .fp32 c = false ∧ fpNegBit .fp32 c = false then a else b) ∧
      gives 7 (widen f (fpConvert .fp32 f .rne true a).1).1) ∧
  (∀ (recd : BitVec 2048) (g p s1 s2 : Nat),
      let u := (unpack 32 (byteField recd 0x70 1) (byteField recd 0x80 128)).foldl (fun u w => (progStep w u).1)
        ([g, p, s1, s2, 0, 0, 0, 0] ++ (List.range 8).map (updK recd))
      let e := (ruleProg recd g p s1 s2).1
      e.p = u.getD 1 0 ∧ e.s1 = u.getD 2 0 ∧ e.s2 = u.getD 3 0) ∧
  (∀ (f : Fmt) (cs : List Nat),
      (updBytes f cs).1 = natBytes (cs.length * fmtBits f / 8) (pack (fmtBits f) (cs.map fun c => (tensorConvert .fp32 f true c).1)) ∧
      (updBytes f cs).2 = orFlags (cs.map fun c => (tensorConvert .fp32 f true c).2)) ∧
  (∀ (s : State) (u : Upd) (v : DWord), s.upd.cur = some u →
      let step := bvGet v 0 48
      let t := byteField u.recd 0x10 8
      let next : UpdPhase := if byteField u.recd 6 1 ≠ 0 then .norm else .reads
      u.phase = .version →
      ((t < step ∨ bvGet v 50 14 ≠ 0) → versionTake s u v = abandonRun (endUpd s u eUpdver) u.uid eUpdver true) ∧
      (step < t → bvGet v 50 14 = 0 → (versionTake s u v).upd.cur =
        some { u with issued := false, vword := v, redo := false, src1 := v.getLsbD 48, phase := next }) ∧
      (step = t → bvGet v 50 14 = 0 → (versionTake s u v).upd.cur =
        some { u with issued := false, vword := v, redo := true, src1 := xor (v.getLsbD 48) (v.getLsbD 49), phase := next })) ∧
  (∀ (s : State) (c : Commit),
      (commitReady s = none → exec .updCommit s = .next s) ∧
      (commitReady s = some c → (∃ d ∈ s.upd.commits, d.uid = c.uid ∧ d.seq < c.seq ∧ d.issued = false) →
        exec .updCommit s = .next s) ∧
      (commitReady s = some c → (∀ d ∈ s.upd.commits, d.uid = c.uid → d.seq < c.seq → d.issued = true) →
        exec .updCommit s = .next (updWriteSend { s with upd := { s.upd with
          nextKey := s.upd.nextKey + 1
          writes := s.upd.writes ++ [⟨s.upd.nextKey, c.uid, c.seq, c.k, true, c.ver.toNat, natBytes 8 c.word.toNat, true, false,
            false, none⟩] } } s.upd.nextKey)) ∧
      (commitReady s = some c → c ∈ s.upd.commits ∧ c.issued = false ∧
        (∃ i, findInst s c.uid = some i ∧ i.st = .draining ∧ i.ending = none) ∧
        ∀ x ∈ s.upd.writes, x.uid = c.uid → x.seq ≠ c.seq))

/-- DSTR on a slot opens a stream with its image after the patches, in place of a complete one of that slot; no other
stream, register or byte changes; while the slot's stream is not complete it waits in its queue (R244 to R246, R252,
R213). The four patches replace 64-bit fields of the image by scalar registers, in the order PT0 to PT3 (R245). Unit
number u of a dense stream, counted through batches, groups, tiles, rows and steps of 64 bytes, stands at the global
address of the loops of R247, and its 64 bytes in place at the position 64 u. Under XP, element e of row r of the
tile that begins at position p0 lands at p0 + e TR ESZ + r ESZ, and the granule that holds it is written with the
units that hold its elements (R248). Unit u of gather row i stands at GBASE + idx GSTR and its place in the row; of
an index at or above ILIM it has no address (R249). A stream that opens when its scene drains and reads from global
memory requests nothing (R259). Of these the model's choices: log 4, what an instruction that waits holds back. -/
def Obligations.StreamOpen : Prop :=
  (∀ (s : State) (r : Run) (i : Inst) (slot : BitVec 6) (pts : Patches) (image : BitVec 512),
      let img := patched s pts image
      let d := descOf img
      let c := runCtx s i
      let sets := ((sceneOf s i).map (·.sets)).getD []
      let granted := ∀ x ∈ imageNeeds img, ctxGranted c x = true
      let fits := (∃ n, ctxSize c d.h = some n ∧ d.boff + descLen d ≤ n) ∧
        (d.kind = 2 → ∃ n, ctxSize c d.ih = some n ∧ d.ioff + 4 * d.rows ≤ n)
      let inside := 0 ≤ (descExtent d).1 ∧ (descExtent d).2 ≤ 2 ^ 57 ∧ ∃ x ∈ sets, (x.kind = 2 ∨ x.kind = if d.kind = 1 then 1 else 0) ∧
        (x.base : Int) ≤ (descExtent d).1 ∧ (descExtent d).2 ≤ (x.base : Int) + x.bytes
      let stops := fun e : Code => exec (.dstr slot pts image) s = .next (raiseFault s r ⟨s.seq.nextUid, e, r.pc, none⟩)
      Issuable s r i .d 5 (.dstr slot pts image) (patchRegs pts) →
      (∀ st, slotStream s i.uid slot = some st → streamComplete s st = true) →
        (imageOk img = false → stops eBadval) ∧
        (imageOk img = true → ¬ granted → stops eFeature) ∧
        (imageOk img = true → granted → imageAligned img = false → stops eAlign) ∧
        (imageOk img = true → granted → imageAligned img = true → ¬ fits → stops eBufsize) ∧
        (imageOk img = true → granted → imageAligned img = true → fits → ¬ inside → stops eOutset) ∧
        (openCheck s i img = none ↔ imageOk img = true ∧ granted ∧ imageAligned img = true ∧ fits ∧ inside)) ∧
  (∀ (s : State) (r : Run) (i : Inst) (slot : BitVec 6) (pts : Patches) (image : BitVec 512),
      let img := patched s pts image
      let st : Stream :=
        { id := s.strm.nextId, uid := i.uid, slot := slot.toNat, phys := i.slots.getD slot.toNat 0
          seq := s.seq.nextUid, image := img, next := 0, refetch := [], idxs := [], stage := [], wrote := [], late := []
          cues := [], marks := [], susp := none, walking := false
          stopped := i.st == .draining && bvGet img 0 2 != 1, status := none }
      Issuable s r i .d 5 (.dstr slot pts image) (patchRegs pts) →
      ((∃ st, slotStream s i.uid slot = some st ∧ streamComplete s st = false) →
        exec (.dstr slot pts image) s = .next (holdBack s (fetchedAt s r .d 5 (.dstr slot pts image) (patchRegs pts)))) ∧
      ((∀ st, slotStream s i.uid slot = some st → streamComplete s st = true) → openCheck s i img = none →
        exec (.dstr slot pts image) s = .next (after { s with
          seq := { s.seq with nextUid := s.seq.nextUid + 1 }
          strm := { s.strm with
            nextId := s.strm.nextId + 1
            streams := (s.strm.streams.filter fun x => !(x.uid == i.uid && x.slot == slot.toNat)) ++ [st] } } r 5))) ∧
  (∀ (s : State) (p : Patches) (image : BitVec 512) (j : Fin 8),
      let field := fun x : BitVec 512 => bvGet x (64 * j.val) 64
      let on := fun q : Patch => q.en = true ∧ q.idx.toNat = j.val
      (on p.pt3 → field (patched s p image) = (getS s p.pt3.reg).toNat) ∧
      (¬ on p.pt3 → on p.pt2 → field (patched s p image) = (getS s p.pt2.reg).toNat) ∧
      (¬ on p.pt3 → ¬ on p.pt2 → on p.pt1 → field (patched s p image) = (getS s p.pt1.reg).toNat) ∧
      (¬ on p.pt3 → ¬ on p.pt2 → ¬ on p.pt1 → on p.pt0 → field (patched s p image) = (getS s p.pt0.reg).toNat) ∧
      (¬ on p.pt3 → ¬ on p.pt2 → ¬ on p.pt1 → ¬ on p.pt0 → field (patched s p image) = field image)) ∧
  (∀ (s : State) (st : Stream) (b g t k x : Nat),
      let d := descOf st.image
      let ntr := d.rows / d.tr
      let ntc := d.cols / d.tc
      let split := fun (t a c : Nat) (ord : Bool) => if ord then (t % a, t / a) else (t / c, t % c)
      let gij := split g (ntr / d.sr) (ntc / d.sc) d.gord
      let tij := split t d.sr d.sc d.tord
      let i0 := (gij.1 * d.sr + tij.1) * d.tr
      let j0 := (gij.2 * d.sc + tij.2) * d.tc
      let tiles := ntr / d.sr * (ntc / d.sc) * (d.sr * d.sc)
      let u := (b * tiles + g * (d.sr * d.sc) + t) * (d.tr * d.tc / 64) + (k * d.tc + x) / 64
      d.kind ≠ 2 → imageOk st.image = true → imageAligned st.image = true → b < d.nb →
      g < ntr / d.sr * (ntc / d.sc) → t < d.sr * d.sc → k < d.tr → x < d.tc → x % 64 = 0 →
        unitAddr s st u = some (d.gbase + b * d.bstr + ((i0 + k : Nat) : Int) * d.gstr + j0 + x) ∧ u < unitCount d ∧
        (d.xp = false → d.cvt = false → unitPieces d u = [(64 * u, 64)])) ∧
  (∀ (img : BitVec 512) (stage : List (Nat × Granule)) (tile r e b : Nat),
      let d := descOf img
      let esz := 2 ^ d.esz
      let p0 := tile * (d.tr * d.tc)
      let src := p0 + r * d.tc + e * esz + b
      let land := p0 + e * (d.tr * esz) + r * esz + b
      d.xp = true → imageOk img = true → imageAligned img = true → p0 < lenG d →
      r < d.tr → e < d.tc / esz → b < esz →
        (tileGranule d stage (land / 64))[land % 64]? =
          some (BitVec.ofNat 8 (byteField ((kGet stage (src / 64)).getD 0) (src % 64) 1)) ∧
        src / 64 ∈ granUnits d (land / 64)) ∧
  ∀ (s : State) (st : Stream) (i x : Nat),
    let d := descOf st.image
    let idx := match st.idxs[i]? with
      | some v => v
      | none => leNat (bufRead s st.uid d.ih (d.ioff + 4 * i) 4)
    d.kind = 2 → imageOk st.image = true → imageAligned st.image = true → i < d.rows → x < d.cols → x % 64 = 0 →
      unitAddr s st (i * (d.cols / 64) + x / 64) =
        if idx < d.ilim then some (d.gbase + (idx : Int) * d.gstr + x) else none

/-- CUE puts a position on an open read stream; with four pending it waits in its queue; without an open read stream
on its slot, or at or beyond its length, it has no further effect. WAITQ on a complete stream or on none is done;
otherwise it waits in its queue, and is done once the stream is complete (R236, R237, R260). While it waits, nothing
of queue D that follows issues, nor of M and V by their bits, and by S's bit the sequencer fetches nothing (R260). A
stream requests no unit at or beyond a pending Cue, under XP none of a tile that reaches it, and later work that
touches such a position is held (R237, R255, R316). CUE_SATISFIED: the oldest Cue of the stream goes once all earlier
work of its run is complete. G, the units that had been requested at or beyond P, that an ACQ before the CUE covers
and that were requested before this ACQ was complete, is discarded and requested again ahead of any other unit
(R316). Of these the model's choices: log 3, an event whose precondition does not hold changes nothing; log 4, what
an instruction that waits holds back. -/
def Obligations.CuesAndWaits : Prop :=
  (∀ (s : State) (r : Run) (i : Inst) (slot : BitVec 6) (pr : Bool) (p : BitVec 25) (hold : BitVec 3),
      let pos := if pr then (getS s (p.truncate 5)).toNat / 64 * 64 else p.toNat
      let cue := fetchedAt s r .d 1 (.cue slot pr p) (if pr then [p.truncate 5] else [])
      let waitq := fetchedAt s r .d 1 (.waitq slot hold) []
      (Issuable s r i .d 1 (.cue slot pr p) (if pr then [p.truncate 5] else []) →
        (slotStream s i.uid slot = none → exec (.cue slot pr p) s = .next (after s r 1)) ∧
        ∀ st, slotStream s i.uid slot = some st →
          (descReads (descOf st.image) = false ∨ descLen (descOf st.image) ≤ pos →
            exec (.cue slot pr p) s = .next (after s r 1)) ∧
          (descReads (descOf st.image) = true → pos < descLen (descOf st.image) →
            (4 ≤ st.cues.length → exec (.cue slot pr p) s = .next (holdBack s cue)) ∧
            (st.cues.length < 4 → exec (.cue slot pr p) s = .next (after
              (setStream { s with seq := { s.seq with nextUid := s.seq.nextUid + 1 } } st.id fun st =>
                { st with cues := st.cues ++ [⟨pos, s.seq.nextUid⟩] }) r 1)))) ∧
      (Issuable s r i .d 1 (.waitq slot hold) [] →
        (slotStream s i.uid slot = none → exec (.waitq slot hold) s = .next (after s r 1)) ∧
        ∀ st, slotStream s i.uid slot = some st →
          (streamComplete s st = true → exec (.waitq slot hold) s = .next (after s r 1)) ∧
          (streamComplete s st = false → exec (.waitq slot hold) s = .next (holdBack s waitq)))) ∧
  (∀ (s : State) (r : Run) (i : Inst) (slot : BitVec 6) (hold : BitVec 3) (w : Queued),
      s.seq.run = some r → findInst s r.uid = some i → w ∈ s.seq.queue → w.c = .waitq slot hold →
      (∀ e : Queued, w.seq < e.seq → (e.q = .d ∨ e.q = .m ∧ hold.getLsbD 0 = true ∨ e.q = .v ∧ hold.getLsbD 1 = true) →
        issueReady s e = false) ∧
      (∀ q words c regs body, hold.getLsbD 2 = true → s.seq.issuing = none → issue s q words c regs body = s) ∧
      (s.seq.issuing = some w → w.uid = r.uid → issueReady s w = true →
        let done := ∀ st, slotStream s i.uid slot = some st → streamComplete s st = true
        (done → exec (.waitq slot hold) s = .next { s with seq := { s.seq with
          issuing := none, queue := s.seq.queue.filter fun x => x.seq != w.seq } }) ∧
        (¬ done → exec (.waitq slot hold) s = .next { s with seq := { s.seq with issuing := none } }))) ∧
  (∀ (s : State) (st : Stream) (c : Cue) (u g bound : Nat), c ∈ st.cues →
      let d := descOf st.image
      (nextUnit st = some u → d.cvt = false →
        c.p < (if d.xp then (64 * u / (d.tr * d.tc) + 1) * (d.tr * d.tc) else 64 * (u + 1)) → readRequest s st = s) ∧
      (descReads d = true → st.stopped = false → c.seq < bound → c.p < 64 * (g + 1) → granBusy s st bound g = true)) ∧
  (∀ (s : State) (st : Stream) (c : Cue) (u : Nat), u ∈ cueUnits s st c ↔
      u < st.next ∧ u ∉ st.refetch ∧ unitInSorter s st.id u = false ∧
      (∃ p ∈ unitPieces (descOf st.image) u, c.p < p.1 + p.2) ∧
      ∃ a m, unitAddr s st u = some a ∧ m ∈ st.marks ∧ m.seq < c.seq ∧ u < m.next ∧ u ∉ m.gone ∧
        (m.lo : Int) < a + 64 ∧ a < (m.hi : Int)) ∧
  ∀ (s : State) (slot : BitVec 6),
    ((∀ st ∈ s.strm.streams, st.phys = slot.toNat → st.cues = []) → exec (.cueSatisfied slot) s = .next s) ∧
    ∀ (st : Stream) (c : Cue) (rest : List Cue),
      s.strm.streams.find? (fun st => st.phys == slot.toNat && !st.cues.isEmpty) = some st → st.cues = c :: rest →
        (workDone s st.uid c.seq (some st.id) = false → exec (.cueSatisfied slot) s = .next s) ∧
        (workDone s st.uid c.seq (some st.id) = true →
          let g := cueUnits s st c
          ∃ t, exec (.cueSatisfied slot) s = .next t ∧ t.seq = s.seq ∧ t.vec = s.vec ∧ t.firn = s.firn ∧
            t.tiles = s.tiles ∧ (∀ a, padGet t.pad a = padGet s.pad a) ∧
            t.strm.streams.length = s.strm.streams.length ∧
            (∀ (n : Nat) (x y : Stream), t.strm.streams[n]? = some x → s.strm.streams[n]? = some y →
              (y.id ≠ st.id → x = y) ∧
              (y.id = st.id → x.cues = y.cues.drop 1 ∧ x.refetch = y.refetch ++ g ∧ x.next = y.next ∧
                x.image = y.image ∧ x.stage = y.stage.filter fun z => !g.contains z.1)) ∧
            t.strm.reqs = s.strm.reqs.map fun q =>
              match q.owner with
              | .stream j starts n skip => if j = st.id then { q with owner := .stream j starts n (skip ++ g) } else q
              | _ => q)

/-- STREAM_READ_REQUEST and STREAM_WRITE_REQUEST: the open stream of the slot, not stopped, suspended or walking,
issues its next request: up to four units of one 256-byte block, READ or WRITE with the owner's tenant ID, its bytes
in the lanes of the address and its beats in ascending windows of the bus (R253 to R256; 17 R423, R424, Table 17-4).
A gather row whose index is at or above ILIM is delivered as zero bytes without a request, and STRM_GIDXSKIP counts
it (R249). An address that the TLB holds is translated by it; any other walks from the root, and faults with level 4
while XLT_ROOT is off; a fault suspends the stream, with its record and notice, and the stream issues nothing more
(R265, R266, R268). SORTER_ISSUE issues the sorter's window in the order of R261: the requests of the oldest one's
page key first, in ascending bank key, equal requests of one stream merged. Of these the model's choices: log 3, an
event whose precondition does not hold changes nothing; log 20, numbers that the cluster chooses; log 29, requests of
up to four units; log 41, translation details. -/
def Obligations.StreamRequests : Prop :=
  ((∀ (s : State) (slot : BitVec 6),
      (readyStream s slot true = none → exec (.streamReadRequest slot) s = .next s) ∧
      (readyStream s slot false = none → exec (.streamWriteRequest slot) s = .next s) ∧
      ∀ st, (readyStream s slot true = some st → exec (.streamReadRequest slot) s = .next (readRequest s st)) ∧
        (readyStream s slot false = some st → exec (.streamWriteRequest slot) s = .next (writeRequest s st)) ∧
        (∀ reads, readyStream s slot reads = some st → st ∈ s.strm.streams ∧ st.phys = slot.toNat ∧ st.stopped = false ∧
          st.walking = false ∧ st.susp = none ∧ descReads (descOf st.image) = reads)) ∧
    (∀ (s : State) (st : Stream) (u : Nat) (a : Int) (pa t : Nat),
      let d := descOf st.image
      let n := runLen s st u a 3
      nextUnit st = some u → cueHolds st u = false → d.kind ≠ 2 → d.sort = false → unitAddr s st u = some a →
      xlLookup s a.toNat false = .hit pa → tagOk s st = true →
      lowestFree (s.strm.reqs.map (·.tag) ++ s.strm.landed.map (·.req.tag) ++ s.strm.orphans) 0 4096 = some t →
        1 ≤ n ∧ n ≤ 4 ∧ (a + 64 * (n - 1 : Nat)) / 256 = a / 256 ∧
        readRequest s st = setStream (perfAdd { s with strm := { s.strm with reqs := s.strm.reqs ++
          [⟨t, 0, BitVec.ofNat 52 pa, BitVec.ofNat 2 (n - 1), 0, false, s.ctl.owner, 0, 0, 0, 0, [], some st.uid,
            .stream st.id [u] n []⟩] } } 0x0301 n) st.id fun st => takeUnits st u n) ∧
    (∀ (s : State) (st : Stream) (u pa t : Nat),
      let d := descOf st.image
      let a := denseAddr d u
      let n := runLen s st u a 3
      let bs := (List.range n).flatMap fun k => (writeUnit s st (u + k)).1
      Clean s → nextUnit st = some u → pa % 64 = 0 → (findBuf s st.uid d.h).isSome = true →
      rngsBusy s st.seq (rGlob (descExtent d).1 (descExtent d).2 true :: unitsRngs s st u n false) = false →
      xlLookup s a.toNat true = .hit pa → tagOk s st = true →
      lowestFree (s.strm.reqs.map (·.tag) ++ s.strm.landed.map (·.req.tag) ++ s.strm.orphans) 0 4096 = some t →
        ∃ v q, writeRequest s st = setStream v st.id (fun st => takeUnits st u n) ∧ v.strm.reqs = s.strm.reqs ++ [q] ∧
          q = ⟨t, 2, BitVec.ofNat 52 pa, BitVec.ofNat 2 (n - 1), 0, false, s.ctl.owner, 0, laneMask pa (64 * n),
            laneData pa bs, 0, q.beats, some st.uid, .stream st.id [u] n []⟩ ∧ bs.length = 64 * n ∧
          (d.cvt = false → bs = bufRead s st.uid d.h (d.boff + 64 * u) (64 * n)) ∧
          (∀ x, padGet v.pad x = padGet s.pad x) ∧ v.seq = s.seq ∧ v.vec.v = s.vec.v) ∧
    ∀ (s : State) (st : Stream) (u : Nat) (b : Buf),
      let d := descOf st.image
      let row := u / rowUnits d
      let rs := unitsRngs s st (row * rowUnits d) (rowUnits d) true
      Clean s → nextUnit st = some u → st.refetch = [] → cueHolds st u = false → d.kind = 2 → unitAddr s st u = none →
      rngsBusy s st.seq (indexRngs s st u) = false → findBuf s st.uid d.h = some b →
        (rngsBusy s st.seq rs = true → readRequest s st = s) ∧
        (rngsBusy s st.seq rs = false →
          let t := readRequest s st
          t.strm.reqs = s.strm.reqs ∧ t.strm.sorter = s.strm.sorter ∧ t.strm.gidxSkip = s.strm.gidxSkip + 1 ∧
          (∀ x ∈ t.strm.streams, x.id = st.id → x.next = (row + 1) * rowUnits d) ∧
          ∀ a, padGet t.pad a =
            if ∃ k < d.cols, bufPhys b (d.boff + row * d.cols + k) = a then 0 else padGet s.pad a)) ∧
  ((∀ (s : State) (tag pa : Nat) (op : BitVec 4) (bs : List Byte) (oc : BitVec 2) (uid : Option Nat) (owner : Owner),
      let q := writeReqOf s tag op pa bs oc uid owner
      let w := if s.boot.ties.fpGen then 256 else 128
      0 < bs.length → pa % 256 + bs.length ≤ 256 → pa < 2 ^ 52 →
        q.addr.toNat = pa / 64 * 64 ∧ q.len.toNat = (pa % 64 + bs.length - 1) / 64 ∧
        (∀ j, q.mask.getLsbD j = decide (pa % 256 ≤ j ∧ j < pa % 256 + bs.length)) ∧
        (∀ k (h : k < bs.length), byteField q.data (pa % 256 + k) 1 = bs[k].toNat) ∧
        (∀ j < 256, (j < pa % 256 ∨ pa % 256 + bs.length ≤ j) → byteField q.data j 1 = 0) ∧
        (∀ x, (∃ y ∈ q.beats, y.window = x) ↔ q.addr.toNat % 256 / w ≤ x ∧
          x ≤ (q.addr.toNat % 256 + 64 * q.len.toNat + 63) / w) ∧
        q.beats.Pairwise (fun x y => x.window < y.window ∧ x.last = false) ∧
        (∃ y, q.beats.getLast? = some y ∧ y.last = true) ∧
        ∀ y ∈ q.beats, ∀ j < w, y.mask.getLsbD j = q.mask.getLsbD (w * y.window + j) ∧
          byteField y.data j 1 = byteField q.data (w * y.window + j) 1) ∧
    (∀ (s : State) (va : Nat) (wr : Bool),
      (∀ e, s.strm.tlb.find? (fun e => decide (e.va ≤ va ∧ va < e.va + 2 ^ e.bits)) = some e →
        xlLookup s va wr = if wr = true ∧ e.w = false then .fault (if e.bits = 30 then 2 else if e.bits = 21 then 1 else 0) 1
          else .hit (e.pa + (va - e.va))) ∧
      ((∀ e ∈ s.strm.tlb, ¬ (e.va ≤ va ∧ va < e.va + 2 ^ e.bits)) →
        xlLookup s va wr = if s.strm.rootEn then .walk else .fault 4 3)) ∧
    (∀ (s : State) (va t : Nat) (wr : Bool) (k : WalkFor) (uid : Option Nat),
      let root := s.strm.rootAddr.toNat * 4096
      lowestFree (s.strm.reqs.map (·.tag) ++ s.strm.landed.map (·.req.tag) ++ s.strm.orphans) 4160 16 = some t →
        ∃ v, startWalk s va wr k uid = some v ∧
          v.strm.walks = s.strm.walks ++ [⟨s.strm.nextId, va, wr, 4, root, k, uid, false⟩] ∧
          v.strm.reqs = s.strm.reqs ++ [⟨t, 1, BitVec.ofNat 52 (root + 8 * (va / 2 ^ 48 % 512)), 0, 0, false, s.ctl.owner,
            3, 0, 0, 0, [], uid, .walk s.strm.nextId⟩]) ∧
    ∀ (s : State) (st : Stream) (va lv rs : Nat),
      let t := suspendStream s st va lv rs
      let n := (lowestFree (heldRecords s) 0 128).getD 0
      let wr := bvGet st.image 0 2 == 1
      t.strm.fault = ⟨true, BitVec.ofNat 57 va, BitVec.ofNat 6 st.phys, wr, BitVec.ofNat 3 lv, BitVec.ofNat 2 rs⟩ ∧
      t.strm.reqs = s.strm.reqs ∧ t.strm.streams = s.strm.streams.map (fun x =>
        if x.id = st.id then { x with susp := some ⟨va, wr, lv, rs, n⟩, walking := false } else x) ∧
      ∀ i, findInst s st.uid = some i → t.ctl.mgmt = mbxPost s.ctl.mgmt (noticeWord 2 0 i.scene (instPos s st.uid) i.handle 0 0
        (bit wr) n 0 0 0 (BitVec.ofNat 6 st.phys).toNat va (lv + rs * 16) 0)) ∧
  ((∀ s : State, exec .sorterIssue s = .next (issueSorted s s.strm.sorter.length
      (sortWindow (fun e => sortKey s.strm.pgmask e.pa) (fun e => sortKey s.strm.bkmask e.pa) s.strm.sorter.length
        s.strm.sorter))) ∧
    (∀ (page bank : SortEntry → Nat) (l : List SortEntry),
      let o := sortWindow page bank l.length l
      o.Perm l ∧ (∀ e rest, l = e :: rest → ∃ x, o.head? = some x ∧ page x = page e) ∧
      o.Pairwise fun x y => page x = page y → bank x ≤ bank y) ∧
    ∀ (s : State) (n t : Nat) (e : SortEntry) (rest : List SortEntry) (st : Stream),
      let same := fun x : SortEntry => x.id = e.id ∧ x.pa = e.pa ∧ x.n = e.n ∧ sortHeld st x = false
      s.strm.streams.find? (fun st => st.id == e.id) = some st →
        (sortHeld st e = true → issueSorted s (n + 1) (e :: rest) = issueSorted s n rest) ∧
        (sortHeld st e = false → tagOk s st = true →
          lowestFree (s.strm.reqs.map (·.tag) ++ s.strm.landed.map (·.req.tag) ++ s.strm.orphans) 0 4096 = some t →
          let group := e :: rest.filter (same ·)
          ∃ v, issueSorted s (n + 1) (e :: rest) = issueSorted v n (rest.filter fun x => ¬ same x) ∧
            v.strm.reqs = s.strm.reqs ++ [⟨t, 0, BitVec.ofNat 52 e.pa, BitVec.ofNat 2 (e.n - 1), 0, false, s.ctl.owner, 0,
              0, 0, 0, [], some st.uid, .stream st.id (group.map (·.start)) e.n []⟩] ∧
            v.strm.sorter = s.strm.sorter.filter (fun x => ¬ same x) ∧ v.strm.streams = s.strm.streams))

/-- ASIDE whose checks pass, and ACQ, REL, ATOM and CLAIM on aligned addresses of 57 bits, enter the Aside path with
their operands, when an Aside tag is free and nothing earlier holds them, and otherwise wait in their queue (R262,
R311, R319, R213). A release, and an ATOM with RLS, wait on the Aside path for the earlier writes of their run, and
hold no later instruction (R312, R313). An Aside read waits while its range meets the named range of a pending ACQ of
its run (R315). A CLAIM that the replay's log does not answer waits while the leases held and the CLAIMs in progress
are 64 (R322, R325). A replay gives a logged instruction its logged result without reaching the home: SD takes the
result and nothing is sent; where the log does not match, what is left of it is discarded and the instruction is
performed (R325). Of these the model's choices: log 4, what an instruction that waits holds back; log 20, numbers
that the cluster chooses. -/
def Obligations.AsidePath : Prop :=
  (∀ (s : State) (r : Run) (i : Inst),
      let stops := fun (c : Instr) (regs : List (BitVec 5)) (e : Code) => Issuable s r i .d 1 c regs →
        exec c s = .next (raiseFault s r ⟨s.seq.nextUid, e, r.pc, none⟩)
      (∀ w : AcqWord,
        let fa := (getS s w.fa).toNat
        let rb := (getS s w.rb).toNat
        let rn := (getS s w.rn).toNat
        let far := 2 ^ 57 ≤ fa ∨ rn ≠ 0 ∧ 2 ^ 57 < rb + rn
        (far → stops (.acq w) [w.fa, w.fv, w.rb, w.rn, w.sd] eBadval) ∧
        (¬ far → (fa % 8 ≠ 0 ∨ rn ≠ 0 ∧ (rb % 64 ≠ 0 ∨ rn % 64 ≠ 0)) →
          stops (.acq w) [w.fa, w.fv, w.rb, w.rn, w.sd] eAlign)) ∧
      (∀ w : RelWord,
        let fa := (getS s w.fa).toNat
        let regs := w.fa :: w.fv :: (if w.add then [w.sd] else [])
        (2 ^ 57 ≤ fa → stops (.rel w) regs eBadval) ∧ (fa < 2 ^ 57 → fa % 8 ≠ 0 → stops (.rel w) regs eAlign)) ∧
      (∀ w : AtomWord,
        let a := (getS s w.sa).toNat
        let regs := [w.sa, w.sv, w.sd] ++ (if w.aop = 9 then [w.sc] else [])
        (2 ^ 57 ≤ a → stops (.atom w) regs eBadval) ∧
        (a < 2 ^ 57 → a % (if w.sz then 8 else 4) ≠ 0 → stops (.atom w) regs eAlign)) ∧
      (∀ w : ClaimWord,
        let a := (getS s w.sa).toNat
        let far := 2 ^ 57 ≤ a ∨ (getS s w.sn).toNat % 2 ^ 16 = 0
        (far → stops (.claim w) [w.sa, w.se, w.sn, w.sd] eBadval) ∧
        (¬ far → a % 16 ≠ 0 → stops (.claim w) [w.sa, w.se, w.sn, w.sd] eAlign)) ∧
      ∀ (pts : Patches) (image : BitVec 128),
        let img := patched s pts image
        let gva := (asideFields img).1
        let len := (asideFields img).2.2.1
        let boff := (asideFields img).2.2.2.2
        let sets := ((sceneOf s i).map (·.sets)).getD []
        let granted := s.feat.grant1.getLsbD 0 = true
        let aligned := gva % 8 = 0 ∧ boff % 8 = 0 ∧ gva / 256 = (gva + len - 1) / 256
        let fits := ∃ n, ctxSize (runCtx s i) (asideFields img).2.2.2.1 = some n ∧ boff + len ≤ n
        let inside := gva + len ≤ 2 ^ 57 ∧ ∃ x ∈ sets, (x.kind = 2 ∨ x.kind = if (asideFields img).2.1 then 1 else 0) ∧
          x.base ≤ gva ∧ gva + len ≤ x.base + x.bytes
        let fails := fun e : Code => exec (.aside pts image) s = .next (raiseFault s r ⟨s.seq.nextUid, e, r.pc, none⟩)
        Issuable s r i .d 2 (.aside pts image) (patchRegs pts) →
          (asideOk img = false → fails eBadval) ∧ (asideOk img = true → ¬ granted → fails eFeature) ∧
          (asideOk img = true → granted → ¬ aligned → fails eAlign) ∧
          (asideOk img = true → granted → aligned → ¬ fits → fails eBufsize) ∧
          (asideOk img = true → granted → aligned → fits → ¬ inside → fails eOutset) ∧
          (asideCheck s i img = none ↔ asideOk img = true ∧ granted ∧ aligned ∧ fits ∧ inside)) ∧
  ((∀ (s : State) (r : Run) (i : Inst) (pts : Patches) (image : BitVec 128),
      let img := patched s pts image
      let gva := (asideFields img).1
      let dir := (asideFields img).2.1
      let len := (asideFields img).2.2.1
      let h := (asideFields img).2.2.2.1
      let boff := (asideFields img).2.2.2.2
      let rs := [rBuf s i.uid h boff ((boff + len : Nat) : Int) (!dir), rGlob gva ((gva + len : Nat) : Int) dir]
      let e := fetchedAt s r .d 2 (.aside pts image) (patchRegs pts)
      let run := exec (.aside pts image) s
      Issuable s r i .d 2 (.aside pts image) (patchRegs pts) → asideCheck s i img = none →
      (asideTag s = none → run = .next (holdBack s e)) ∧
      ∀ t, asideTag s = some t →
        (rngsBusy s s.seq.nextUid rs = true → run = .next (markLate (holdBack s e) s.seq.nextUid rs)) ∧
        (rngsBusy s s.seq.nextUid rs = false →
          (dir = false → acqMeets s i.uid gva (gva + len) = true → run = .next (holdBack s e)) ∧
          ((dir = false → acqMeets s i.uid gva (gva + len) = false) → run = .next (after
            (asideStart { s with seq := { s.seq with nextUid := s.seq.nextUid + 1 } } t
              ⟨t, i.uid, s.seq.nextUid, if dir then .write else .read, gva, h, boff, len, 0, 0, none, none, false, false,
               false, false, none⟩) r 2)))) ∧
    ∀ (s : State) (r : Run) (i : Inst),
      (∀ w : AcqWord,
        let rb := (getS s w.rb).toNat
        let rn := (getS s w.rn).toNat
        let regs := [w.fa, w.fv, w.rb, w.rn, w.sd]
        Issuable s r i .d 1 (.acq w) regs → (getS s w.fa).toNat < 2 ^ 57 → (getS s w.fa).toNat % 8 = 0 →
        (rn = 0 ∨ rb % 64 = 0 ∧ rn % 64 = 0 ∧ rb + rn ≤ 2 ^ 57) →
          (asideTag s = none → exec (.acq w) s = .next (holdBack s (fetchedAt s r .d 1 (.acq w) regs))) ∧
          ∀ t, asideTag s = some t → exec (.acq w) s = .next (after (syncStart s i t (.acq w.cond rb rn)
            (getS s w.fa).toNat (getS s w.fv) 0 (some w.sd) none false) r 1)) ∧
      (∀ w : RelWord,
        let regs := w.fa :: w.fv :: (if w.add then [w.sd] else [])
        Issuable s r i .d 1 (.rel w) regs → (getS s w.fa).toNat < 2 ^ 57 → (getS s w.fa).toNat % 8 = 0 →
          (asideTag s = none → exec (.rel w) s = .next (holdBack s (fetchedAt s r .d 1 (.rel w) regs))) ∧
          ∀ t, asideTag s = some t → exec (.rel w) s = .next (after
            (if w.add then loggedStart s i t (.rel true) (getS s w.fa).toNat (getS s w.fv) 0 w.sd true
             else syncStart s i t (.rel false) (getS s w.fa).toNat (getS s w.fv) 0 none none true) r 1)) ∧
      (∀ w : AtomWord,
        let cut := fun v : DWord => if w.sz then v else BitVec.ofNat 64 (v.toNat % 2 ^ 32)
        let regs := [w.sa, w.sv, w.sd] ++ (if w.aop = 9 then [w.sc] else [])
        Issuable s r i .d 1 (.atom w) regs → (getS s w.sa).toNat < 2 ^ 57 →
        (getS s w.sa).toNat % (if w.sz then 8 else 4) = 0 →
          (asideTag s = none → exec (.atom w) s = .next (holdBack s (fetchedAt s r .d 1 (.atom w) regs))) ∧
          ∀ t, asideTag s = some t → exec (.atom w) s = .next (after
            (loggedStart s i t (.atom w.aop w.sz) (getS s w.sa).toNat (cut (getS s w.sv))
              (if w.aop = 9 then cut (getS s w.sc) else 0) w.sd w.rls) r 1)) ∧
      ∀ w : ClaimWord,
        let half := fun v : DWord => BitVec.ofNat 64 (v.toNat % 2 ^ 16)
        let va := (getS s w.sa).toNat
        let miss := (alogMatch i va (alogOp (.claim w.lease)) (half (getS s w.se)) (half (getS s w.sn))).isNone = true
        let full := miss ∧ 64 ≤ leaseLoad (alogMiss s i)
        let regs := [w.sa, w.se, w.sn, w.sd]
        let e := fetchedAt s r .d 1 (.claim w) regs
        Issuable s r i .d 1 (.claim w) regs → va < 2 ^ 57 → va % 16 = 0 → (getS s w.sn).toNat % 2 ^ 16 ≠ 0 →
          (asideTag s = none ∨ full → exec (.claim w) s = .next (holdBack s e)) ∧
          ∀ t, asideTag s = some t → ¬ full → exec (.claim w) s = .next (after
            (loggedStart s i t (.claim w.lease) va (half (getS s w.se)) (half (getS s w.sn)) w.sd false) r 1)) ∧
  (∀ (s : State) (t : Nat) (a : Aside),
      let u := perfAdd { s with strm := { s.strm with asides := s.strm.asides ++ [a] } } 0x030A 1
      asideStart s t a = if a.rls = true ∧ writesDone s a.uid a.seq = false then u else asideSend u t) ∧
  ∀ (s : State) (i : Inst) (t : Nat) (k : AsideKind) (va : Nat) (fv cv : DWord) (sd : BitVec 5) (rls : Bool),
    (∀ e, i.alogReplay = true → i.alog[i.alogPos]? = some e → e.addr = va → e.op = alogOp k → e.opsA = fv → e.opsB = cv →
      loggedStart s i t k va fv cv sd rls
        = setS (setInst s i.uid fun i => { i with alogPos := i.alogPos + 1 }) sd e.res) ∧
    ((i.alogReplay = false ∨ i.alog[i.alogPos]? = none ∨
        ∃ e, i.alog[i.alogPos]? = some e ∧ (e.addr ≠ va ∨ e.op ≠ alogOp k ∨ e.opsA ≠ fv ∨ e.opsB ≠ cv)) →
      loggedStart s i t k va fv cv sd rls = syncStart (alogMiss s i) i t k va fv cv (some sd) (some i.alogPos) rls) ∧
    (findInst s i.uid = some i → i.alogReplay = true →
      (findInst (alogMiss s i) i.uid).map (fun j => (j.alog, j.alogReplay)) = some (i.alog.take i.alogPos, false)) ∧
    ∀ e rest, i.alogReplay = true → i.alog.drop i.alogPos = e :: rest → ∀ l ∈ (alogMiss s i).strm.leases,
      l ∈ s.strm.leases ∧ ∀ x ∈ e :: rest, x.lease ≠ some l.key

/-- What an Aside entry sends once its address is translated: a read of whole lines unless the cache holds them all,
when it takes their bytes and sends nothing; the bytes of a write, an 8-byte acquire read, an acquire-release atomic,
a CLAIM with its epoch and count, a release write (R262, R263, R311, R314, R317, R320, R321; 17 Table 17-4). A
translation fault suspends it, and it sends nothing (R268). ACQ_POLL: an ACQ that waits, of a run that goes on, reads
again and STRM_ACQPOLL counts it; INSTRUCTION_FILL: a line of the module that the sequencer needs next, and does not
hold and is not being filled, is translated and read, and a translation fault of it is a precise fault (R314, 15
R370). Otherwise nothing happens. Of these the model's choices: log 3, an event whose precondition does not hold
changes nothing; log 20, numbers that the cluster chooses; log 41, translation details; log 42, instruction fills. -/
def Obligations.AsideRequests : Prop :=
  ((∀ (s : State) (a : Aside) (pa : Nat), (s.strm.asides.find? fun x => x.tag == a.tag) = some a → Clean s →
      xlLookup s a.va (asideWrites a.kind) = .hit pa → pa < 2 ^ 52 →
      (a.kind = .read → cachedBytes s pa a.len = none) → (a.kind = .write → (findBuf s a.uid a.bufH).isSome = true) →
        let lines := (a.len + pa % 64 + 63) / 64 - 1
        let words := fun (x y : DWord) => BitVec.ofNat 2048 (x.toNat + y.toNat * 2 ^ 64)
        ∃ q t, asideSend s a.tag = t ∧ t.strm.reqs = s.strm.reqs ++ [q] ∧
          q.tag = 4096 + a.tag ∧ q.tid = s.ctl.owner ∧ q.rs = 0 ∧ q.uid = some a.uid ∧ q.owner = .aside a.tag ∧
          (∀ x ∈ t.strm.asides, x.tag = a.tag → x.issued = true ∧ x.walking = false) ∧
          t.seq = s.seq ∧ t.vec = s.vec ∧ t.tiles = s.tiles ∧ t.firn = s.firn ∧ (∀ x, padGet t.pad x = padGet s.pad x) ∧
          (a.kind = .read → q.op = 0 ∧ q.oc = 0 ∧ q.addr.toNat = pa / 64 * 64 ∧ q.len = BitVec.ofNat 2 lines) ∧
          (a.kind = .write → q.op = 3 ∧ q.oc = 0 ∧ q.addr.toNat = pa / 64 * 64 ∧ q.len = BitVec.ofNat 2 lines ∧
            q.mask = laneMask pa a.len ∧ q.data = laneData pa (bufRead s a.uid a.bufH a.boff a.len)) ∧
          (∀ c rb rn, a.kind = .acq c rb rn → q.op = 1 ∧ q.oc = 1 ∧ q.addr.toNat = pa) ∧
          (∀ aop sz, a.kind = .atom aop sz → q.op = 4 ∧ q.oc = 2 ∧ q.addr.toNat = pa ∧ q.aop = aop ∧ q.sz = sz ∧
            q.data = words a.fv a.cv) ∧
          (a.kind = .rel true → q.op = 4 ∧ q.oc = 2 ∧ q.addr.toNat = pa ∧ q.aop = 0 ∧ q.sz = true ∧ q.data = words a.fv 0) ∧
          (a.kind = .rel false → q.op = 3 ∧ q.oc = 1 ∧ q.addr.toNat = pa / 64 * 64 ∧ q.mask = laneMask pa 8 ∧
            q.data = laneData pa (natBytes 8 a.fv.toNat)) ∧
          ∀ l, a.kind = .claim l → q.op = 5 ∧ q.oc = 2 ∧ q.addr.toNat = pa ∧
            q.data.toNat = a.fv.toNat % 65536 + a.cv.toNat % 65536 * 65536) ∧
    ∀ (s : State) (a : Aside), (s.strm.asides.find? fun x => x.tag == a.tag) = some a →
      (∀ pa bs b, Clean s → a.kind = .read → xlLookup s a.va false = .hit pa → cachedBytes s pa a.len = some bs →
        findBuf s a.uid a.bufH = some b → Buf.wf b → a.boff + a.len ≤ b.size →
          let t := asideSend s a.tag
          t.strm.reqs = s.strm.reqs ∧ (∀ x ∈ t.strm.asides, x.tag ≠ a.tag) ∧ bs.length = a.len ∧
          bufRead t a.uid a.bufH a.boff a.len = bs ∧
          ∀ x, (∀ k < a.len, bufPhys b (a.boff + k) ≠ x) → padGet t.pad x = padGet s.pad x) ∧
      ∀ lv rs, xlLookup s a.va (asideWrites a.kind) = .fault lv rs →
        let t := asideSend s a.tag
        t.strm.reqs = s.strm.reqs ∧ (∀ x, padGet t.pad x = padGet s.pad x) ∧
        ∀ x ∈ t.strm.asides, x.tag = a.tag → x.walking = false ∧
          x.susp = some ⟨a.va, asideWrites a.kind, lv, rs, (lowestFree (heldRecords s) 0 128).getD 0⟩) ∧
  (∀ (s : State) (tag : BitVec 6),
    ((∀ a ∈ s.strm.asides, a.tag = tag.toNat → a.waiting = false ∨ runAlive s a.uid = false) →
      exec (.acqPoll tag) s = .next s) ∧
    ∀ a, (s.strm.asides.find? fun a => a.tag == tag.toNat && a.waiting && runAlive s a.uid) = some a →
      exec (.acqPoll tag) s = .next (asideSend (setAside
        (perfAdd { s with strm := { s.strm with acqPoll := s.strm.acqPoll + 1 } } 0x030A 1)
        a.tag fun a => { a with waiting := false }) a.tag)) ∧
  ∀ (s : State) (line : BitVec 32) (r : Run) (i : Inst) (m : Module) (sc : Scene),
    s.seq.run = some r → findInst s r.uid = some i → s.seq.modl = some m → m.scenes[i.scene]? = some sc →
    let va := m.va + 64 * line.toNat
    let lo := sc.codeOffset + r.pc
    let needed := sc.codeOffset / 64 ≤ line.toNat ∧ 64 * line.toNat < sc.codeOffset + sc.codeBytes ∧
      lo / 64 ≤ line.toNat ∧ line.toNat ≤ (lo + 79) / 64 ∧ r.fetching = true ∧ (∀ l ∈ s.seq.icache, l.1 ≠ va) ∧
      (∀ w ∈ s.strm.walks, w.for_ ≠ .fill va) ∧ ∀ q ∈ s.strm.reqs, q.owner ≠ .fill va
    (¬ needed → exec (.instructionFill line) s = .next s) ∧
    (needed →
      (∀ pa t, xlLookup s va false = .hit pa →
        lowestFree (s.strm.reqs.map (·.tag) ++ s.strm.landed.map (·.req.tag) ++ s.strm.orphans) 4176 16 = some t →
          exec (.instructionFill line) s = .next { s with strm := { s.strm with reqs := s.strm.reqs ++
            [⟨t, 0, BitVec.ofNat 52 pa, 0, 0, false, s.ctl.owner, 0, 0, 0, 0, [], some r.uid, .fill va⟩] } }) ∧
      (∀ u, xlLookup s va false = .walk → startWalk s va false (.fill va) (some r.uid) = some u →
        exec (.instructionFill line) s = .next u) ∧
      ∀ lv rs, xlLookup s va false = .fault lv rs →
        exec (.instructionFill line) s = .next (faultAt (perfAdd s 0x0403 1) r r.pc eXlate))

/-- FABRIC_RESPONSE: discarded when its request was issued before a reset, a check event of Source 17 when it names
no request in flight, otherwise the answer of the request it names: TENANT, then a decode refusal, then an
uncorrectable answer, then the performed access (R458; 17 R425; 16 R402). An access that is not performed ends: its
status is recorded, and the run is abandoned, or ended by a check event of Source 10 when the answer is uncorrectable
(R458, Table 12-8). A read of a stream is written into the image at the positions of its units, unless an earlier
access holds a granule of it: then it waits (R257, R272); a write ends its request. A walk goes on by the entry it
has read, as R265 says; a leaf enters the TLB, where every access to its page finds it (R266). A line of code that is
read is cached; a refused one is a precise fault (15, R370). ATOM and CLAIM write SD, a granted CLAIM enters its
lease, an ACQ whose condition fails waits to poll again while its run goes on (R314, R320 to R322). Of these the
model's choices: log 8, the reads of LOAD and of image copies; log 29, requests of up to four units; log 36,
prefetched granules; log 41, translation details; log 42, instruction fills; log 44, results that come after their
run. -/
def Obligations.FabricAnswers : Prop :=
  ((∀ (s : State) (tag : BitVec 13) (resp rs : BitVec 2) (data : BitVec 2048),
      let run := exec (.fabricResponse tag resp rs data) s
      (tag.toNat ∈ s.strm.orphans →
        run = .next { s with strm := { s.strm with orphans := s.strm.orphans.erase tag.toNat } }) ∧
      (tag.toNat ∉ s.strm.orphans → (∀ q ∈ s.strm.reqs, q.tag ≠ tag.toNat) →
        run = .next (checkEvent s eStrayresp 17 0 tag.toNat 0 none 0)) ∧
      ∀ q, tag.toNat ∉ s.strm.orphans → (s.strm.reqs.find? fun q => q.tag == tag.toNat) = some q →
        let u := { s with strm := { s.strm with reqs := s.strm.reqs.filter fun x => x.tag != tag.toNat } }
        run = .next (afterAnswer (answerReq u q (answerOf resp rs) data))) ∧
    (∀ resp rs : BitVec 2,
      answerOf resp rs = if resp = 2 then .tenant else if resp ≠ 0 then .decerr else if rs ≠ 0 then .uncorr else .ok) ∧
    ∀ (s : State) (uid : Nat) (slot : BitVec 6) (va : Nat),
      let e := fun c => { s with strm := { s.strm with errLast := ⟨true, slot, c⟩ } }
      endAccess s uid slot .tenant va = abandonRun (e eTenant) uid eTenant true ∧
      endAccess s uid slot .decerr va = abandonRun (e eNotarget) uid eNotarget true ∧
      endAccess s uid slot .uncorr va = checkEvent (e eUncorr) eUncorr 10 0 0 va (some uid) 0) ∧
  ((∀ (s : State) (st : Stream) (q : Req) (starts : List Nat) (n : Nat) (skip : List Nat) (data : BitVec 2048),
      let d := descOf st.image
      let units := landUnits starts n skip q.addr.toNat data
      let rngs := granRngs s st (gransUnder d (units.map (·.1))) true
      let t := answerReq s q .ok data
      q.owner = .stream st.id starts n skip → (s.strm.streams.find? fun x => x.id == st.id) = some st →
        (descReads d = false → t = perfAdd s 0x0308 n) ∧
        (descReads d = true → d.xp = false → rngsBusy s st.seq rngs = true →
          t = { s with strm := { s.strm with landed := s.strm.landed ++ [⟨q, data⟩] } }) ∧
        (∀ b, descReads d = true → d.xp = false → rngsBusy s st.seq rngs = false → findBuf s st.uid d.h = some b → Buf.wf b →
          (∀ a ∈ starts, d.boff + 64 * (a + n) ≤ b.size) → starts.Pairwise (fun a a' => a + n ≤ a' ∨ a' + n ≤ a) →
            (∀ a ∈ starts, ∀ k < n, ∀ j < 64, a + k ∉ skip →
              padGet t.pad (bufPhys b (d.boff + 64 * (a + k) + j)) =
                BitVec.ofNat 8 (byteField data ((q.addr.toNat + 64 * k) % 256 + j) 1)) ∧
            (∀ x, (∀ a ∈ starts, ∀ k < n, ∀ j < 64, a + k ∉ skip → bufPhys b (d.boff + 64 * (a + k) + j) ≠ x) →
              padGet t.pad x = padGet s.pad x) ∧
            t.strm.streams = s.strm.streams ∧ t.strm.reqs = s.strm.reqs ∧ t.seq = s.seq ∧ t.vec = s.vec) ∧
        (descReads d = true → d.xp = true →
          ∃ u, t = (gransUnder d (units.map (·.1))).foldl (fun s g => writeTileGranule s st.id g) u ∧
            (∀ x, padGet u.pad x = padGet s.pad x) ∧ u.strm.reqs = s.strm.reqs ∧ ∃ st', u.strm.streams.find? (fun x =>
              x.id == st.id) = some st' ∧ st'.wrote = st.wrote ∧ ∀ v, kGet st'.stage v =
                if v ∈ units.map (·.1) then kGet (units.reverse) v else kGet st.stage v) ∧
        (descReads d = true → landOne s ⟨q, data⟩ = t) ∧
        (∀ ans, ans ≠ .ok → ∃ u, answerReq s q ans data = endAccess u st.uid (BitVec.ofNat 6 st.phys) ans
            ((unitAddr s st (starts.headD 0)).getD 0).toNat ∧ (∀ x, padGet u.pad x = padGet s.pad x) ∧
          u.strm.streams = s.strm.streams.map (fun x => if x.id = st.id then
            { x with stopped := true, cues := [], refetch := [], susp := none, walking := false
                     status := some (answerCode ans) } else x) ∧
          u.strm.sorter = s.strm.sorter.filter fun x => x.id != st.id)) ∧
    ∀ (s : State) (st : Stream) (g : Nat) (b : Buf),
      let d := descOf st.image
      let whole := g ∉ st.wrote ∧ (∀ u ∈ granUnits d g, (kGet st.stage u).isSome = true) ∧
        rngsBusy s st.seq (granRngs s st [g] true) = false
      (s.strm.streams.find? fun x => x.id == st.id) = some st → findBuf s st.uid d.h = some b → Buf.wf b →
      d.boff + 64 * (g + 1) ≤ b.size →
        (¬ whole → writeTileGranule s st.id g = s) ∧
        (whole →
          let t := writeTileGranule s st.id g
          (∀ j < 64, padGet t.pad (bufPhys b (d.boff + 64 * g + j)) = (tileGranule d st.stage g).getD j 0) ∧
          (∀ x, (∀ j < 64, bufPhys b (d.boff + 64 * g + j) ≠ x) → padGet t.pad x = padGet s.pad x) ∧
          (t.strm.streams.find? fun x => x.id == st.id) = some { st with wrote := st.wrote ++ [g] })) ∧
  ((∀ (big : Bool) (lv : Nat) (wr : Bool) (va e : Nat), lv ≤ 4 →
      let addr := e / 2 ^ 8 % 2 ^ 44 * 256
      let size := if lv = 2 then 2 ^ 30 else if lv = 1 then 2 ^ 21 else 2 ^ 16
      let step := walkEntry big lv wr va e
      (e % 2 = 0 → step = .fault 0) ∧
      (e % 2 = 1 → e / 8 % 32 ≠ 0 → step = .fault 2) ∧
      (e % 2 = 1 → e / 8 % 32 = 0 → e / 2 % 2 = 1 → lv > 2 ∨ lv = 2 ∧ big = false ∨ addr % size ≠ 0 → step = .fault 2) ∧
      (e % 2 = 1 → e / 8 % 32 = 0 → e / 2 % 2 = 1 → ¬ (lv > 2 ∨ lv = 2 ∧ big = false ∨ addr % size ≠ 0) →
        (wr = true → e / 4 % 2 = 0 → step = .fault 1) ∧
        (wr = false ∨ e / 4 % 2 = 1 → ∃ bits, size = 2 ^ bits ∧ step = .leaf (addr + va % size) bits (e / 4 % 2 == 1))) ∧
      (e % 2 = 1 → e / 8 % 32 = 0 → e / 2 % 2 = 0 → lv = 0 ∨ lv > 1 ∧ addr % 4096 ≠ 0 → step = .fault 2) ∧
      (e % 2 = 1 → e / 8 % 32 = 0 → e / 2 % 2 = 0 → lv = 1 ∨ lv > 1 ∧ addr % 4096 = 0 → step = .next addr)) ∧
    ∀ (s : State) (q : Req) (w : Walk) (data : BitVec 2048),
      let e := laneGet data q.addr.toNat 8
      let t := answerReq s q .ok data
      let index := fun lv => if lv = 0 then w.va / 2 ^ 16 % 32 else w.va / 2 ^ (21 + 9 * (lv - 1)) % 512
      q.owner = .walk w.n → (s.strm.walks.find? fun x => x.n == w.n) = some w →
        (walkLive s w = true → w.redo = false →
          (∀ table, walkEntry (feat1 s 2) w.level w.write w.va e = .next table → w.level ≤ 4 →
            t.strm.reqs = s.strm.reqs ++ [⟨q.tag, 1, BitVec.ofNat 52 (table + 8 * index (w.level - 1)), 0, 0, false,
              s.ctl.owner, 3, 0, 0, 0, [], w.uid, .walk w.n⟩] ∧
            (t.strm.walks.find? fun x => x.n == w.n) = some { w with level := w.level - 1, table := table }) ∧
          (∀ pa bits wr, walkEntry (feat1 s 2) w.level w.write w.va e = .leaf pa bits wr →
            (∀ va, w.for_ = .fill va → va = w.va) → (∀ va', va' / 2 ^ bits = w.va / 2 ^ bits → xlLookup t va' false = .hit (pa / 2 ^ bits * 2 ^ bits + va' % 2 ^ bits) ∧
              (wr = true → xlLookup t va' true = .hit (pa / 2 ^ bits * 2 ^ bits + va' % 2 ^ bits))) ∧
            ((∀ va, w.for_ ≠ .fill va) → t.strm.reqs = s.strm.reqs ∧ ∀ x ∈ t.strm.walks, x.n ≠ w.n)) ∧
          (∀ rs, walkEntry (feat1 s 2) w.level w.write w.va e = .fault rs →
            t = walkFault (walkClear s w) w w.level rs ∧
            ((∀ va, w.for_ ≠ .fill va) → w.for_ ≠ .load → t.strm.tlb = s.strm.tlb ∧ t.strm.reqs = s.strm.reqs))) ∧
        (walkLive s w = true → w.redo = true → s.strm.rootEn = true →
          t.strm.reqs = s.strm.reqs ++ [⟨q.tag, 1, BitVec.ofNat 52 (s.strm.rootAddr.toNat * 4096 + 8 * index 4), 0, 0, false,
            s.ctl.owner, 3, 0, 0, 0, [], w.uid, .walk w.n⟩] ∧ t.strm.tlb = s.strm.tlb) ∧
        (∀ ans, walkLive s w = true → ans ≠ .ok → answerReq s q ans data = walkEnd (walkClear s w) w ans) ∧
        (∀ ans, walkLive s w = false → w.for_ ≠ .load →
          answerReq s q ans data = if ans = .uncorr then checkEvent (dropWalk s w) eUncorr 10 0 0 w.va w.uid 0 else dropWalk s w)) ∧
  ((∀ (s : State) (q : Req) (va : Nat) (data : BitVec 2048), q.owner = .fill va →
      ((answerReq s q .ok data).seq.icache.find? (fun l => l.1 == va) = some (va, BitVec.ofNat 512 (laneGet data q.addr.toNat 64))) ∧
      answerReq s q .uncorr data = checkEvent s eUncorr 10 0 0 va (some (q.uid.getD 0)) 0 ∧
      ∀ r ans, s.seq.run = some r → q.uid = some r.uid → (ans = .tenant ∨ ans = .decerr) →
        answerReq s q ans data = if r.fetching then faultAt s r r.pc (if ans = .tenant then eTenant else eNotarget) else s) ∧
    (∀ (s : State) (q : Req) (key : Nat) (x : UpdWrite) (ans : Answer) (data : BitVec 2048), q.owner = .updWrite key →
      (s.upd.writes.find? fun x => x.key == key) = some x →
        (ans ≠ .ok → answerReq s q ans data = endAccess (writeFailed s x (answerCode ans)) x.uid slotUpd ans x.va) ∧
        (ans = .ok →
          let t := answerReq s q ans data
          t.upd.writes = s.upd.writes.filter (fun y => y.key != x.key) ∧
          (x.commit = false → t.upd.commits = s.upd.commits ∧ t.upd.record = s.upd.record) ∧
          (x.commit = true → t.upd.nCommit = s.upd.nCommit + 1 ∧
            t.upd.commits = s.upd.commits.filter (fun c => !(c.uid == x.uid && c.seq == x.seq)) ∧
            t.upd.record = s.upd.record.filter fun r => !(r.1 == x.uid && r.2.1 == x.k)))) ∧
    ∀ (s : State) (q : Req) (u : Upd) (part off : Nat) (ans : Answer) (data : BitVec 2048), q.owner = .upd part off →
      (s.upd.cur = some u → q.uid = some u.uid → u.issued = true → ans ≠ .ok →
        answerReq s q ans data = endAccess (endUpd s u (answerCode ans)) u.uid slotUpd ans off) ∧
      (s.upd.cur = none → answerReq s q ans data =
        if ans = .uncorr then checkEvent s eUncorr 10 0 0 off q.uid 0 else s)) ∧
  ∀ (s : State) (a : Aside) (q : Req) (r : Run) (data : BitVec 2048), s.seq.run = some r → r.uid = a.uid →
    let t := asideDone s a q data
    let low := fun n => BitVec.ofNat 64 (bvGet data 0 n)
    (q.owner = .aside a.tag → (s.strm.asides.find? fun x => x.tag == a.tag) = some a →
      answerReq s q .ok data = t ∧
      ∀ ans, ans ≠ .ok → answerReq s q ans data = endAccess (dropAside s a.tag) a.uid slotAside ans a.va) ∧
    (∀ b, a.kind = .read → findBuf s a.uid a.bufH = some b → Buf.wf b → a.boff + a.len ≤ b.size →
      bufRead t a.uid a.bufH a.boff a.len = natBytes a.len (laneGet data (q.addr.toNat + a.va % 64) a.len) ∧
      (∀ x ∈ t.strm.asides, x.tag ≠ a.tag) ∧
      ∀ x, (∀ k < a.len, bufPhys b (a.boff + k) ≠ x) → padGet t.pad x = padGet s.pad x) ∧
    (a.kind = .write → t = dropAside s a.tag) ∧
    (∀ sd aop sz, a.kind = .atom aop sz → a.sd = some sd →
      getS t sd = low (if sz then 64 else 32) ∧ (∀ x, x ≠ sd → getS t x = getS s x) ∧ ∀ x ∈ t.strm.asides, x.tag ≠ a.tag) ∧
    (∀ sd l, a.kind = .claim l → a.sd = some sd →
      getS t sd = low 64 ∧ (∀ x, x ≠ sd → getS t x = getS s x) ∧ (∀ x ∈ t.strm.asides, x.tag ≠ a.tag) ∧
      (bvGet data 48 2 ≠ 0 → t.strm.leases = s.strm.leases) ∧
      (bvGet data 48 2 = 0 → t.strm.leases = s.strm.leases ++ [⟨s.seq.nextUid, a.uid, a.va, BitVec.ofNat 16 a.fv.toNat,
        BitVec.ofNat 32 (bvGet data 0 32), BitVec.ofNat 16 (bvGet data 32 16), l, s.pwr.tickNum,
        s.pwr.tickNum + BitVec.ofNat 64 l.toNat, false, false⟩])) ∧
    ∀ sd c rb rn, a.kind = .acq c rb rn → a.sd = some sd →
      let v := BitVec.ofNat 64 (laneGet data q.addr.toNat 8)
      let holds := c = 0 ∨ c = 1 ∧ v = a.fv ∨ c = 2 ∧ a.fv.toNat ≤ v.toNat ∨ c = 3 ∧ v ≠ a.fv
      (¬ holds → t = { s with strm := { s.strm with
        asides := if runAlive s a.uid then
            mapIf (fun x => x.tag == a.tag) (fun x => { x with issued := false, waiting := true }) s.strm.asides
          else s.strm.asides.filter fun x => x.tag != a.tag } }) ∧
      (holds → getS t sd = v ∧ (∀ x, x ≠ sd → getS t x = getS s x) ∧ (∀ x ∈ t.strm.asides, x.tag ≠ a.tag) ∧
        ∀ l ∈ t.strm.dcache, l ∈ s.strm.dcache ∧ (rn = 0 ∨ rb + rn ≤ l.2.1 ∨ l.2.1 + 64 ≤ rb))

/-- WINDOW_ACCESS and WINDOW_ATOMIC take the requests of their operations outside the user mailbox. A request in a
reset, of another tenant or during the wipe, of a reserved operation, outside the aperture or beyond the window
buffers is refused in that order, and changes no byte; a request that Table 17-4 does not allow is answered with the
decode error; a write marked uncorrectable stores nothing (R97, R426; 15 R387; 12 R308). USER_MAILBOX_ACCESS: whole
words of the owner's mailbox read and written in ascending order; an atomic, a granule without a register and a
partial word are decode refusals, and a write marked uncorrectable writes nothing (18 R446). Of these the model's
choices: log 3, an event whose precondition does not hold changes nothing; log 22, messages and lanes as operands;
log 32, requests that Table 17-4 does not allow. -/
def Obligations.TargetRefusals : Prop :=
  (∀ (s : State) (r : TargetReq), (apOffset s r.addr.toNat).any inUser = false →
      let atomic := r.op = 1 ∨ r.op = 4 ∨ r.op = 5
      let run := if r.op = 1 ∨ r.op = 4 ∨ r.op = 5 then exec (.windowAtomic r) s else exec (.windowAccess r) s
      let up := clusterUp s = true
      let mine := s.ctl.wipe = none ∧ r.tid = s.ctl.owner
      let answer := answered s r
      (if atomic then exec (.windowAccess r) s else exec (.windowAtomic r) s) = .next s ∧
      (¬ up → run = answer 1 0) ∧ (up → ¬ mine → run = answer 2 0) ∧
      (up → mine → 6 ≤ r.op.toNat → run = answer 1 0) ∧
      (up → mine → r.op.toNat < 6 → apOffset s r.addr.toNat = none → run = answer 1 0) ∧
      ∀ o, up → mine → r.op.toNat < 6 → apOffset s r.addr.toNat = some o →
        (windowOk s o (reachBytes r) = false → run = answer 1 0) ∧
        (windowOk s o (reachBytes r) = true →
          (requestLegal r = false → run = answer 1 0) ∧
          (requestLegal r = true → r.op ≠ 0 → r.op ≠ 1 → r.rs ≠ 0 → run = answer 0 1))) ∧
  (∀ (s : State) (r : TargetReq),
      let run := exec (.userMailboxAccess r) s
      let up := clusterUp s = true
      let mine := s.ctl.wipe = none ∧ r.tid = s.ctl.owner
      let base := winBase s + 0x1F000000
      let words := (List.range (16 * (r.len.toNat + 1))).map fun k => r.addr.toNat + 4 * k
      let mask := fun a => bvGet r.mask (a % 256) 4
      let answer := answered s r
      ((apOffset s r.addr.toNat).any inUser = false → run = .next s) ∧
      ∀ o, apOffset s r.addr.toNat = some o → inUser o = true →
        (¬ up → run = answer 1 0) ∧ (up → ¬ mine → run = answer 2 0) ∧ (up → mine → 6 ≤ r.op.toNat → run = answer 1 0) ∧
        (up → mine → (r.op = 1 ∨ r.op = 4 ∨ r.op = 5) → run = answer 1 0) ∧
        (up → mine → (r.op = 0 ∨ r.op = 2 ∨ r.op = 3) →
          let full := ∀ k ≤ r.len.toNat, userGranule s ((o - 0x1F000000) / 64 + k) = true
          (¬ full → run = answer 1 0) ∧
          (full → requestLegal r = false → run = answer 1 0) ∧
          (full → requestLegal r = true →
            (r.op = 0 → ∃ t, run = .next t ∧ t.strm.rsp = 0 ∧ t.ctl = s.ctl ∧
              ∀ a ∈ words, byteField t.strm.rspData (a % 256) 4 = (mbxReg s .user (a - base)).getD 0 % 2 ^ 32) ∧
            (r.op ≠ 0 → (∃ a ∈ words, mask a ≠ 0 ∧ mask a ≠ 15) → run = answer 1 0) ∧
            (r.op ≠ 0 → (∀ a ∈ words, mask a = 0 ∨ mask a = 15) → r.rs ≠ 0 → run = answer 0 1) ∧
            (r.op ≠ 0 → (∀ a ∈ words, mask a = 0 ∨ mask a = 15) → r.rs = 0 →
              let u := words.foldl (fun s a => if mask a = 15 then
                  userWrite s (a - base) (BitVec.ofNat 32 (byteField r.data (a % 256) 4)) else s) s
              run = answered u r 0 0))))

/-- What an allowed request does in the window buffers: a read answers the bytes in the lanes of their block; a write
puts the bytes whose mask bits are set and no other; an atomic operation answers the old value and leaves the new one
of Table 12-3; CLAIM answers by epoch and limit and moves NEXT; every other byte is as it was (R97, R308, R317, R318,
R321). The beats of a read are its granules in ascending order, the last with LAST (17, R423, R425). A read of bytes
that cannot be corrected is answered so; an ATOMIC or CLAIM there answers so with zero data (R320; 14 Table 14-1). Of
these the model's choices: log 22, messages and lanes as operands; log 32, requests that Table 17-4 does not allow.
Of these the model's choices: log 16, when storage errors arise; log 22, messages and lanes as operands; log 32,
requests that Table 17-4 does not allow; log 36, prefetched granules. -/
def Obligations.WindowEffects : Prop :=
  ∀ (s : State) (r : TargetReq) (o : Nat), clusterUp s = true → s.ctl.wipe = none →
    r.tid = s.ctl.owner → apOffset s r.addr.toNat = some o → inUser o = false → windowOk s o (reachBytes r) = true →
    requestLegal r = true → Pad.wf s.pad = true →
    let n := reachBytes r
    ((∃ m ∈ s.chk.marks, m.hard = true ∧ inPieces [(o, n)] m.place = true) →
      (r.op = 0 → ∃ t, exec (.windowAccess r) s = .next t ∧ t.strm.rsp = 0 ∧ t.strm.rspRs = 1) ∧
      (r.op = 1 → ∃ t, exec (.windowAtomic r) s = .next t ∧ t.strm.rsp = 0 ∧ t.strm.rspRs = 1) ∧
      ((r.op = 4 ∨ r.op = 5) → r.rs = 0 →
        ∃ t, exec (.windowAtomic r) s = .next t ∧ t.strm.rsp = 0 ∧ t.strm.rspRs = 1 ∧ t.strm.rspData = 0)) ∧
    (Clean s →
    let lane := r.addr.toNat % 256
    let old := leNat (padRead s.pad o n)
    let same := fun (t : State) (k : Nat) => ∀ x, x < o ∨ o + k ≤ x → padGet t.pad x = padGet s.pad x
    (r.op = 0 → ∃ t, exec (.windowAccess r) s = .next t ∧ t.strm.rsp = 0 ∧ t.strm.rspRs = 0 ∧ same t 0 ∧
      t.strm.rspBeats.map (fun b => (b.window, b.last)) = (List.range (r.len.toNat + 1)).map (fun k =>
        (lane / 64 + k, decide (k = r.len.toNat))) ∧
      (∀ y ∈ t.strm.rspBeats, ∀ j < 64, byteField y.data j 1 = byteField t.strm.rspData (64 * y.window + j) 1) ∧
      ∀ k < n, byteField t.strm.rspData (lane + k) 1 = (padGet s.pad (o + k)).toNat) ∧
    ((r.op = 2 ∨ r.op = 3) → r.rs = 0 → ∃ t, exec (.windowAccess r) s = .next t ∧ t.strm.rsp = 0 ∧ t.strm.rspRs = 0 ∧
      same t n ∧ ∀ k < n, (padGet t.pad (o + k)).toNat =
        if r.mask.getLsbD (lane + k) then byteField r.data (lane + k) 1 else (padGet s.pad (o + k)).toNat) ∧
    (r.op = 1 → ∃ t, exec (.windowAtomic r) s = .next t ∧ t.strm.rsp = 0 ∧ same t 0 ∧ bvGet t.strm.rspData (8 * lane) 64 = old) ∧
    (r.op = 4 → r.rs = 0 →
      let v := bvGet r.data 0 (8 * n)
      let c := bvGet r.data 64 (8 * n)
      let sg := fun x : Nat => if r.sz then (BitVec.ofNat 64 x).toInt else (BitVec.ofNat 32 x).toInt
      let f : Fmt := if r.sz then .fp64 else .fp32
      ∃ t, exec (.windowAtomic r) s = .next t ∧ t.strm.rsp = 0 ∧ t.strm.rspData.toNat = old ∧ same t n ∧
        let new := leNat (padRead t.pad o n)
        (r.aop = 0 → new = (old + v) % 2 ^ (8 * n)) ∧ (r.aop = 1 → new = old &&& v) ∧ (r.aop = 2 → new = old ||| v) ∧
        (r.aop = 3 → new = old ^^^ v) ∧ (r.aop = 4 → new = if sg v < sg old then v else old) ∧
        (r.aop = 5 → new = if sg old < sg v then v else old) ∧ (r.aop = 6 → new = min old v) ∧
        (r.aop = 7 → new = max old v) ∧ (r.aop = 8 → new = v) ∧ (r.aop = 9 → new = if old = c then v else old) ∧
        (r.aop = 10 → new = if fpIsNan f (fpAdd f .rne old v).1 then fmtNan f else (fpAdd f .rne old v).1)) ∧
    (r.op = 5 → r.rs = 0 →
      let next := leNat (padRead s.pad o 4)
      let epoch := leNat (padRead s.pad (o + 4) 2)
      let limit := leNat (padRead s.pad (o + 8) 4)
      let count := min (bvGet r.data 16 16) (limit - next)
      ∃ t, exec (.windowAtomic r) s = .next t ∧ t.strm.rsp = 0 ∧ same t 4 ∧
        (epoch ≠ bvGet r.data 0 16 → t.strm.rspData.toNat = 2 * 2 ^ 48 ∧ leNat (padRead t.pad o 4) = next) ∧
        (epoch = bvGet r.data 0 16 → limit ≤ next → t.strm.rspData.toNat = 2 ^ 48 ∧ leNat (padRead t.pad o 4) = next) ∧
        (epoch = bvGet r.data 0 16 → next < limit →
          t.strm.rspData.toNat = next + count * 2 ^ 32 ∧ leNat (padRead t.pad o 4) = next + count)))

/-- A check event is counted once; without a run that it ends it is logged as unattributed; otherwise it ends the
run, raises its replay counter and leaves the log entry for REPLAY_PENDING; at a counter of 3, or when a condition of
Table 14-4 holds, the cluster withdraws instead (R352, R354, R357, R359). A read that meets a storage error counts a
corrected one in CHK_CORR, and raises the check event of its Source for another; a write ends the error; a cached
line whose error cannot be corrected is invalidated and counted (R350, R351, Table 14-1). REPLAY_PENDING_ENTRY frees
what the first ended and quiescent run holds and keeps its atomic log and its leases (R354). LOCKSTEP_DIVERGENCE and
CONTROL_SRAM_UNCORRECTABLE restart the control core and are check events of Sources 8 and 9; a LOAD in progress, or
the command that firmware had taken, is cut off, and CONTROL_RESTART completes it with E_CTLRESTART (R353). Of these
the model's choices: log 3, an event whose precondition does not hold changes nothing; log 10, whether firmware had
taken a command; log 16, when storage errors arise; log 37, when entries are logged. -/
def Obligations.CheckEvents : Prop :=
  ((∀ (s : State) (code : Code) (src unit loc addr : Nat) (who : Option Nat) (key : Nat),
      (checkEvent s code src unit loc addr who key).chk.events = s.chk.events + 1) ∧
    (∀ (h : List PastEvent) (e : PastEvent),
      let near := fun (n : Nat) (x : PastEvent) => e.tick.toNat < x.tick.toNat + n
      let count := fun (p : PastEvent → Prop) [DecidablePred p] => (h.filter (decide <| p ·)).length
      hardFault h e = true ↔
        (e.loc ≠ 0 ∧ 2 ≤ count fun x => x.src = e.src ∧ x.loc = e.loc ∧ near 65536 x) ∨
        (e.src = 8 ∧ 2 ≤ count fun x => x.src = 8 ∧ near 1024 x) ∨ (e.src = 7 ∧ 2 ≤ count fun x => x.src = 7 ∧ near 1024 x) ∨
        8 ≤ count fun x => near 1024 x) ∧
    (∀ (s : State) (code : Code) (src unit loc addr key : Nat) (who : Option Nat),
      let past : PastEvent := ⟨s.pwr.tickNum, src, key⟩
      let u := { s with chk := { s.chk with events := s.chk.events + 1, history := s.chk.history ++ [past] } }
      let hard := hardFault (s.chk.history ++ [past]) past
      let run := checkEvent s code src unit loc addr who key
      s.chk.withdrawn = false →
      ((src = 17 ∨ src = 3 ∧ who = none ∨ ∀ i ∈ s.seq.insts, instActive i = false) →
        let line := logAdd u (logWord code src (4 + 2 * bit hard) s.pwr.tickNum 0xFFFF 0 unit loc addr)
        run = if hard then triggerWithdraw line src eHardfault else line) ∧
      ∀ i, src ≠ 17 → who.bind (findInst s) = some i → instActive i = true → i.ending = none →
        let entry := fun f => logWord code src f s.pwr.tickNum i.scene i.replays unit loc addr
        (hard = false → i.replays ≠ 3 → run
          = setInst (endRun u i.uid ⟨.check, code, 0, false, true, some (entry 1)⟩ true) i.uid
              fun i => { i with replays := min 3 (i.replays + 1) }) ∧
        (hard = true ∨ i.replays = 3 → run
          = triggerWithdraw (stopRun (logAdd u (entry 2)) i.uid ⟨.check, code, 0, false, true, none⟩) src eHardfault)) ∧
    ∀ (s : State),
      ((s.chk.withdrawn = true ∨ ∀ i ∈ s.seq.insts, ∀ e, i.ending = some e → e.kind = .check → quiesced s i.uid = false) →
        exec .replayPendingEntry s = .next s) ∧
      ∀ (pre post : List Inst) (i : Inst) (e : Ending), s.chk.withdrawn = false → s.seq.insts = pre ++ i :: post →
        (∀ j ∈ pre ++ post, j.uid ≠ i.uid) → (∀ j ∈ pre, j.ending = none) →
        i.ending = some e → e.kind = .check → quiesced s i.uid = true →
          ∃ t, exec .replayPendingEntry s = .next t ∧
            t.seq.insts = pre ++ { i with st := .replayPending, ending := none, slots := [] } :: post ∧
            (∀ b ∈ t.strm.bufs, b.owner ≠ some i.uid) ∧ (∀ st ∈ t.strm.streams, st.uid ≠ i.uid) ∧
            t.strm.leases = s.strm.leases ∧ (∀ a, padGet t.pad a = padGet s.pad a) ∧
            t.chk = (match e.entry with
              | some w => (logAdd s w).chk
              | none => s.chk)) ∧
  ((∀ (s : State) (who : Option Nat) (w a r t l : Nat),
      let inc := fun c : Byte => if c = 0xFF then c else c + 1
      meetMark s who ⟨.pad w, false⟩ = { s with chk := { s.chk with corrS := inc s.chk.corrS } } ∧
      meetMark s who ⟨.firn a r, false⟩ = { s with chk := { s.chk with corrF := inc s.chk.corrF } } ∧
      meetMark s who ⟨.tile t l, false⟩ = { s with chk := { s.chk with corrT := inc s.chk.corrT } } ∧
      meetMark s who ⟨.dcache l, false⟩ = { s with chk := { s.chk with corrC := inc s.chk.corrC } } ∧
      meetMark s who ⟨.pad w, true⟩ = checkEvent s eUncorr 3 0 w 0 who (w + 1) ∧
      meetMark s who ⟨.firn a r, true⟩ = checkEvent s eUncorr 4 (a % 4) r 0 who (1 + a * 2048 + r) ∧
      meetMark s who ⟨.tile t l, true⟩ = checkEvent s eUncorr 5 t l 0 who (1 + t * 64 + l)) ∧
    (∀ (s : State) (at_ : Place → Bool) (who : Option Nat) (m : Mark),
      ((∀ x ∈ s.chk.marks, at_ x.place = false) → readMarks s who at_ = s) ∧
      (s.chk.marks = [m] → at_ m.place = true → readMarks s who at_ = meetMark s who m) ∧
      (m ∈ (dropMarks s at_).chk.marks ↔ m ∈ s.chk.marks ∧ at_ m.place = false)) ∧
    (∀ (s : State) (uid h o n a r : Nat) (tt : BitVec 4) (b : Buf) (m : Mark), s.chk.marks = [m] →
      (findBuf s uid h = some b → (∃ w k, m.place = .pad w ∧ k < n ∧ bufPhys b (o + k) / 8 = w) → 0 < n →
        bufTake s uid h o n = meetMark (bufUse s uid h o n) (some uid) m) ∧
      (m.place = .firn a r → firnTake s uid a r = meetMark s (some uid) m) ∧
      (∀ l, m.place = .tile tt.toNat l → 1024 * l < o + n → o < 1024 * (l + 1) →
        tileTake s uid tt o n = meetMark s (some uid) m)) ∧
    ∀ (s : State) (l a n : Nat) (hard : Bool), s.chk.marks = [⟨.dcache l, hard⟩] → (lineGet s l).isSome = true →
      l < a + n → a < l + 64 →
        let t := cacheTake s a n
        t.chk.corrC = (if s.chk.corrC = 0xFF then 0xFF else s.chk.corrC + 1) ∧ t.chk.events = s.chk.events ∧
        t.strm.dcache = if hard then s.strm.dcache.filter (fun x => x.1 != l) else s.strm.dcache) ∧
  ∀ s : State,
    let cutOff := fun taken : Bool =>
      let u := { s with ctl := { s.ctl with restarting := true } }
      match s.ctl.load, (if taken then nextDoorbell s else none) with
      | some j, _ => { u with ctl := { u.ctl with load := none, cut := some (j.mbx, j.slot) } }
      | none, some (d, rest) =>
        setSlot { u with ctl := { u.ctl with order := rest, cut := some d } } d.1 d.2 .busy (slotWord s d.1 d.2)
      | none, none => u
    (∀ (loc : BitVec 32) (word : BitVec 16) (taken : Bool),
      ((clusterUp s = false ∨ s.ctl.restarting = true) →
        exec (.lockstepDivergence loc taken) s = .next s ∧ exec (.controlSramUncorrectable word taken) s = .next s) ∧
      (clusterUp s = true → s.ctl.restarting = false →
        exec (.lockstepDivergence loc taken) s = .next (checkEvent (cutOff taken) eLockstep 8 0 loc.toNat 0 none 0) ∧
        exec (.controlSramUncorrectable word taken) s
          = .next (checkEvent (cutOff taken) eUncorr 9 0 0 0 none (word.toNat + 1)))) ∧
    (s.ctl.restarting = false → exec .controlRestart s = .next s) ∧
    (s.ctl.restarting = true →
      let u := { s with ctl := { s.ctl with restarting := false, cut := none } }
      (s.ctl.cut = none → exec .controlRestart s = .next u) ∧
      ∀ m k, s.ctl.cut = some (m, k) → ∃ t, exec .controlRestart s = .next t ∧ slotState t m k = .done ∧
        byteField (slotWord t m k) 4 4 = eCtlrestart.toNat ∧ byteField (slotWord t m k) 0 4 = byteField (slotWord s m k) 0 4 ∧
        (∀ m' k', (m', k') ≠ (m, k) → slotState t m' k' = slotState s m' k' ∧ slotWord t m' k' = slotWord s m' k') ∧
        t.seq = s.seq ∧ t.strm = s.strm ∧ t.feat = s.feat ∧ t.chk = s.chk)

/-- WITHDRAWAL stops the runs, fences the stop, tells the groups with E_RINGPART and raises WITHDRAW; after the
writes in flight are acknowledged, or the timeout, RETURN_RECORD returns one entry for each instance and each lease
and interrupts; nothing starts in a withdrawn cluster (R361 to R363, Tables 14-5 to 14-7). Of these the model's
choices: log 3, an event whose precondition does not hold changes nothing; log 37, when entries are logged; log 38,
the steps of a withdrawal. -/
def Obligations.Withdrawals : Prop :=
  ∀ s : State,
    let begun := s.chk.wdPhase ≠ 0 ∨ s.chk.retValid = true
    let writing := ∃ q ∈ s.strm.reqs, 2 ≤ q.op.toNat
    (s.chk.withdrawn = true → exec .sceneStart s = .next s ∧ exec .replayStart s = .next s) ∧
    ((s.chk.withdrawn = false ∨ begun) → exec .withdrawal s = .next s) ∧
    (s.chk.withdrawn = true → ¬ begun → ∃ t, exec .withdrawal s = .next t ∧ t.pwr.withdrawPin = true ∧ t.chk.wdPhase = 1 ∧
      (∀ i ∈ t.seq.insts, instActive i = true → i.ending ≠ none) ∧
      (s.rev.done = true → t.rev.ptMap.getLsbD s.boot.ties.clusterId.toNat = true ∧
        let sent := fun m : StageMsg => (s.rev.line = false ∨ s.rev.east.dead = false → ∃ o ∈ t.rev.east.out, o.body = .stage m) ∧
          (s.rev.line = true → s.rev.west.dead = false → ∃ o ∈ t.rev.west.out, o.body = .stage m)
        sent (.fence s.boot.ties.clusterId) ∧
        ∀ i ∈ s.seq.insts, inGroup i = true → sent (.groupAbandon i.gtag i.grun eRingpart s.boot.ties.clusterId)) ∧
      t.rev.rejoining = false ∧ t.rev.rx0 = [] ∧ ∀ f ∈ t.rev.rx1E ++ t.rev.rx1W, namesUs s f = false) ∧
    (s.chk.wdPhase = 1 → writing → exec .withdrawalTimeout s = .next { s with chk := { s.chk with wdPhase := 2 } }) ∧
    ((s.chk.wdPhase ≠ 1 ∨ ¬ writing) → exec .withdrawalTimeout s = .next s) ∧
    ((s.chk.wdPhase = 0 ∨ s.chk.retValid = true ∨ s.chk.wdPhase = 1 ∧ writing) → exec .returnRecord s = .next s) ∧
    (s.chk.wdPhase ≠ 0 → s.chk.retValid = false → (s.chk.wdPhase = 1 → ¬ writing) →
      ∃ t, exec .returnRecord s = .next t ∧ t.chk.retValid = true ∧ t.chk.retUnq = (s.chk.wdPhase == 2) ∧
        t.chk.retInsts.length = s.seq.insts.length ∧ t.chk.retLeases.length = s.strm.leases.length ∧
        t.ctl.irqStat.getLsbD 2 = true ∧ t.seq = s.seq ∧ t.strm = s.strm ∧
        (∀ (p : Nat) (i : Inst), s.seq.insts[p]? = some i → ∃ e, t.chk.retInsts[p]? = some e ∧
          byteField e 0 2 = i.scene % 65536 ∧ byteField e 3 1 = i.replays % 256 ∧ byteField e 4 2 = p % 65536 ∧
          byteField e 6 2 = 0 ∧ byteField e 0x48 8 = 0 ∧
          byteField e 2 1 = (match i.st with
            | .waiting => 0 | .ready => 1 | .running => 2 | .replayPending => 2 | .draining => 3 | .abandoned => 4) ∧
          ∀ k < 8, byteField e (8 + 8 * k) 8 = (i.args.getD k 0).toNat) ∧
        ∀ (j : Nat) (l : Lease), s.strm.leases[j]? = some l → l.addr < 2 ^ 57 → ∃ e, t.chk.retLeases[j]? = some e ∧
          byteField e 0 8 = l.addr ∧ byteField e 8 2 = l.epoch.toNat ∧ byteField e 0x0A 2 = l.count.toNat ∧
          byteField e 0x0C 4 = l.first.toNat ∧ byteField e 0x10 2 = s.seq.insts.findIdx (·.uid == l.uid) % 65536 ∧
          byteField e 0x12 1 = l.lease.toNat ∧ byteField e 0x18 8 = l.tick.toNat)

/-! ## Ticks and the scheduler (09, 16) -/

/-- TICK: a later number is used (capped at 100; a gap is counted), any other is stale and only counted; the first
tick is always used (R410). MISSING_TICK counts. In a reset nothing happens. The choice at a tick: no start without
release, in a withdrawn cluster, at a cap of 0 or beside a RUNNING instance; an instance that waits for its replay
comes before all others; otherwise, unless an ABANDONED instance holds, the first of the READY ones with the highest
priority whose frames, slots and load fit (R232, R222, R356). Of these the model's choices: log 3, an event whose
precondition does not hold changes nothing; log 43, when scenes start. -/
def Obligations.TicksAndChoice : Prop :=
  (∀ (s : State) (num : BitVec 64) (cap : BitVec 8),
      (clusterUp s = false → exec (.tick num cap) s = .next s ∧ exec .missingTick s = .next s) ∧
      (clusterUp s = true →
        let u := { s with pwr := { s.pwr with tickNumIn := num, capIn := cap } }
        let sat := fun (w : Nat) (c : BitVec w) => if c.toNat + 1 = 2 ^ w then c else c + 1
        exec .missingTick s = .next { s with pwr := { s.pwr with missing := sat 8 s.pwr.missing } } ∧
        (s.pwr.firstTick = false → num.toNat ≤ s.pwr.tickNum.toNat →
          exec (.tick num cap) s = .next { u with pwr := { u.pwr with stale := sat 8 s.pwr.stale } }) ∧
        ((s.pwr.firstTick = true ∨ s.pwr.tickNum.toNat < num.toNat) →
          ∃ t, exec (.tick num cap) s = .next t ∧ t.pwr.tickNum = num ∧ t.pwr.firstTick = false ∧
            t.pwr.capin.toNat = min cap.toNat 100 ∧
            t.pwr.jump = (if s.pwr.firstTick = false ∧ num ≠ s.pwr.tickNum + 1 then sat 16 s.pwr.jump else s.pwr.jump) ∧
            t.pwr.stale = s.pwr.stale ∧ t.seq.insts = s.seq.insts ∧ t.seq.run = s.seq.run ∧
            t.strm.leases.map (·.due) = s.strm.leases.map (fun l => l.due || (!l.expired && decide (l.expiry.toNat ≤ num.toNat))) ∧
            (∀ i ∈ s.seq.insts, (i.uid ∈ t.seq.lateDue ↔ ∃ j ∈ s.seq.insts, j.uid = i.uid ∧ lateAt s num j = true)) ∧
            t.seq.startSel = chooseStart t ∧ t.vec = s.vec ∧ t.firn = s.firn ∧ t.pad = s.pad ∧ t.chk = s.chk))) ∧
  (∀ s : State,
      (startBarred s = true ↔ s.boot.released = false ∨ s.chk.withdrawn = true ∨ s.pwr.capin = 0 ∨
        ∃ i ∈ s.seq.insts, i.st = .running) ∧
      (startBarred s = true → chooseStart s = none) ∧
      (∀ i, startBarred s = false → (s.seq.insts.find? fun i => i.st == .replayPending) = some i →
        chooseStart s = if ((sceneOf s i).map (startFits s)).getD false then some i.uid else none) ∧
      (startBarred s = false → (∀ i ∈ s.seq.insts, i.st ≠ .replayPending) →
        let ok := fun (i : Inst) (sc : Scene) => i.st = .ready ∧ sceneOf s i = some sc ∧ startFits s sc = true
        (s.seq.held = true → chooseStart s = none) ∧
        (s.seq.held = false → (∀ i ∈ s.seq.insts, ∀ sc, ¬ ok i sc) → chooseStart s = none) ∧
        (s.seq.held = false → (∃ i ∈ s.seq.insts, ∃ sc, ok i sc) → ∃ pre i post sc, s.seq.insts = pre ++ i :: post ∧
          chooseStart s = some i.uid ∧ ok i sc ∧
          (∀ j ∈ post, ∀ sc', ok j sc' → sc'.prio ≤ sc.prio) ∧ ∀ j ∈ pre, ∀ sc', ok j sc' → sc'.prio < sc.prio)) ∧
      ∀ sc : Scene, startFits s sc = true ↔
        (sc.bufs.map fun b => (b.2 + 65535) / 65536).sum ≤ ((List.range 512).filter fun f => !(usedFrames s).contains f).length ∧
        sc.nstrm ≤ (freeSlots s).length ∧
        let w := fun k => s.boot.weights.getD k 0
        let d := fun k => sc.duty.getD k 0
        (w 0 * (d 0 + d 1 + d 2 + d 3) + w 1 * d 4 + w 2 * d 5 + w 3 * d 6 + 255) / 256 ≤ s.pwr.capin.toNat)

/-- SCENE_START and REPLAY_START of the instance chosen at the tick: it runs from code offset 0 with its arguments in
S24 to S31, the other scalar registers 0, tile registers, Firn and vector state as after reset, its frames' lines
invalid, the data cache empty; a replay takes back the numeric status of the start and is counted (R233, R356, R72,
R120, R190, R199). The choice of the tick stands while the instance is still in its state, nothing bars a start, no
instruction of a draining scene remains, and for a READY instance neither a fault holds nor another waits for its
replay (R222, R232, R356). Scene buffers take the lowest free frames in ascending handle order (R93). Of these the
model's choices: log 3, an event whose precondition does not hold changes nothing. Of these the model's choices: log
3, an event whose precondition does not hold changes nothing; log 12, a store clause waits as a pending store; log
43, when scenes start. -/
def Obligations.SceneStarts : Prop :=
  ∀ s : State,
    (chosen s .ready = none → exec .sceneStart s = .next s) ∧ (chosen s .replayPending = none → exec .replayStart s = .next s) ∧
    ∀ (i : Inst) (sc : Scene),
      let begun := fun (t : State) =>
        t.seq.run = some ⟨i.uid, 0, true, ⟨0, 0, 0, 0⟩, 0, none⟩ ∧
        (∀ x : BitVec 5, getS t x = if x.toNat < 24 then 0 else i.args.getD (x.toNat - 24) 0) ∧
        (∀ x : BitVec 5, getV t x = 0) ∧ (∀ x : BitVec 3, getK t x = BitVec.allOnes 512) ∧ t.vec.vl = 512 ∧
        (∀ x : BitVec 4, getT t x = ⟨0, 0, 0, 2, false⟩) ∧ (∀ a q, firnRow t a q = .reset) ∧ (∀ q, statRow t q = .reset) ∧
        t.strm.bufs = s.strm.bufs ++ allocBufs i.uid (freeFrames s) sc.bufs ∧
        (∀ b ∈ allocBufs i.uid (freeFrames s) sc.bufs, ∀ f ∈ b.frames, ∀ k < 65536, padGet t.pad (65536 * f + k) = 0) ∧
        (∀ a, (∀ b ∈ allocBufs i.uid (freeFrames s) sc.bufs, a / 65536 ∉ b.frames) → padGet t.pad a = padGet s.pad a) ∧
        (∀ j, findInst t i.uid = some j → j.st = .running ∧ j.tick0 = s.pwr.tickNum ∧ j.replays = i.replays ∧
          j.slots = (freeSlots s).take sc.nstrm ∧ j.ringScene = false) ∧
        t.strm.dcache = [] ∧ t.ctl = s.ctl ∧ t.rev = s.rev ∧ t.boot = s.boot ∧ t.feat = s.feat
      let frames := (allocBufs i.uid (freeFrames s) sc.bufs).flatMap (·.frames)
      let marks := s.chk.marks.filter fun m => !inFrames frames m.place && !inWork m.place
      (∀ st, chosen s st = some (i, sc) ↔ (∃ uid, s.seq.startSel = some uid ∧ findInst s uid = some i) ∧ i.st = st ∧
        startBarred s = false ∧ s.seq.queue = [] ∧ s.mat.stores = [] ∧ s.mat.jobs = [] ∧
        (st = .ready → s.seq.held = false ∧ ∀ j ∈ s.seq.insts, j.st ≠ .replayPending) ∧
        sceneOf s i = some sc ∧ startFits s sc = true) ∧
      (let bs := allocBufs i.uid (freeFrames s) sc.bufs
       (bs.map fun b => (b.handle, b.size)).Perm sc.bufs ∧ bs.Pairwise (fun a b => a.handle ≤ b.handle) ∧
       (startFits s sc = true → frames = (freeFrames s).take frames.length ∧
         ∀ b ∈ bs, b.owner = some i.uid ∧ b.frames.length = (b.size + 65535) / 65536)) ∧
      (chosen s .ready = some (i, sc) → Pad.wf s.pad = true → ∃ t, exec .sceneStart s = .next t ∧ begun t ∧
        t.mat = s.mat ∧ t.vec.numstat = s.vec.numstat ∧ t.upd = s.upd ∧ t.chk = { s.chk with marks := marks }) ∧
      (chosen s .replayPending = some (i, sc) → Pad.wf s.pad = true → ∃ t, exec .replayStart s = .next t ∧ begun t ∧
        t.mat = { s.mat with numstat := i.numMat } ∧ t.vec.numstat = i.numVec ∧
        t.upd = { s.upd with numstat := i.numUpd } ∧ t.chk = { s.chk with nReplay := s.chk.nReplay + 1, marks := marks })

/-- SCENE_LATE counts a run that is late at the tick once; LEASE_EXPIRY counts and logs a lease whose expiry tick has
come; SCENE_RELEASE of a DRAINING instance with no work left removes it; IDLE_ENTRY sets IDLE when nothing runs or
waits (R234, R235, R322, R385, R412). Otherwise nothing happens. Of these the model's choices: log 3, an event whose
precondition does not hold changes nothing; log 17, timing is left out; log 36, prefetched granules; log 37, when
entries are logged. -/
def Obligations.SceneReleases : Prop :=
  ∀ s : State,
    (∀ pos : BitVec 8, s.seq.insts[pos.toNat]? = none →
      exec (.sceneLate pos) s = .next s ∧ exec (.sceneRelease pos) s = .next s) ∧
    (∀ (pos : BitVec 8) (i : Inst), s.seq.insts[pos.toNat]? = some i →
      (i.uid ∉ s.seq.lateDue → exec (.sceneLate pos) s = .next s) ∧
      (i.uid ∈ s.seq.lateDue →
        let u := setInst s i.uid fun i => { i with runLate := true, everLate := true }
        exec (.sceneLate pos) s = .next { u with seq := { u.seq with
          late := s.seq.late + 1, lateDue := s.seq.lateDue.erase i.uid } }) ∧
      (releasable s i = false → exec (.sceneRelease pos) s = .next s) ∧
      (releasable s i = true → i.st = .draining ∧ i.ending = none ∧ workDone s i.uid s.seq.nextUid none = true ∧
        quiesced s i.uid = true ∧ groupEnded i = true ∧
        ∃ t, exec (.sceneRelease pos) s = .next t ∧
          t.seq.insts.map (·.uid) = (s.seq.insts.map (·.uid)).filter (· != i.uid) ∧
          (∀ b ∈ t.strm.bufs, b.owner ≠ some i.uid) ∧ (∀ st ∈ t.strm.streams, st.uid ≠ i.uid) ∧
          (∀ l ∈ t.strm.leases, l.uid ≠ i.uid) ∧ t.vec = s.vec ∧ (∀ a, padGet t.pad a = padGet s.pad a))) ∧
    (∀ idx : BitVec 6,
      ((∀ l, s.strm.leases[idx.toNat]? = some l → l.due = false) → exec (.leaseExpiry idx) s = .next s) ∧
      ∀ l, s.strm.leases[idx.toNat]? = some l → l.due = true → ∃ t, exec (.leaseExpiry idx) s = .next t ∧
        t.strm.leaseExp = (if s.strm.leaseExp = 0xFFFF then 0xFFFF else s.strm.leaseExp + 1) ∧
        (∀ m ∈ t.strm.leases, m.key = l.key → m.due = false ∧ m.expired = true) ∧
        t.strm.leases.length = s.strm.leases.length ∧ t.chk.logSeq = s.chk.logSeq + 1 ∧ t.seq = s.seq) ∧
    let quiet := (∀ i ∈ s.seq.insts, instActive i = false ∧ i.st ≠ .replayPending) ∧ s.strm.streams = [] ∧
      s.upd.cur = none ∧ ∀ k : BitVec 3, ∀ m, slotState s m k ≠ .posted ∧ slotState s m k ≠ .busy
    (clusterUp s = true → s.boot.released = true → quiet →
      exec .idleEntry s = .next { s with pwr := { s.pwr with idle := true } }) ∧
    ((clusterUp s = false ∨ s.boot.released = false ∨ ¬ quiet) → exec .idleEntry s = .next s)

/-! ## Sensors, resets and bring-up (16, 17) -/

/-- The inputs of the management port: THROTTLE, TEMP_IN (a thermal limit from LIMIT on that ends at LIMIT - 20),
CURR_IN, CCLK_CHANGE without effect, CURTAIN_IN, which is a Curtain when high, and the ends of its pulse and stop
event (R415, R405, R406; 17 R436 to R438). A Curtain, wired or by a Stage Door message, acts once in a stop event on
a released cluster outside resets: every instance that is not DRAINING and not RUNNING is removed, the RUNNING one
ends and is to be removed, and what the ring stop holds is discarded (R404 to R406, Table 16-6). Of these the model's
choices: log 3, an event whose precondition does not hold changes nothing; log 17, timing is left out. Of these the
model's choices: log 3, an event whose precondition does not hold changes nothing; log 17, timing is left out; log
40, aborts that meet an ending run. -/
def Obligations.SensorsAndCurtain : Prop :=
  (∀ s : State,
      (∀ level, exec (.throttle level) s = .next { s with pwr := { s.pwr with throttle := level } }) ∧
      (∀ v, exec (.currIn v) s = .next { s with pwr := { s.pwr with currNow := v, currIn := v } }) ∧
      (∀ khz, exec (.cclkChange khz) s = .next s) ∧
      (∀ v : BitVec 10, ∃ b, exec (.tempIn v) s = .next { s with pwr := { s.pwr with tempNow := v, tempIn := v, thermal := b } } ∧
        (s.pwr.tempLimit.toNat ≤ v.toNat → b = true) ∧ (v.toNat + 20 ≤ s.pwr.tempLimit.toNat → b = false) ∧
        (v.toNat < s.pwr.tempLimit.toNat → s.pwr.tempLimit.toNat < v.toNat + 20 → b = s.pwr.thermal)) ∧
      exec (.curtainIn false) s = .next { s with pwr := { s.pwr with curtainIn := false } } ∧
      exec (.curtainIn true) s = .next (curtainAct { s with pwr := { s.pwr with curtainIn := true } }) ∧
      exec .curtainPulseEnd s = .next { s with pwr := { s.pwr with curtainOut := false } } ∧
      (s.pwr.curtainIn = true → exec .stopEventEnd s = .next s) ∧
      (s.pwr.curtainIn = false → exec .stopEventEnd s = .next { s with pwr := { s.pwr with stopEvent := false } })) ∧
  (∀ s : State,
      let barred := s.pwr.stopEvent = true ∨ s.chk.withdrawn = true ∨ s.boot.released = false ∨ s.boot.poreset = false ∨
        s.boot.clreset = false
      (barred → curtainAct s = s) ∧
      (¬ barred → let t := curtainAct s
        t.pwr.stopEvent = true ∧ t.rev.rx0 = [] ∧ (∀ f ∈ t.rev.rx1E ++ t.rev.rx1W, namesUs s f = false) ∧
        (∀ i ∈ t.seq.insts, i.st = .draining ∨ i.st = .running ∧ ((∀ j ∈ s.seq.insts, ∀ k ∈ s.seq.insts,
          j.st = .running → k.st = .running → j = k) → ∃ e, i.ending = some e ∧ (e.kind = .abort → e.remove = true))) ∧
        t.vec = s.vec ∧ t.firn = s.firn ∧ t.tiles = s.tiles ∧ t.boot = s.boot ∧ t.feat = s.feat))

/-- PORESET_N falling resets everything but the tie-offs and the fuse values; its rise samples the tie-offs and gives
four VC3 credits; CLRESET_N falling resets the cluster domain and leaves the ring's training, in pass-through, and
the uncommitted-update record; it acts only while PORESET_N is high; POWER_DOWN needs CLRESET_N low (R401, R402,
Table 16-5; 17 R419, R431). As either falls, the stop of a trained ring sends FENCE, and GROUP_ABANDON with
E_RINGPART for a group that is active (R402; 11 R299). Of these the model's choices: log 3, an event whose
precondition does not hold changes nothing; log 6, the reset state; log 39, when GROUP_ABANDON is sent. -/
def Obligations.Resets : Prop :=
  ∀ s : State,
    let cleared := fun t : State =>
      t.pending = s.pending ∧ t.vec = Vec.reset ∧ t.tiles = State.reset.tiles ∧ t.firn = ⟨[], []⟩ ∧ t.pad = ⟨[], 0, []⟩ ∧
      t.mat = Mat.reset ∧ t.seq.insts = [] ∧ t.seq.run = none ∧ t.seq.modl = none ∧ t.strm.streams = [] ∧ t.strm.reqs = [] ∧ t.strm.landed = [] ∧
      t.strm.bufs = [] ∧ t.strm.tlb = [] ∧ t.strm.leases = [] ∧ t.chk = { Chk.reset with upsets := s.chk.upsets } ∧ t.ctl = Ctl.reset ∧ t.feat = Feat.reset ∧
      t.perf = Perf.reset ∧ t.boot.released = false ∧ t.boot.copies = [] ∧ t.boot.chosen = false ∧
      t.pwr = { Pwr.reset with
        throttle := s.pwr.throttle, tempIn := s.pwr.tempIn, currIn := s.pwr.currIn, tickNumIn := s.pwr.tickNumIn
        capIn := s.pwr.capIn, curtainIn := s.pwr.curtainIn } ∧
      (∀ q ∈ s.strm.reqs, q.tag ∈ t.strm.orphans) ∧ t.upd.cur = none ∧ t.upd.writes = [] ∧ t.upd.commits = []
    let told := fun t : State => s.rev.done = true →
      let sent := fun m : StageMsg => (s.rev.line = false ∨ s.rev.east.dead = false → ∃ o ∈ t.rev.east.out, o.body = .stage m) ∧
        (s.rev.line = true → s.rev.west.dead = false → ∃ o ∈ t.rev.west.out, o.body = .stage m)
      sent (.fence s.boot.ties.clusterId) ∧
      ∀ i ∈ s.seq.insts, i.ringScene = true → instActive i = true →
        sent (.groupAbandon i.gtag i.grun eRingpart s.boot.ties.clusterId)
    (s.boot.poreset = false → exec .poresetNFall s = .next s) ∧
    (s.boot.poreset = true → ∃ t, exec .poresetNFall s = .next t ∧ cleared t ∧ t.boot.poreset = false ∧
      t.boot.clreset = s.boot.clreset ∧ t.boot.ties = s.boot.ties ∧ t.boot.keyhash = s.boot.keyhash ∧
      t.boot.dbgfuse = s.boot.dbgfuse ∧ t.rev.done = false ∧ t.rev.ptMap = 0 ∧ t.boot.fusesIn = false ∧ t.upd.record = [] ∧
      t.dbg.ir = 0xFF ∧ told t) ∧
    (∀ ties, (s.boot.poreset = true → exec (.poresetNRise ties) s = .next s) ∧
      (s.boot.poreset = false → exec (.poresetNRise ties) s
        = .next { s with boot := { s.boot with poreset := true, ties := ties }, rev := Rev.reset })) ∧
    (s.boot.clreset = false → exec .clresetNFall s = .next s) ∧
    (s.boot.clreset = true → s.boot.poreset = false →
      exec .clresetNFall s = .next { s with boot := { s.boot with clreset := false } }) ∧
    (s.boot.clreset = true → s.boot.poreset = true → ∃ t, exec .clresetNFall s = .next t ∧ cleared t ∧
      t.boot.poreset = true ∧ t.boot.clreset = false ∧ t.boot.ties = s.boot.ties ∧ t.boot.keyhash = s.boot.keyhash ∧
      t.boot.dbgfuse = s.boot.dbgfuse ∧ t.boot.cold = false ∧ t.rev.pt = true ∧ t.rev.done = s.rev.done ∧ t.rev.n = s.rev.n ∧ t.rev.gen = s.rev.gen ∧
      t.rev.down = false ∧ told t ∧ t.upd.record = s.upd.record ∧ t.dbg.ir = s.dbg.ir) ∧
    (s.boot.clreset = true → exec .clresetNRise s = .next s ∧ exec .powerDown s = .next s) ∧
    (s.boot.clreset = false →
      exec .clresetNRise s = .next { s with boot := { s.boot with clreset := true, off := false } } ∧
      exec .powerDown s = .next { s with boot := { s.boot with off := true } })

/-- FUSE_LOAD takes the fuse values when their CRC-32 agrees, otherwise all ones and debug level 0; COPY_EXAMINE
begins to read the next copy, in ascending order, at IMG_BASE + n * 0x40000 with tenant ID 0; as the bytes arrive it
is valid exactly when no read failed and every check of R396 holds, and one that is not valid is logged (R392 to
R396; 14 R365). CONFIG_CHOOSE takes the highest generation among the valid copies, the lowest number among equals;
none, or equal generations of different content, make the cluster hold (14 R365). RELEASE starts firmware with the
chosen copy; the stop of a trained ring then rejoins after a cold release, and after a warm one the
uncommitted-update record is logged and cleared; the load-unit weights are those of the first table entry of this
stepping, when each lies within 1 to 64, and otherwise those of Table 1-4 (R397, R398, R409; 11 R300). Of these the
model's choices: log 3, an event whose precondition does not hold changes nothing; log 8, the reads of LOAD and of
image copies; log 18, values that the spec does not state; log 19, the stepping; log 21, the cryptographic standards;
log 37, when entries are logged; log 45, release before training. -/
def Obligations.BringUp : Prop :=
  ((∀ (s : State) (bits : BitVec 1024),
      ((s.boot.poreset = false ∨ s.boot.fusesIn = true) → exec (.fuseLoad bits) s = .next s) ∧
      (s.boot.poreset = true → s.boot.fusesIn = false → ∃ t, exec (.fuseLoad bits) s = .next t ∧ t.boot.fusesIn = true ∧
        t.rev.ready = true ∧
        (bvGet bits 992 32 = (fuseCrc bits).toNat → t.boot.fuseErr = false ∧ t.boot.keyhash.toNat = bvGet bits 0 384 ∧
          t.boot.dbgfuse.toNat = if bvGet bits 384 2 = 3 then 0 else bvGet bits 384 2) ∧
        (bvGet bits 992 32 ≠ (fuseCrc bits).toNat → t.boot.fuseErr = true ∧ t.boot.keyhash = BitVec.allOnes 384 ∧
          t.boot.dbgfuse = 0) ∧
        t.seq = s.seq ∧ t.strm = s.strm ∧ t.chk = s.chk)) ∧
    (∀ (s : State) (n : BitVec 2) (first : BitVec 4) (k : Nat),
      let turn := clusterUp s = true ∧ s.boot.fusesIn = true ∧ s.boot.chosen = false ∧ s.boot.reads = [] ∧
        s.boot.copies.length = n.toNat ∧ n.toNat ≤ s.boot.ties.imgCopies.toNat
      (¬ turn → exec (.copyExamine n first) s = .next s) ∧
      (turn → imageBusyRead s = false →
        let tags := s.strm.reqs.map (·.tag) ++ s.strm.landed.map (·.req.tag) ++ s.strm.orphans
        (lowestFree tags (4176 + first.toNat) (16 - first.toNat) <|> lowestFree tags 4176 16) = some k →
          exec (.copyExamine n first) s = .next { s with
            boot := { s.boot with reads := [⟨n.toNat, [], false, first⟩] }
            strm := { s.strm with reqs := s.strm.reqs ++
              [⟨k, 0, BitVec.ofNat 52 (s.boot.ties.imgBase.toNat * 2 ^ 18 + n.toNat * 0x40000), 3, 0, false, 0, 0, 0, 0, 0, [],
                none, .image n.toNat 0⟩] } })) ∧
    (∀ (s : State) (q : Req) (x y : Nat) (r : ImageRead) (rest : List ImageRead) (a : Answer) (data : BitVec 2048),
      q.owner = .image x y → s.boot.reads = r :: rest →
        let r' : ImageRead := if a = .ok then { r with image := r.image ++ natBytes 256 data.toNat } else { r with failed := true }
        let done := r'.failed = true ∨ copyHeadOk r'.image = false ∨ leAt r'.image 0x0C 4 ≤ r'.image.length
        let c := examine s.boot.keyhash r'
        let u := { s with boot := { s.boot with reads := rest, copies := s.boot.copies ++ [(r.n, c)] } }
        (done → answerReq s q a data =
          if c.valid then u else logAdd u (logWord eNoimage 15 0 s.pwr.tickNum 0xFFFF 0 r.n 0 0)) ∧
        (¬ done → answerReq s q a data = imageNext { s with boot := { s.boot with reads := r' :: rest } })) ∧
    ∀ (key : BitVec 384) (r : ImageRead),
      let b := r.image
      let at_ := fun o n => leAt b o n
      let size := at_ 0x0C 4
      let body := b.take (size - 96)
      let c := examine key r
      (c.valid = true ↔ r.failed = false ∧ at_ 0 4 = 0x49435A2E ∧ size % 64 = 0 ∧ 4096 ≤ size ∧ size ≤ 196608 ∧
        at_ 6 2 = 0 ∧ (∀ x ∈ (b.drop 0x1D).take 35, x = 0) ∧ leNat (sha384 ((b.drop 0x40).take 96)) = key.toNat ∧
        ecdsaVerify ((b.drop 0x40).take 96) (sha384 body) ((b.drop (size - 96)).take 96) = true ∧ at_ 4 2 ≠ 0 ∧
        at_ 0x10 4 % 64 = 0 ∧ at_ 0x18 4 % 8 = 0 ∧ at_ 0x1C 1 ≤ 8 ∧ at_ 0x14 4 ≤ 131072 ∧
        at_ 0x10 4 + at_ 0x14 4 ≤ size - 96) ∧
      (c.gen.toNat = if c.valid then at_ 4 2 else 0) ∧ (c.fwver.toNat = if c.valid then at_ 8 4 else 0) ∧
      (c.digest = if c.valid then leNat (sha384 body) else 0) ∧
      c.lut = if c.valid then
          ((List.range (at_ 0x1C 1)).filter fun k => decide (at_ 0x18 4 + 8 * k + 8 ≤ size - 96)).map fun k =>
            BitVec.ofNat 64 (at_ (at_ 0x18 4 + 8 * k) 8)
        else []) ∧
  (∀ s : State,
      let turn := clusterUp s = true ∧ s.boot.chosen = false ∧ s.boot.copies.length = s.boot.ties.imgCopies.toNat + 1
      (¬ turn → exec .configChoose s = .next s) ∧
      (turn → ∃ t, exec .configChoose s = .next t ∧ t.boot = { s.boot with chosen := true } ∧ t.seq = s.seq ∧
        (∀ k < 4, t.chk.cfgValid.getLsbD k = ((s.boot.copies[k]?).any fun c => c.2.valid)) ∧
        ((∀ c ∈ s.boot.copies, c.2.valid = false) → t.chk.cfgState = 3) ∧
        ((∃ c ∈ s.boot.copies, ∃ d ∈ s.boot.copies, c.2.valid = true ∧ d.2.valid = true ∧ c.2.gen = d.2.gen ∧
            c.2.digest ≠ d.2.digest ∧ ∀ e ∈ s.boot.copies, e.2.valid = true → e.2.gen.toNat ≤ c.2.gen.toNat) →
          t.chk.cfgState = 2 ∧ t.chk.logSeq = s.chk.logSeq + 1) ∧
        (∀ pre c post, s.boot.copies = pre ++ c :: post → c.2.valid = true →
          (∀ d ∈ pre, d.2.valid = true → d.2.gen.toNat < c.2.gen.toNat) →
          (∀ d ∈ post, d.2.valid = true → d.2.gen.toNat ≤ c.2.gen.toNat ∧ (d.2.gen = c.2.gen → d.2.digest = c.2.digest)) →
            t.chk.cfgState = 0 ∧ t.chk.cfgCopy = BitVec.ofNat 2 c.1 ∧ t.chk.cfgGen = c.2.gen)) ∧
      let ready := clusterUp s = true ∧ s.boot.chosen = true ∧ s.chk.cfgState = 0 ∧ s.boot.released = false
      let c := ((s.boot.copies.find? fun c => c.1 == s.chk.cfgCopy.toNat).map (·.2)).getD badCopy
      let u := { s with boot := { s.boot with released := true, fwver := c.fwver, weights := weightsOf c.lut }
                        pwr := { s.pwr with firstTick := true, idle := false } }
      (¬ ready → exec .release s = .next s) ∧
      (ready → s.boot.cold = true → s.rev.done = false → exec .release s = .next { u with rev := { s.rev with pt := true } }) ∧
      (ready → s.boot.cold = true → s.rev.done = true → ∃ t, exec .release s = .next t ∧ t.rev.rejoining = true ∧ t.rev.pt = true ∧
        (s.rev.line = false ∨ s.rev.east.dead = false →
          t.rev.east.out = s.rev.east.out ++ [⟨3, 0, true, 0, 0, false, .stage (.rejoin s.boot.ties.clusterId)⟩]) ∧
        t.boot = u.boot ∧ t.pwr = u.pwr ∧ t.upd = s.upd) ∧
      (ready → s.boot.cold = false → ∃ t, exec .release s = .next t ∧ t.upd.record = [] ∧ t.boot = u.boot ∧ t.pwr = u.pwr ∧
        t.chk.logSeq = s.chk.logSeq + BitVec.ofNat 32 s.upd.record.length ∧ t.rev = s.rev)) ∧
  ∀ lut : List (BitVec 64),
    let mine := fun e : BitVec 64 => (byteField e 0 1, byteField e 1 1) = (match Config.stepping with
      | .b1 => (2, 1)
      | .c0 => (3, 0))
    ((∀ e ∈ lut, ¬ mine e) → weightsOf lut = [18, 10, 8, 10]) ∧
    ∀ pre e post, lut = pre ++ e :: post → (∀ x ∈ pre, ¬ mine x) → mine e →
      let w := [byteField e 2 1, byteField e 3 1, byteField e 4 1, byteField e 5 1]
      weightsOf lut = if ∀ x ∈ w, 1 ≤ x ∧ x ≤ 64 then w else [18, 10, 8, 10]

/-! ## The links of the ring stop (11, 17) -/

/-- A flit at a port is taken when it is the one expected next and its CRC passes: it is acknowledged, then forwarded
when it does not name this cluster, freed in pass-through or when it is of another run, and kept otherwise; a CRC
failure is counted and refused, and a second one in a row marks the link down; any other flit is discarded (R275,
R285, R292, R295, R299; 17 R430). At generation 1 its data are the low halves of its two beats (17 R429). VC0 flits
of one sender and channel keep their order: one that does not name this cluster waits behind an earlier one that
does, and goes on once that has gone (R277). VC0_FLIT_USED: the oldest MMA, while it takes its activations from a
channel, takes the rows of that channel's oldest flit of its run; the flit goes on east without this cluster's bit,
or is freed when no cluster is left (R285; 06 R145). Of these the model's choices: log 3, an event whose precondition
does not hold changes nothing; log 13, a ring MMA takes flits one at a time. Of these the model's choices: log 3, an
event whose precondition does not hold changes nothing; log 13, a ring MMA takes flits one at a time; log 15, which
waiting partial a rank meets. -/
def Obligations.FlitReception : Prop :=
  (∀ (s : State) (side : Side) (x : LinkFlit),
      let p := getPort s side
      let go := fun c : Instr => exec c s
      let f : Flit := if s.rev.gen = 1 then
          ⟨x.flit.hdr, (x.data2.truncate 1024 : BitVec 1024) ++ (x.flit.data.truncate 1024 : BitVec 1024)⟩
        else x.flit
      let expected := p.dead = false ∧ x.seq = p.rxSeq
      let taken := setPort s side { p with
        rxSeq := p.rxSeq + 1, nakked := false, rxFail := none, koAck := true, koNak := false, koSeq := x.seq }
      let refused := countCrc (setPort s side
        { p with nakked := true, rxFail := some x.seq, koAck := false, koNak := true, koSeq := x.seq }) side
      let here := (flMask f).getLsbD s.boot.ties.clusterId.toNat
      let drop := passThrough s || staleFlit s f
      let fwd := forward taken (opposite side) 0 0 f
      let all := fun (vc : Nat) (c : Instr) =>
        (flVc f ≠ vc → go c = .next s) ∧
        (flVc f = vc → ¬ expected → go c = .next s) ∧
        (flVc f = vc → expected → flitCrc f ≠ x.crc →
          go c = .next (if p.rxFail = some x.seq then linkDown refused side else refused))
      (side = .west → all 0 (.vc0Flit x) ∧
        (flVc f = 0 → expected → flitCrc f = x.crc →
          let kept := { taken with rev := { taken.rev with rx0 := taken.rev.rx0 ++ [f] } }
          go (.vc0Flit x) = .next (
            if here = false then (if ∃ y ∈ s.rev.rx0, flSrc f = flSrc y ∧ flCh f = flCh y then kept else fwd)
            else if drop then freeAt taken .west f else kept))) ∧
      (all 1 (.vc1Flit side x) ∧
        (flVc f = 1 → expected → flitCrc f = x.crc →
          let kept := match side with
            | .west => { taken with rev := { taken.rev with rx1W := taken.rev.rx1W ++ [f] } }
            | .east => { taken with rev := { taken.rev with rx1E := taken.rev.rx1E ++ [f] } }
          (here = false → go (.vc1Flit side x) = .next fwd) ∧
          (here = true → drop = true → go (.vc1Flit side x) = .next (freeAt taken side f)) ∧
          (here = true → drop = false → go (.vc1Flit side x) = .next
            (if currentFlit s f then (redArrive taken (side == .west) f).getD kept else kept)))) ∧
      (all 2 (.vc2Message side x) ∧
        (flVc f = 2 → expected → flitCrc f = x.crc → go (.vc2Message side x)
          = .next (if flSrc f = s.boot.ties.clusterId.toNat then freeAt taken side f else fwd)))) ∧
  (∀ (s : State) (ch : BitVec 2),
      let line := fun f g : Flit => flSrc f = flSrc g ∧ flCh f = flCh g
      ((s.mat.jobs = [] ∨ ∃ j rest, s.mat.jobs = j :: rest ∧
          (j.w.src = false ∨ j.rxch ≠ ch ∨ j.blk = 0 ∨ mmaRows j.w.shape ≤ j.taken)) → exec (.vc0FlitUsed ch) s = .next s) ∧
      ∀ (j : MmaJob) (rest : List MmaJob) (i : Inst), s.mat.jobs = j :: rest → findInst s j.uid = some i → j.w.src = true →
        j.rxch = ch → j.blk ≠ 0 → j.taken < mmaRows j.w.shape →
          (i.ringScene = false → exec (.vc0FlitUsed ch) s = .next s) ∧
          (i.ringScene = true →
            let mine := fun f : Flit => namesUs s f = true ∧ flCh f = ch ∧ flGtag f = i.gtag ∧ flRun f = i.grun
            ((∀ pre g post, s.rev.rx0 = pre ++ g :: post → mine g → ∃ y ∈ pre, line g y) →
              exec (.vc0FlitUsed ch) s = .next s) ∧
            ∀ pre f post, s.rev.rx0 = pre ++ f :: post → mine f → (∀ y ∈ pre, ¬ line f y) →
              (∀ a g b, pre = a ++ g :: b → mine g → ∃ y ∈ a, line g y) →
                let bits := tileBits j.w.afmt
                let rows := (List.range (16 / bits)).map fun k => (List.range 128).map fun c =>
                  bvGet f.data (128 * bits * k + bits * c) bits
                let u := ringRows { s with rev := { s.rev with rx0 := pre ++ post } } j rows
                let left := flMask f &&& ~~~(BitVec.ofNat 64 (2 ^ s.boot.ties.clusterId.toNat))
                let v := if left = 0 then freeAt u .west f
                  else forwardEast u j.uid j.seq { f with hdr := bvPut f.hdr 12 64 left.toNat }
                exec (.vc0FlitUsed ch) s = .next (passRx0 v.rev.rx0.length v))) ∧
  ∀ s : State,
    let t := passRx0 s.rev.rx0.length s
    ∃ gone, (gone ++ t.rev.rx0).Perm s.rev.rx0 ∧ t.rev.rx0.Sublist s.rev.rx0 ∧ (∀ f ∈ gone, namesUs s f = false) ∧
      t.rev.east.out = s.rev.east.out ++ gone.map (fun f => ⟨0, flCh f, false, 0, 0, true, .flit f⟩) ∧
      ∀ pre f post, t.rev.rx0 = pre ++ f :: post → namesUs s f = false →
        ∃ y ∈ pre, flSrc f = flSrc y ∧ flCh f = flCh y

/-- FLIT_SEND: what was refused goes again first, in order; otherwise, when the arbiter serves the channel's VC, the
oldest flit of the channel that may go goes, into a retry buffer of 16: VC3 always wins, VC0 to VC2 take turns; a
flit needs one credit, two to inject on VC0 and VC1, and nothing of the cluster's own but VC3 goes in pass-through,
nor is injected on a ring that is down (R275, R276, R299, R301). The beats carry header and SEQ first, the CRC last,
at generation 1 half a flit each (17 R429). CREDIT_RETURN adds one credit; LINK_ACK empties the retry buffer up to
the flit it names; LINK_NAK sends that flit and all later ones again, and the same one refused twice marks the link
down (R275, R276; 17 R430, R431). Of these the model's choices: log 3, an event whose precondition does not hold
changes nothing; log 22, messages and lanes as operands. -/
def Obligations.LinkSending : Prop :=
  ∀ (s : State) (side : Side),
    let p := getPort s side
    (∀ vc ch : BitVec 2,
      let is := fun o : OutFlit => o.vc = vc ∧ (vc = 0 → o.ch = ch)
      let go := exec (.flitSend side vc ch) s
      let ready := fun v : BitVec 2 => ∃ x ∈ p.out, x.vc = v ∧ mayGo s p x = true
      let served := if ready 3 then vc = 3
        else ∃ k < 3, vc = BitVec.ofNat 2 ((p.turn.toNat + k) % 3) ∧ ready vc ∧
          ∀ j < k, ¬ ready (BitVec.ofNat 2 ((p.turn.toNat + j) % 3))
      (p.dead = true → go = .next s) ∧
      (∀ q o rest, p.dead = false → p.resend = (q, o) :: rest →
        (is o → go = .next (perfAdd (setPort s side
          { p with resend := rest, fo := flitBeats s.rev.gen q (bodyFlit o.body) }) 0x0507 1)) ∧
        (¬ is o → go = .next s)) ∧
      (p.dead = false → p.resend = [] → (¬ served ∨ 16 ≤ p.retry.length ∨ ∀ o ∈ p.out, is o → mayGo s p o = false) →
        go = .next s) ∧
      (∀ pre o post, p.dead = false → p.resend = [] → served → p.retry.length < 16 → p.out = pre ++ o :: post →
        (∀ x ∈ pre, is x → mayGo s p x = false) → is o → mayGo s p o = true →
          go = .next (redFinish (countSend (freeSent (setPort s side { p with
            out := pre ++ post, cr := creditMap p.cr o.vc o.ch (· - 1), retry := p.retry ++ [(p.txSeq, o)]
            txSeq := p.txSeq + 1, turn := if vc = 3 then p.turn else BitVec.ofNat 2 ((vc.toNat + 1) % 3)
            fo := flitBeats s.rev.gen p.txSeq (bodyFlit o.body) }) side o) side o))) ∧
      ∀ o : OutFlit,
        let own := o.inject = true ∧ o.vc ≠ 3
        mayGo s p o = true ↔ (if own ∧ o.vc ≠ 2 then 2 else 1) ≤ creditOf p.cr o.vc o.ch ∧
          ¬ (own ∧ passThrough s = true) ∧ ¬ (own ∧ o.vc ≠ 2 ∧ s.rev.line = true)) ∧
    (∀ (f : Flit) (q : BitVec 5) (gen : BitVec 2) (c : BitVec 6),
      let half := fun k => BitVec.ofNat 2048 (bvGet f.data (1024 * k) 1024)
      bodyFlit (.flit f) = f ∧ flVc (bodyFlit (.stage (.fence c))) = 3 ∧ flType (bodyFlit (.stage (.fence c))) = 2 ∧
      flSrc (bodyFlit (.stage (.fence c))) = c.toNat ∧
      flitBeats gen q f = if gen = 1 then [⟨false, f.hdr, q, half 0, 0⟩, ⟨true, 0, 0, half 1, flitCrc f⟩]
        else [⟨false, f.hdr, q, f.data, flitCrc f⟩]) ∧
    (∀ vc ch : BitVec 2, exec (.creditReturn side vc ch) s
      = .next (setPort s side { p with cr := creditMap p.cr vc ch (· + 1) }) ∧
      creditOf (creditMap p.cr vc ch (· + 1)) vc ch = creditOf p.cr vc ch + 1) ∧
    ∀ seq : BitVec 5,
      ((∀ e ∈ p.retry, e.1 ≠ seq) → exec (.linkAck side seq) s = .next s ∧ exec (.linkNak side seq) s = .next s) ∧
      ∀ pre o post, p.retry = pre ++ (seq, o) :: post → (∀ e ∈ pre, e.1 ≠ seq) →
        (∃ r, exec (.linkAck side seq) s = .next (setPort s side { p with retry := post, resend := r, txFail := none }) ∧
          ∀ x, x ∈ r ↔ x ∈ p.resend ∧ ∃ y ∈ post, y.1 = x.1) ∧
        (p.dead = true → exec (.linkNak side seq) s = .next s) ∧
        (p.dead = false →
          let u := setPort s side { p with resend := (seq, o) :: post, txFail := some seq }
          exec (.linkNak side seq) s = .next (if p.txFail = some seq then linkDown u side else u))

/-- TRAIN: a stop that is not ready holds it; a stop other than cluster 0 adds itself in the first round and records
the outcome in the second; cluster 0 closes the ring, which must name 16 to 64 clusters, 0 to N - 1 in order, of one
die. A stop records one outcome: a failure, or the ring's size, generation and the credits of its neighbours'
buffers, and one whose cluster is not released then sends FENCE. TRAINING_TIMEOUT records STATUS 5 (R278, R279, R297,
R299; 17 R431). Of these the model's choices: log 3, an event whose precondition does not hold changes nothing. Of
these the model's choices: log 3, an event whose precondition does not hold changes nothing; log 24, ZC-3 clusters;
log 45, release before training. -/
def Obligations.Training : Prop :=
  (∀ (s : State) (a : Arrival) (m : TrainMsg),
    let p := getPort s a.side
    let run := exec (.train ⟨a, m⟩) s
    let u := setPort s a.side { p with rxSeq := p.rxSeq + 1, nakked := false, rxFail := none, koAck := true, koNak := false
                                       koSeq := a.seq, crRet := p.crRet ++ [(3, 0)] }
    let refused := countCrc (setPort s a.side
      { p with nakked := true, rxFail := some a.seq, koAck := false, koNak := true, koSeq := a.seq }) a.side
    let me := s.boot.ties.clusterId
    ((p.dead = true ∨ a.seq ≠ p.rxSeq) → run = .next s) ∧
    (p.dead = false → a.seq = p.rxSeq →
      (a.ok = false → run = .next (if p.rxFail = some a.seq then linkDown refused a.side else refused)) ∧
      (a.ok = true → s.rev.ready = false → run = .next { u with rev := { u.rev with heldTrain := some m } }) ∧
      (a.ok = true → s.rev.ready = true →
        (∀ ids, m = .collect ids → me ≠ 0 → run
          = .next (pushStage u (.train (.collect (ids ++ [⟨me, 2, s.boot.ties.dieId, 64, 32, 16, 4⟩]))))) ∧
        (∀ ids, m = .collect ids → me = 0 → run = .next (trainRecord
          (pushStage u (.train (.outcome (trainStatus ids) (BitVec.ofNat 7 ids.length) (trainGen ids) ids)))
          (trainStatus ids) (BitVec.ofNat 7 ids.length) (trainGen ids) ids)) ∧
        (∀ st n g ids, m = .outcome st n g ids →
          (me = 0 → run = .next u) ∧
          (me ≠ 0 → run = .next (trainRecord (forwardStage u .east (.train m)) st n g ids)))))) ∧
  (∀ ids : List TrainId,
    ((ids.length < 16 ∨ 64 < ids.length) → trainStatus ids = 3) ∧
    (16 ≤ ids.length → ids.length ≤ 64 →
      ((∃ k, k < ids.length ∧ (ids[k]?).map (fun x => x.cluster.toNat) ≠ some k) → trainStatus ids = 2) ∧
      ((∀ k, k < ids.length → (ids[k]?).map (fun x => x.cluster.toNat) = some k) →
        ((∃ x ∈ ids, ∃ y ∈ ids, x.die ≠ y.die) → trainStatus ids = 4) ∧
        ((∀ x ∈ ids, ∀ y ∈ ids, x.die = y.die) → trainStatus ids = 0))) ∧
    ((∀ x ∈ ids, 2 ≤ x.gen.toNat) → trainGen ids = 2) ∧ ((∃ x ∈ ids, x.gen.toNat < 2) → trainGen ids = 1)) ∧
  (∀ (s : State) (st : BitVec 3) (n : BitVec 7) (g : BitVec 2) (ids : List TrainId) (e w : TrainId),
    let t := trainRecord s st n g ids
    let me := s.boot.ties.clusterId.toNat
    let credits := fun (c : Credits) (x : TrainId) =>
      let q := x.vc0.toNat / 4
      (⟨q, q, q, q, x.vc1.toNat, x.vc2.toNat, c.v3 + x.vc3.toNat - 4⟩ : Credits)
    ((s.rev.done = true ∨ s.rev.status ≠ 1) → t = s) ∧
    (s.rev.done = false → s.rev.status = 1 →
      (st ≠ 0 → t = { s with rev := { s.rev with status := st } }) ∧
      (st = 0 → ids[(me + 1) % ids.length]? = some e → ids[(me + ids.length - 1) % ids.length]? = some w →
        t.rev.done = true ∧ t.rev.status = 0 ∧ t.rev.n = n ∧ t.rev.gen = g ∧
        t.rev.east.cr = credits s.rev.east.cr e ∧ t.rev.west.cr = credits s.rev.west.cr w ∧
        (s.boot.released = false → s.rev.line = false →
          ∃ o ∈ t.rev.east.out, o.body = .stage (.fence s.boot.ties.clusterId))))) ∧
  ∀ s : State,
    (s.rev.ready = true → s.rev.done = false → s.rev.status = 1 →
      exec .trainingTimeout s = .next { s with rev := { s.rev with status := 5 } }) ∧
    ((s.rev.ready = false ∨ s.rev.done = true ∨ s.rev.status ≠ 1) → exec .trainingTimeout s = .next s)

/-- The Stage Door messages: each takes its place at a port and returns its credit, a stop removes its own, and acts
on another's and forwards it away from that port; in pass-through GROUP_END, GROUP_REPLAY and GROUP_ABANDON are only
forwarded. GROUP_END counts for the current run of the group, GROUP_REPLAY ends a member's run for its replay but
neither an abort nor an abandonment, GROUP_ABANDON abandons it. FENCE and REJOIN set and clear the sender's bit of
REV_PT.MAP; RING_DOWN sets DOWN and travels on; REJOIN_COMPLETE ends pass-through (R293 to R301; 14 R355; 17 R430).
Of these the model's choices: log 3, an event whose precondition does not hold changes nothing; log 22, messages and
lanes as operands; log 26, GROUP_REPLAY, GROUP_END and RUN; log 39, when GROUP_ABANDON is sent; log 45, release
before training; log 48, Stage Door on a broken ring. -/
def Obligations.StageDoor : Prop :=
  ∀ (s : State),
    let me := s.boot.ties.clusterId
    (∀ (x : StageFrom) (gtag : BitVec 16) (run : BitVec 4) (status : BitVec 16) (east : Bool),
      let a := x.at_
      let c := x.cluster
      let p := getPort s a.side
      let u := setPort s a.side { p with rxSeq := p.rxSeq + 1, nakked := false, rxFail := none, koAck := true, koNak := false
                                         koSeq := a.seq, crRet := p.crRet ++ [(3, 0)] }
      let refused := countCrc (setPort s a.side
        { p with nakked := true, rxFail := some a.seq, koAck := false, koNak := true, koSeq := a.seq }) a.side
      let on := fun (t : State) (m : StageMsg) => forwardStage t (opposite a.side) m
      let setMap := fun (t : State) (b : Bool) => { t with rev := { t.rev with ptMap := bvSet t.rev.ptMap c.toNat b } }
      let cmds : List Instr := [.curtain x, .groupEnd gtag run x, .groupReplay gtag run x,
        .groupAbandon gtag run status x, .fence x, .rejoin x, .ringDown ⟨x, east⟩]
      ((p.dead = true ∨ a.seq ≠ p.rxSeq) → ∀ i ∈ cmds, exec i s = .next s) ∧
      (p.dead = false → a.seq = p.rxSeq → a.ok = false →
        ∀ i ∈ cmds, exec i s = .next (if p.rxFail = some a.seq then linkDown refused a.side else refused)) ∧
      (p.dead = false → a.seq = p.rxSeq → a.ok = true →
        exec (.ringDown ⟨x, east⟩) s = .next (ringLost (on u (.ringDown c east))) ∧
        (c = me → (∀ i ∈ cmds.take 5, exec i s = .next u) ∧ exec (.rejoin x) s
          = .next (if s.rev.rejoining then { u with rev := { u.rev with rejoinBack := true } } else u)) ∧
        (c ≠ me →
          exec (.curtain x) s = .next (on (curtainAct u) (.curtain c)) ∧
          exec (.fence x) s = .next (on (setMap u true) (.fence c)) ∧
          exec (.rejoin x) s = .next (on (setMap u false) (.rejoin c)) ∧
          (passThrough s = true →
            exec (.groupEnd gtag run x) s = .next (on u (.groupEnd gtag run c)) ∧
            exec (.groupReplay gtag run x) s = .next (on u (.groupReplay gtag run c)) ∧
            exec (.groupAbandon gtag run status x) s = .next (on u (.groupAbandon gtag run status c))) ∧
          (passThrough s = false →
            let ends := fun v => exec (.groupEnd gtag run x) s = .next (on v (.groupEnd gtag run c))
            let replays := fun v => exec (.groupReplay gtag run x) s = .next (on v (.groupReplay gtag run c))
            let abandons := fun v => exec (.groupAbandon gtag run status x) s = .next (on v (.groupAbandon gtag run status c))
            let later := { u with rev := { u.rev with gends := u.rev.gends ++ [(gtag, run, c)] } }
            let clear := { u with rev := { u.rev with gends := u.rev.gends.filter fun x => !(x.1 == gtag && x.2.1 == run) } }
            ((∀ i ∈ s.seq.insts, ¬ (inGroup i = true ∧ i.gtag = gtag)) → ends later) ∧
            (∀ i, (s.seq.insts.find? fun i => inGroup i && i.gtag == gtag) = some i →
              (i.grun ≠ run → ends u) ∧
              (i.grun = run → (gtag, run, c) ∈ i.gends → ends later) ∧
              (i.grun = run → (gtag, run, c) ∉ i.gends →
                ends (setInst u i.uid fun i => { i with gends := i.gends ++ [(gtag, run, c)] }))) ∧
            ((∀ i ∈ s.seq.insts, ¬ (inGroup i = true ∧ i.gtag = gtag ∧ i.grun = run)) → replays u ∧ abandons clear) ∧
            ∀ i, (s.seq.insts.find? fun i => inGroup i && i.gtag == gtag && i.grun == run) = some i →
              let entry := fun f => logWord eReplayed 12 f s.pwr.tickNum i.scene i.replays 0 0 0
              let next := fun v => purgeStale (setInst v i.uid fun i => { i with grun := i.grun + 1, gends := [] })
              let ended := endRun u i.uid ⟨.check, eReplayed, 0, false, false, some (entry 9)⟩ false
              abandons (abandonInst clear i.uid status false) ∧
              (i.ending = none → i.st = .replayPending → replays (next (logAdd u (entry 9)))) ∧
              (i.ending = none → i.st ≠ .replayPending → replays ended) ∧
              ∀ e, i.ending = some e → (e.kind = .fault → replays ended) ∧
                (e.kind = .check → replays (next (logAdd u (entry 25)))) ∧
                ((e.kind = .abort ∨ e.kind = .leave) → replays (logAdd u (entry 24))))))) ∧
    (∀ t : State, (ringLost t).rev.down = true ∧ (ringLost t).rev.line = true) ∧
    (s.rev.rejoining = true → s.rev.rejoinBack = true → s.rev.rejoinTick = true → exec .rejoinComplete s
      = .next { s with rev := { s.rev with pt := false, rejoining := false, rejoinBack := false, rejoinTick := false
                                           ptMap := bvSet s.rev.ptMap me.toNat false } }) ∧
    ((s.rev.rejoining = false ∨ s.rev.rejoinBack = false ∨ s.rev.rejoinTick = false) →
      exec .rejoinComplete s = .next s)

/-! ## Mailboxes and firmware (15, 02) -/

/-- Firmware takes the doorbell that is next, refuses the command in the order of Table 15-4 or carries it out, and
completes it: its slot is DONE with the status in bytes 4 to 7, the operation and port bytes as they were, and the
management mailbox's DONE interrupt set. Doorbells are taken in their order, by firmware after release, and by the
boot ROM of a cluster that holds from the management mailbox only; none is taken while a LOAD reads its module,
during a firmware restart or while a reset holds the cluster. A command that is not next is not taken (R371, R372,
R374, R375; 16 R399). A doorbell of the debug port is carried as the debug state allows: none, QUERY, or all (R372).
Of these the model's choices: log 3, an event whose precondition does not hold changes nothing; log 9, who takes the
head of the doorbells; log 34, the test access port. -/
def Obligations.FirmwareTakes : Prop :=
  (∀ (s : State) (m : Mbx) (k : BitVec 3) (first : BitVec 4),
    ∀ x ∈ ([(.negotiate m k, 1, negotiateBody m k), (.query m k, 2, queryBody), (.load m k first, 3, loadBody m k first (slotBytes s)),
        (.unload m k, 4, unloadBody), (.enqueue m k, 5, enqueueBody m), (.abort m k, 6, abortBody),
        (.clearfault m k, 7, clearfaultBody), (.xltResume m k, 8, recordBody resumeRecord),
        (.xltAbort m k, 9, recordBody abortRecord), (.tenant m k, 10, tenantBody m k), (.curtainCommand m k, 11, curtainBody),
        (.withdraw m k, 12, withdrawBody), (.fenceCommand m k, 13, fenceBody), (.rejoinCommand m k, 14, rejoinBody)] :
          List (Instr × Nat × (State → BitVec 1024 → Served))),
      let w := slotWord s m k
      let op := byteField w 0 1
      ((∀ rest, nextDoorbell s ≠ some ((m, k), rest)) → exec x.1 s = .next s) ∧
      (1 ≤ op → op ≤ 14 → op ≠ x.2.1 → exec x.1 s = .next s) ∧
      ∀ rest, nextDoorbell s = some ((m, k), rest) → (op = x.2.1 ∨ op = 0 ∨ 14 < op) →
        let u := setSlot { s with ctl := { s.ctl with order := rest } } m k .busy w
        let done := fun t e p => completeCmd t m k (slotBytes s) e p
        (∀ e, acceptFault u m k w = some e → exec x.1 s = .next (done u e 0)) ∧
        (acceptFault u m k w = none → exec x.1 s = .next (match x.2.2 u w with
          | .reject e => done u e 0
          | .done t p => done t stOk p
          | .later t => t))) ∧
  (∀ s : State,
    let up := s.boot.poreset = true ∧ s.boot.clreset = true ∧ s.boot.off = false ∧ s.ctl.restarting = false ∧ s.ctl.load = none
    let hold := s.chk.cfgState = 2 ∨ s.chk.cfgState = 3
    (¬ (up ∧ (s.boot.released = true ∨ hold)) → nextDoorbell s = none) ∧
    (∀ d rest, up → s.boot.released = true → s.ctl.order = d :: rest → nextDoorbell s = some (d, rest)) ∧
    (∀ pre k post, up → s.boot.released = false → hold → s.ctl.order = pre ++ (.mgmt, k) :: post → (∀ d ∈ pre, d.1 = .user) →
      nextDoorbell s = some ((.mgmt, k), pre ++ post)) ∧
    (s.boot.released = false → (∀ d ∈ s.ctl.order, d.1 = .user) → nextDoorbell s = none)) ∧
  (∀ (s : State) (m : Mbx) (k : BitVec 3) (w : BitVec 1024),
    let op := byteField w 0 1
    let hold := s.chk.cfgState = 2 ∨ s.chk.cfgState = 3
    let debug := s.ctl.dport.getLsbD k.toNat = true
    let port := m = .mgmt ∧ (¬ debug ∨ debugState s = 2 ∨ (debugState s = 1 ∧ op = 2)) ∨
      m = .user ∧ 2 ≤ op ∧ op ≤ 9 ∧ s.feat.grant1.getLsbD 6 = true ∧ s.ctl.owner ≠ 0
    (row1 s w = false → acceptFault s m k w = some eBadval) ∧
    (row1 s w = true → hold → op ≠ 2 →
      acceptFault s m k w = some (if s.chk.cfgState = 2 then eConfigConflict else eNoimage)) ∧
    (row1 s w = true → (op = 2 ∨ ¬ hold) → ¬ port → acceptFault s m k w = some ePort) ∧
    (row1 s w = true → ¬ hold → port → op ≠ 2 → s.chk.withdrawn = true → acceptFault s m k w = some eWithdrawn) ∧
    (row1 s w = true → ¬ hold → port → op ≠ 2 → s.chk.withdrawn = false →
      (s.feat.granted = false ∧ op ≠ 1 ∨ s.ctl.wipe ≠ none) → acceptFault s m k w = some eBadstate) ∧
    (row1 s w = true → port → (op = 2 ∨ ¬ hold ∧ s.chk.withdrawn = false ∧ (s.feat.granted = true ∨ op = 1) ∧
      s.ctl.wipe = none) → acceptFault s m k w = if row7 s w op then none else some eBadval)) ∧
  ∀ (s : State) (m : Mbx) (k : BitVec 3) (size payload : Nat) (e : Code), 16 ≤ size → size ≤ 128 →
    let t := completeCmd s m k size e payload
    slotState t m k = .done ∧ byteField (slotWord t m k) 4 4 = e.toNat ∧
    byteField (slotWord t m k) 0 4 = byteField (slotWord s m k) 0 4 ∧
    byteField (slotWord t m k) 8 (size - 8) = payload % 256 ^ (size - 8) ∧
    (∀ m' k', (m', k') ≠ (m, k) → slotState t m' k' = slotState s m' k' ∧ slotWord t m' k' = slotWord s m' k') ∧
    (m = .mgmt → t.ctl.irqStat.getLsbD 0 = true) ∧ t.seq = s.seq ∧ t.strm = s.strm ∧ t.feat = s.feat ∧ t.rev = s.rev
/-- What the commands of a module and its scenes do: NEGOTIATE grants what is proposed and available, with one ABI
bit, QUERY answers its items, UNLOAD removes the module and its window buffers, ENQUEUE appends an instance that
waits for earlier instances of the scenes it depends on (R32 to R36, R375, R378, R379, R386; 09 R231). LOAD: refused
while a module is loaded, or in service mode on an owned cluster; then firmware reads the module at the port, the
64-byte header first, each read with the owner's tenant ID, class DATA and the translation of R265; a fault, a
refusal or an uncorrectable answer completes LOAD with its status, MODULE_BYTES other than BYTES with E_BADVAL, and
when every byte has been read the first failing check of Table 9-10 refuses the module or it is loaded with its
window buffers (R369, R377; 09 R226; 12 Table 12-8). Of these the model's choices: log 8, the reads of LOAD and of
image copies; log 20, numbers that the cluster chooses; log 46, the loader. -/
def Obligations.ModuleCommands : Prop :=
  (∀ (s : State) (m : Mbx) (k : BitVec 3) (w : BitVec 1024),
      (let ready := s.rev.done = true ∧ s.seq.modl = none ∧ s.seq.insts = [] ∧ otherUsed s m k = false
       let g0 := BitVec.ofNat 64 (byteField w 8 8) &&& avail0 s
       let g1 := BitVec.ofNat 64 (byteField w 0x10 8) &&& avail1
       let service := byteField w 0x18 1 = 1
       let legal := g0 &&& 7 ≠ 0 ∧ g0 &&& 0x18 ≠ 0 ∧ g0 &&& 0x60 ≠ 0
       let abi : DWord := if g0.getLsbD 2 then 4 else if g0.getLsbD 1 then 2 else 1
       let h0 := (g0 &&& ~~~7) ||| abi
       let h1 := if service then g1 else g1 &&& ~~~0x4000
       (¬ ready → negotiateBody m k s w = .reject eBadstate) ∧ (ready → ¬ legal → negotiateBody m k s w = .reject eFeature) ∧
       (ready → legal → negotiateBody m k s w
         = .done { s with feat := ⟨h0, h1, true, byteField w 0x18 1 == 1⟩ } (h0.toNat + h1.toNat * 2 ^ 64))) ∧
      (∃ d, queryBody s w = .done s d ∧
        (byteField w 8 1 = 0 → d = s.boot.fwver.toNat + s.chk.cfgGen.toNat * 2 ^ 32 + s.chk.cfgCopy.toNat * 2 ^ 48
          + abiGen s * 2 ^ 56 + 0x32 * 2 ^ 64) ∧
        (2 ≤ byteField w 8 1 → d % 4096 = s.ctl.owner.toNat ∧ d / 2 ^ 19 % 2 = (if s.chk.withdrawn then 1 else 0) ∧
          (s.seq.insts.length < 65536 → d / 2 ^ 24 % 65536 = s.seq.insts.length))) ∧
      ((s.seq.modl = none ∨ s.seq.insts ≠ []) → unloadBody s w = .reject eBadstate) ∧
      (s.seq.modl ≠ none → s.seq.insts = [] → ∃ t, unloadBody s w = .done t 0 ∧ t.seq = { s.seq with modl := none } ∧
        t.strm.bufs = s.strm.bufs.filter (fun b => b.owner != none) ∧ (∀ a, padGet t.pad a = padGet s.pad a) ∧
        t.ctl = s.ctl ∧ t.vec = s.vec) ∧
      (s.seq.modl = none → enqueueBody m s w = .reject eBadstate) ∧
      ∀ md, s.seq.modl = some md →
        let scene := byteField w 8 2
        (md.scenes.length ≤ scene → enqueueBody m s w = .reject eBadval) ∧
        (scene < md.scenes.length → 256 ≤ s.seq.insts.length → enqueueBody m s w = .reject eFull) ∧
        (scene < md.scenes.length → s.seq.insts.length < 256 → ∃ t i, enqueueBody m s w = .done t s.seq.insts.length ∧
          t.seq = { s.seq with nextUid := s.seq.nextUid + 1, insts := s.seq.insts ++ [i] } ∧ i.uid = s.seq.nextUid ∧
          i.scene = scene ∧ i.handle.toNat = byteField w 0x0C 4 ∧ i.origin = m ∧ i.replays = 0 ∧ i.ending = none ∧
          i.args.length = 8 ∧ (∀ j < 8, (i.args.getD j 0).toNat =
            if j < byteField w 10 1 then byteField w (0x10 + 8 * j) 8 else 0) ∧
          i.st = (if s.seq.insts.any fun x => (sceneDeps s scene).contains x.scene then .waiting else .ready) ∧
          t.strm = s.strm ∧ t.ctl = s.ctl ∧ t.vec = s.vec)) ∧
  (∀ (s : State) (m : Mbx) (k : BitVec 3) (first : BitVec 4) (n : Nat) (w : BitVec 1024),
    let free := s.seq.modl = none ∧ ¬ (s.feat.service = true ∧ s.ctl.owner ≠ 0)
    (¬ free → loadBody m k first n s w = .reject eBadstate) ∧
    (free → loadBody m k first n s w
      = .later (loadNext { s with ctl := { s.ctl with load := some ⟨m, k, n, w, [], 64, false, false, first⟩ } }))) ∧
  ∀ (s : State) (j : LoadJob), s.ctl.load = some j →
    let va := byteField j.word 8 8
    let bytes := byteField j.word 0x10 4
    let o := j.image.length
    let ends := fun (t : State) (e : Code) (p : Nat) =>
      completeCmd { t with ctl := { t.ctl with load := none } } j.mbx j.slot j.size e p
    ((j.issued = true ∨ j.walking = true) → loadNext s = s) ∧
    (j.issued = false → j.walking = false →
      (∀ lv rs, xlLookup s (va + o) false = .fault lv rs → loadNext s = ends s eXlate 0) ∧
      (∀ u, xlLookup s (va + o) false = .walk → startWalk s (va + o) false .load none = some u →
        loadNext s = { u with ctl := { u.ctl with load := some { j with walking := true } } }) ∧
      ∀ pa tag, xlLookup s (va + o) false = .hit pa →
        let tags := s.strm.reqs.map (·.tag) ++ s.strm.landed.map (·.req.tag) ++ s.strm.orphans
        (lowestFree tags (4176 + j.first.toNat) (16 - j.first.toNat) <|> lowestFree tags 4176 16) = some tag →
          let n := min (4 - pa % 256 / 64) ((j.upto - o + 63) / 64)
          loadNext s = { s with
            strm := { s.strm with reqs := s.strm.reqs ++
              [⟨tag, 0, BitVec.ofNat 52 pa, BitVec.ofNat 2 (n - 1), 0, false, s.ctl.owner, 0, 0, 0, 0, [], none, .load o⟩] }
            ctl := { s.ctl with load := some { j with issued := true } } }) ∧
    (∀ w lv rs, w.for_ = .load → walkFault s w lv rs = ends s eXlate 0) ∧
    (∀ w a, w.for_ = .load → walkEnd s w a = ends s (answerCode a) 0) ∧
    (∀ (r : Req) (a : Answer) (data : BitVec 2048), j.issued = true → r.owner = .load o →
      let n := 64 * (r.len.toNat + 1)
      let got := { j with issued := false, image := j.image ++ natBytes n (laneGet data r.addr.toNat n) }
      let image := got.image.take bytes
      let u := { s with ctl := { s.ctl with load := some got } }
      (a ≠ .ok → answerReq s r a data = ends s (answerCode a) 0) ∧
      (a = .ok → got.image.length < j.upto → answerReq s r a data = loadNext u) ∧
      (a = .ok → j.upto ≤ got.image.length → leAt got.image 0x24 4 ≠ bytes → answerReq s r a data = ends u eBadval 0) ∧
      (a = .ok → j.upto ≤ got.image.length → leAt got.image 0x24 4 = bytes →
        (j.upto < bytes →
          answerReq s r a data = loadNext { s with ctl := { s.ctl with load := some { got with upto := bytes } } }) ∧
        (∀ e, bytes ≤ j.upto → loadCheck u (byteField j.word 0x14 1) image va = some e →
          answerReq s r a data = ends u e 0) ∧
        (bytes ≤ j.upto → loadCheck u (byteField j.word 0x14 1) image va = none →
          let md := moduleOf image va
          ∃ t, answerReq s r a data
              = ends t stOk (md.scenes.length + (md.wins.map fun x => (x.2.2 + 65535) / 65536).sum * 2 ^ 32) ∧
            t.seq.modl = some md ∧ md.va = va ∧ t.seq.insts = s.seq.insts ∧
            t.strm.bufs = s.strm.bufs ++ windowBufs md ∧
            (Pad.wf s.pad = true → ∀ b ∈ windowBufs md, ∀ f ∈ b.frames, f < 512 → ∀ x < 65536,
              padGet t.pad (65536 * f + x) = 0) ∧
            t.feat = s.feat ∧ t.ctl = u.ctl ∧ t.vec = s.vec ∧ t.rev = s.rev ∧ t.strm.reqs = s.strm.reqs)))
/-- ABORT ends the RUNNING instance, or with SCOPE 1 removes all but the DRAINING ones; CLEARFAULT requeues the
earliest ABANDONED instance, or removes it with every instance that depends on it directly or through others;
XLT_RESUME lets what a held record suspended go on and walk afresh, XLT_ABORT ends it with E_XLATE and abandons its
scene, which is no check event; TENANT begins the wipe, which WIPE_COMPLETE ends with the new owner; CURTAIN,
WITHDRAW, FENCE and REJOIN as the units they act on (R380 to R383, R387, R388, R299, R360, R405; 10 R269, R270; 13
R347). An ended run fetches, queues and issues nothing more, and its unissued commits are cancelled; once nothing of
it is in flight it is ABANDONED, the fetch of other runs is held, and its buffers, stream slots and leases end; ABORT
overrides an ending by a check event and tells the group (R221, R222, R343, R354, R404). Of these the model's
choices: log 3, an event whose precondition does not hold changes nothing; log 31, details of the wipe; log 38, the
steps of a withdrawal; log 39, when GROUP_ABANDON is sent; log 40, aborts that meet an ending run; log 41,
translation details. -/
def Obligations.ControlCommands : Prop :=
  ∀ (s : State) (m : Mbx) (k : BitVec 3) (w : BitVec 1024),
    let n := byteField w 8 1
    (n = 0 → (∃ i ∈ s.seq.insts, i.st = .running ∧ i.ending = none) → abortBody s w = .done (abortRunning s false) 0) ∧
    (n = 0 → (∀ i ∈ s.seq.insts, ¬ (i.st = .running ∧ i.ending = none)) → abortBody s w = .reject eBadstate) ∧
    (n ≠ 0 → ∃ t, abortBody s w = .done t 0 ∧ ∀ i ∈ t.seq.insts, i.st = .draining ∨ i.st = .running) ∧
    ((∀ i ∈ s.seq.insts, i.st ≠ .abandoned) → clearfaultBody s w = .reject eBadstate) ∧
    (∀ pre i post, s.seq.insts = pre ++ i :: post → (∀ j ∈ pre, j.st ≠ .abandoned) → i.st = .abandoned →
      (s.seq.insts.map (·.uid)).Nodup → ∃ t, clearfaultBody s w = .done t 0 ∧
        (n = 0 → t.seq.insts.map (·.uid) = s.seq.insts.map (·.uid) ∧ ∀ j ∈ t.seq.insts, j.uid = i.uid →
          j.replays = 0 ∧ j.alog = [] ∧ (j.st = .ready ∨ j.st = .waiting) ∧ j.scene = i.scene ∧ j.args = i.args) ∧
        (n ≠ 0 → let kept := fun x : Inst => ∃ j ∈ t.seq.insts, j.uid = x.uid
          ¬ kept i ∧ (∀ j ∈ pre, kept j) ∧
          ∀ mid j rest, post = mid ++ j :: rest →
            (kept j ↔ ∀ x ∈ i :: mid, x.scene ∈ sceneDeps s j.scene → kept x)) ∧
        (s.seq.held = true → t.seq.held = t.seq.insts.any fun j => j.st == .abandoned)) ∧
    (n ∉ heldRecords s → recordBody resumeRecord s w = .reject eBadstate ∧ recordBody abortRecord s w = .reject eBadstate) ∧
    (n ∈ heldRecords s → recordBody resumeRecord s w = .done (resumeRecord s n) 0 ∧
      recordBody abortRecord s w = .done (abortRecord s n) 0) ∧
    (let named := fun f : Option XltFault => ∃ x, f = some x ∧ x.record = n
     (∃ u, resumeRecord s n = kickUpd (kickAsides u) ∧
        (∀ e, e ∈ u.strm.tlb ↔ e ∈ s.strm.tlb ∧ ∀ f ∈ heldFaults s, f.record = n → ¬ (e.va ≤ f.va ∧ f.va < e.va + 2 ^ e.bits)) ∧
        u.strm.streams.length = s.strm.streams.length ∧ u.strm.asides.length = s.strm.asides.length ∧
        (∀ (k : Nat) (x : Stream), s.strm.streams[k]? = some x →
          (named x.susp → u.strm.streams[k]? = some { x with susp := none }) ∧
          (¬ named x.susp → u.strm.streams[k]? = some x)) ∧
        (∀ (k : Nat) (x : Aside), s.strm.asides[k]? = some x →
          (named x.susp → u.strm.asides[k]? = some { x with susp := none }) ∧ (¬ named x.susp → u.strm.asides[k]? = some x)) ∧
        (∀ x, s.upd.cur = some x → (named x.susp → u.upd.cur = some { x with susp := none }) ∧
          (¬ named x.susp → u.upd.cur = some x)) ∧
        (∀ (k : Nat) (x : UpdWrite), s.upd.writes[k]? = some x →
          (named x.susp → u.upd.writes[k]? = some { x with susp := none }) ∧ (¬ named x.susp → u.upd.writes[k]? = some x)) ∧
        u.seq = s.seq ∧ u.chk = s.chk ∧ u.pad = s.pad) ∧
     let ended := fun (uid : Nat) (slot : BitVec 6) (p : State → Prop) => ∃ u, abortRecord s n = abandonRun u uid eXlate true ∧
       u.strm.errLast = ⟨true, slot, eXlate⟩ ∧ p u ∧ u.seq = s.seq ∧ u.chk.events = s.chk.events ∧ u.pad = s.pad
     (∀ x, (s.strm.streams.find? fun x => hasRecord n x.susp) = some x → named x.susp ∧
       ended x.uid (BitVec.ofNat 6 x.phys) fun u => ∀ y ∈ u.strm.streams, y.id = x.id →
         y.stopped = true ∧ y.status = some eXlate ∧ y.susp = none) ∧
     ((∀ x ∈ s.strm.streams, ¬ named x.susp) →
       (∀ x, (s.strm.asides.find? fun x => hasRecord n x.susp) = some x →
         named x.susp ∧ ended x.uid 0x3F fun u => ∀ y ∈ u.strm.asides, y.tag ≠ x.tag) ∧
       ((∀ x ∈ s.strm.asides, ¬ named x.susp) →
         (∀ x, s.upd.cur = some x → named x.susp → ended x.uid 0x3E fun u => u.upd.cur = none ∧
           (updCommits x.recd = true → u.upd.nCancel = s.upd.nCancel + 1 ∧ u.upd.last = ⟨true, 3, eXlate⟩)) ∧
         ((∀ x, s.upd.cur = some x → ¬ named x.susp) → ∀ x, (s.upd.writes.find? fun x => hasRecord n x.susp) = some x →
           named x.susp ∧ ended x.uid 0x3E fun u => (∀ y ∈ u.upd.writes, y.key ≠ x.key) ∧
             ∀ c ∈ u.upd.commits, ¬ (c.uid = x.uid ∧ c.seq = x.seq))))) ∧
    (∀ (i : Inst) (r : Bool), (s.seq.insts.find? fun i => i.st == .running) = some i → findInst s i.uid = some i →
      let e : Ending := ⟨.abort, eAborted, 0, r, false, none⟩
      let set := fun (v : State) (o : Ending) => setInst v i.uid fun x => { x with ending := some o }
      let tell := fun v : State => if i.ringScene then
        sendStage v (.groupAbandon i.gtag i.grun eAborted s.boot.ties.clusterId) else v
      (i.ending = none → abortRunning s r = settle (tell (stopRun s i.uid e))) ∧
      ∀ o, i.ending = some o →
        (o.kind = .check → abortRunning s r = settle (set (tell (match o.entry with
          | some l => logAdd s l
          | none => s)) e)) ∧
        (o.kind ≠ .check → abortRunning s r = settle (set s { o with remove := r || o.remove }))) ∧
    (∀ (uid : Nat) (i : Inst) (c : Code), findInst s uid = some i →
      ((instActive i = false ∨ i.ending ≠ none) → abandonRun s uid c true = s) ∧
      (instActive i = true → i.ending = none →
        let u := stopRun s uid ⟨.leave, c, 0, false, false, none⟩
        abandonRun s uid c true = settle (if i.ringScene then
          sendStage u (.groupAbandon i.gtag i.grun c s.boot.ties.clusterId) else u))) ∧
    (∀ (uid : Nat) (e : Ending),
      let u := stopRun s uid e
      (∀ q ∈ u.seq.queue, q.uid ≠ uid) ∧ (∀ r, u.seq.run = some r → r.uid = uid → r.fetching = false ∧ r.fault = none) ∧
      (∀ j ∈ u.mat.jobs, j.uid ≠ uid) ∧ (∀ p ∈ u.mat.stores, p.uid ≠ uid) ∧ (∀ r, u.rev.red = some r → r.uid ≠ uid) ∧
      (∀ x ∈ u.strm.streams, x.uid = uid → x.stopped = true ∧ x.susp = none ∧ x.cues = []) ∧
      (∀ a ∈ u.strm.asides, a.uid = uid → a.issued = true) ∧ (∀ c ∈ u.upd.commits, c.uid = uid → c.issued = true) ∧
      (∀ x ∈ u.upd.writes, x.uid = uid → x.issued = true) ∧ (∀ x, u.upd.cur = some x → x.uid ≠ uid) ∧
      u.strm.reqs = s.strm.reqs ∧ u.pad = s.pad ∧ u.vec = s.vec ∧ u.strm.leases = s.strm.leases ∧
      u.seq.insts = s.seq.insts.map fun x => if x.uid = uid then { x with ending := some e } else x) ∧
    ((∀ i ∈ s.seq.insts, ∀ e, i.ending = some e → e.kind = .check ∨ quiesced s i.uid = false) → settle s = s) ∧
    (∀ pre i post e, s.seq.insts = pre ++ i :: post → (s.seq.insts.map (·.uid)).Nodup → s.chk.withdrawn = false →
      (∀ x ∈ pre ++ post, x.ending = none) → i.ending = some e → e.kind ≠ .check → quiesced s i.uid = true →
        let t := settle s
        (∀ b ∈ t.strm.bufs, b.owner ≠ some i.uid) ∧ (∀ x ∈ t.strm.streams, x.uid ≠ i.uid) ∧
        (∀ l ∈ t.strm.leases, l.uid ≠ i.uid) ∧ (∀ r, t.seq.run = some r → r.uid ≠ i.uid) ∧
        (e.remove = false → t.seq.held = true ∧ t.seq.insts = pre ++ { i with
          st := .abandoned, ending := none, slots := [], alog := [], alogReplay := false, faultPc := e.pc } :: post) ∧
        (e.remove = true → t.seq.insts.map (·.uid) = (pre ++ post).map (·.uid))) ∧
    (s.seq.modl ≠ none → tenantBody m k s w = .reject eBadstate) ∧
    (s.seq.modl = none → tenantBody m k s w
      = .later { s with ctl := { s.ctl with wipe := some (m, k, BitVec.ofNat 12 (byteField w 8 2)) } }) ∧
    (s.ctl.wipe = none → exec .wipeComplete s = .next s) ∧
    (∀ m' k' tid, s.ctl.wipe = some (m', k', tid) →
      ((clusterUp s = false ∨ s.ctl.restarting = true) → exec .wipeComplete s = .next s) ∧
      (clusterUp s = true → s.ctl.restarting = false → ∃ t, exec .wipeComplete s = .next t ∧ t.ctl.owner = tid ∧
        t.ctl.wipe = none ∧ slotState t m' k' = .done ∧ (∀ a, padGet t.pad a = 0) ∧ t.vec = Vec.reset ∧
        (∀ x : BitVec 4, getT t x = Tile.reset) ∧ (∀ a q, firnRow t a q = .reset) ∧ t.strm.tlb = [] ∧ t.strm.dcache = [] ∧
        t.mat.numstat = 0 ∧ t.upd.numstat = 0 ∧ t.strm.rootEn = false ∧ t.perf.cycles = 0 ∧ t.feat = s.feat ∧
        (∀ x, x ∈ t.chk.marks ↔ x ∈ s.chk.marks ∧ ∃ a, x.place = .sram a) ∧
        { t.chk with marks := [] } = { s.chk with marks := [] } ∧
        t.boot = s.boot)) ∧
    (s.pwr.stopEvent = true → curtainBody s w = .done s 0) ∧
    (s.pwr.stopEvent = false → curtainBody s w = .done (curtainAct (sendStage
      { s with pwr := { s.pwr with curtainOut := true } } (.curtain s.boot.ties.clusterId))) 0) ∧
    (∃ t, withdrawBody s w = .done t 0 ∧ t.chk.withdrawn = true ∧ t.strm = s.strm ∧ t.ctl = s.ctl ∧
      (s.chk.withdrawn = true → t = s) ∧
      (s.chk.withdrawn = false → t.chk.causeSrc = 0 ∧ t.chk.causeCode = eWithdrawn ∧
        t.seq = { s.seq with insts := s.seq.insts.map fun i =>
          { i with ending := i.ending.map fun e => { e with entry := none } } } ∧
        t.chk.logSeq = s.chk.logSeq + 1 + BitVec.ofNat _ (s.seq.insts.filterMap fun i => i.ending.bind (·.entry)).length)) ∧
    (passThrough s = true → s.rev.rejoining = false → fenceBody s w = .reject eBadstate) ∧
    ((passThrough s = false ∨ s.rev.rejoining = true) → ∃ t, fenceBody s w = .done t 0 ∧ t.rev.pt = true ∧
      t.rev.rejoining = false ∧ (s.rev.done = true → t.rev.ptMap.getLsbD s.boot.ties.clusterId.toNat = true) ∧
      ((s.seq.insts.map (·.uid)).Nodup → ∀ i ∈ t.seq.insts, inGroup i = true → ∃ e, i.ending = some e ∧ e.kind ≠ .check)) ∧
    ((passThrough s = false ∨ s.rev.rejoining = true ∨ s.chk.withdrawn = true ∨ s.rev.down = true ∨ s.rev.done = false) →
      rejoinBody s w = .reject eBadstate) ∧
    (passThrough s = true → s.rev.rejoining = false → s.chk.withdrawn = false → s.rev.down = false → s.rev.done = true →
      ∃ t, rejoinBody s w = .done t 0 ∧ t.rev.rejoining = true ∧ t.rev.pt = true ∧ t.rev.rejoinBack = false ∧
        (s.rev.line = false →
          t.rev.east.out = s.rev.east.out ++ [⟨3, 0, true, 0, 0, false, .stage (.rejoin s.boot.ties.clusterId)⟩]))

/-! ## Registers and debug access (18, 17, 16) -/

/-- CSR_READ and CSR_WRITE: an access in a reset, and one to an offset without a register, sets MG_ERR, the latter
recorded with E_BADVAL; a 64-bit register is read low word first with its high word latched, and written high word
last, and rejected when the low word is not the write before it; reading CHK_CORR clears it; a write with a reserved
bit or a refused value changes nothing but the record, a locked register refuses with E_BADSTATE, and a read-only
register ignores it (R6, R11, R12; 17 R433; 10 R274). Of these the model's choices: log 30, details of the CSR ports. -/
def Obligations.CsrAccess : Prop :=
  ∀ (s : State) (off : BitVec 24) (v : Word),
    let o := off.toNat / 4 * 4
    let q := s.dbg.mg
    let port := fun (t : State) (f : CsrPort) => { t with dbg := { t.dbg with mg := f } }
    let reject := fun (e : Code) (f : CsrPort) => Host.Outcome.next (φ := Fault) (ρ := Refusal)
      (port { s with ctl := { s.ctl with
        csrValid := true, csrCode := e, csrAddr := BitVec.ofNat 24 o, irqStat := s.ctl.irqStat ||| 8 } } f)
    let wr := exec (.csrWrite off v) s
    let rd := exec (.csrRead off) s
    let high := 4 ≤ o ∧ csrWide (o - 4) = true
    let acting := o = 0x10004 ∨ o = 0x10008 ∨ o = 0x10024 ∨ 0x10100 ≤ o ∧ o < 0x10500
    (clusterUp s = false → wr = .next (port s { q with rdata := 0, err := true }) ∧
      rd = .next (port s { q with rdata := 0, err := true })) ∧
    (clusterUp s = true →
      (∀ x, csrValue s o = some x → csrWide o = false → o ≠ 0x90010 →
        rd = .next (port s { q with rdata := BitVec.ofNat 32 x, err := false })) ∧
      (∀ x, csrValue s o = some x → csrWide o = true → rd = .next (port s { q with
        rdata := BitVec.ofNat 32 x, err := false
        high := (o, BitVec.ofNat 32 (x / 2 ^ 32)) :: q.high.filter fun l => l.1 != o })) ∧
      (∀ x, csrValue s o = none → high → (q.high.find? fun l => l.1 == o - 4) = some x →
        rd = .next (port s { q with rdata := x.2, err := false, high := q.high.filter fun l => l.1 != o - 4 })) ∧
      (∀ x, o = 0x90010 → csrValue s o = some x → rd = .next (port { s with
        chk := { s.chk with corrS := 0, corrF := 0, corrT := 0, corrC := 0 } }
        { q with rdata := BitVec.ofNat 32 x, err := false })) ∧
      (high → csrWide o = false → (∀ lo, q.low ≠ some (o - 4, lo)) → wr = reject eBadval { q with rdata := 0, err := true }) ∧
      (∀ lo, high → csrWide o = false → q.low = some (o - 4, lo) → csrReserved (o - 4) = none →
        wr = .next (port s { q with rdata := 0, err := false, low := none })) ∧
      (csrValue s o = none → ¬ high → rd = reject eBadval { q with rdata := 0, err := true } ∧
        (csrWide o = false → wr = reject eBadval { q with rdata := 0, err := true })) ∧
      (csrWide o = true → wr = .next (port s { q with rdata := 0, err := false, low := some (o, v) })) ∧
      ∀ x, csrWide o = false → ¬ high → csrValue s o = some x → ¬ acting →
        let f := { q with rdata := 0, err := false, low := q.low.filter fun l => l.1 == o }
        (csrReserved o = none → wr = .next (port s f)) ∧
        ∀ m, csrReserved o = some m →
          ((v.toNat &&& m ≠ 0 ∨ csrIllegal s o v.toNat = true) → wr = reject eBadval { q with rdata := 0, err := true }) ∧
          (v.toNat &&& m = 0 → csrIllegal s o v.toNat = false →
            wr = .next (let t := csrApply s o v.toNat; port t { t.dbg.mg with
              rdata := 0, err := false, low := t.dbg.mg.low.filter fun l => l.1 == o }))) ∧
    (∀ lo, clusterUp s = true → high → csrWide o = false → csrValue s o = none → q.low = some (o - 4, lo) →
      let x := lo.toNat + v.toNat * 2 ^ 32
      let lock := (0x50300 ≤ o - 4 ∧ o - 4 < 0x50370 ∨ o - 4 = 0x60008) ∧ maskLocked s = true
      ∀ m, csrReserved (o - 4) = some m →
        (x &&& m ≠ 0 → wr = reject eBadval { q with rdata := 0, err := true }) ∧
        (x &&& m = 0 → csrIllegal s (o - 4) x = false → lock → wr = reject eBadstate { q with rdata := 0, err := false }) ∧
        (x &&& m = 0 → csrIllegal s (o - 4) x = false → ¬ lock → ∃ t, wr = .next t ∧ t.dbg.mg.err = false ∧
          t.dbg.mg.low = none ∧ (o - 4 = 0x60008 → t.strm.rootEn = x.testBit 0 ∧ t.strm.rootAddr.toNat = x / 4096 % 2 ^ 40 ∧
            t.strm.tlb = []) ∧ t.seq = s.seq ∧ t.vec = s.vec ∧ t.ctl = s.ctl))

/-- What writes of the registers that act do: a doorbell posts an EMPTY slot, an acknowledgement empties a DONE one,
a word of an EMPTY slot is written, TAIL moves up to HEAD; any other is rejected with E_BADSTATE or E_BADVAL;
XLT_INVAL starts an invalidation, which XLT_INVAL_COMPLETE ends with an empty TLB, and what a walk has read by then
is read again; PERF_CTL.CLEAR clears the counters (R374, R384; 10 R267; 18 R449). Of these the model's choices: log
3, an event whose precondition does not hold changes nothing; log 30, details of the CSR ports; log 41, translation
details. -/
def Obligations.ActingRegisters : Prop :=
  ∀ (s : State) (v : Word),
    let slot : BitVec 3 := BitVec.ofNat 3 v.toNat
    let done := fun (c : Instr) (P : State → Prop) => ∃ t, exec c s = .next t ∧ t.dbg.mg.err = false ∧ P t ∧
      t.seq = s.seq ∧ t.vec = s.vec ∧ t.firn = s.firn ∧ t.pad = s.pad ∧ t.tiles = s.tiles
    let refuse := fun (c : Instr) (e : Code) => ∃ t, exec c s = .next t ∧ t.ctl = { s.ctl with
        csrValid := true, csrCode := e, csrAddr := t.ctl.csrAddr, irqStat := s.ctl.irqStat ||| 8 } ∧
      t.dbg.mg.err = (e == eBadval) ∧ t.seq = s.seq ∧ t.strm = s.strm ∧ t.perf = s.perf
    clusterUp s = true →
    (8 ≤ v.toNat → refuse (.mbxDoorbell v) eBadval ∧ refuse (.mbxAck v) eBadval) ∧
    (v.toNat < 8 →
      (slotState s .mgmt slot = .empty → done (.mbxDoorbell v) fun t => slotState t .mgmt slot = .posted ∧
        t.ctl.order = s.ctl.order ++ [(.mgmt, slot)] ∧ t.ctl.dport.getLsbD slot.toNat = false ∧ (∀ j, slotWord t .mgmt j = slotWord s .mgmt j) ∧
        ∀ j, j ≠ slot → slotState t .mgmt j = slotState s .mgmt j) ∧
      (slotState s .mgmt slot ≠ .empty → refuse (.mbxDoorbell v) eBadstate) ∧
      (slotState s .mgmt slot = .done → done (.mbxAck v) fun t => slotState t .mgmt slot = .empty ∧
        (∀ j, slotWord t .mgmt j = slotWord s .mgmt j) ∧ ∀ j, j ≠ slot → slotState t .mgmt j = slotState s .mgmt j) ∧
      (slotState s .mgmt slot ≠ .done → refuse (.mbxAck v) eBadstate)) ∧
    (∀ off : BitVec 10,
      let j : BitVec 3 := BitVec.ofNat 3 (off.toNat / 128)
      (slotState s .mgmt j = .empty → done (.mbxSlotWrite off v) fun t =>
        byteField (slotWord t .mgmt j) (off.toNat % 128 / 4 * 4) 4 = v.toNat ∧ t.ctl.order = s.ctl.order ∧
        ∀ i b, b < 128 → (i ≠ j ∨ b / 4 ≠ off.toNat % 128 / 4) →
          byteField (slotWord t .mgmt i) b 1 = byteField (slotWord s .mgmt i) b 1) ∧
      (slotState s .mgmt j ≠ .empty → refuse (.mbxSlotWrite off v) eBadstate)) ∧
    ((s.ctl.mgmt.head - s.ctl.mgmt.tail).toNat < (v - s.ctl.mgmt.tail).toNat → refuse (.mbxNtcTail v) eBadval) ∧
    ((v - s.ctl.mgmt.tail).toNat ≤ (s.ctl.mgmt.head - s.ctl.mgmt.tail).toNat → done (.mbxNtcTail v) fun t =>
      t.ctl.mgmt.tail = v ∧ (s.ctl.mgmt.held = [] → t.ctl.mgmt.head = s.ctl.mgmt.head) ∧ t.ctl.mgmt.st = s.ctl.mgmt.st) ∧
    ((v.toNat &&& 0xFFFFFFFE ≠ 0 → refuse (.xltInval v) eBadval) ∧
     (v = 0 → done (.xltInval v) fun t => t.strm = s.strm) ∧
     (v = 1 → done (.xltInval v) fun t => t.strm = { s.strm with inval := true })) ∧
    exec .xltInvalComplete s
      = .next (if s.strm.inval then { s with strm := { s.strm with
          tlb := [], inval := false, walks := s.strm.walks.map fun w => { w with redo := true } } } else s) ∧
    ((16 ≤ v.toNat → refuse (.perfClear v) eBadval) ∧
     (v.toNat < 16 → done (.perfClear v) fun t => t.perf.en = v.getLsbD 0 ∧ t.perf.freeze = v.getLsbD 1 ∧
      t.perf.scene = v.getLsbD 3 ∧ t.perf.sel = s.perf.sel ∧
      (v.getLsbD 2 = true → t.perf.cycles = 0 ∧ ∀ j : Fin 32, t.perf.cnt[j.val] = 0) ∧
      (v.getLsbD 2 = false → t.perf.cycles = s.perf.cycles ∧ t.perf.cnt = s.perf.cnt)))

/-- DBG_MEMCMD reads one word of the scratchpad, Firn or a tile register into DBG_DATA, invalid lines and ZERO rows
as 0, only in debug state OPEN, with no scene running or draining and no wipe; otherwise RESULT is 4 and DATA 0;
RESULT is 2 or 3 for a word with a storage error that can or cannot be corrected, which is no check event. The debug
state is the lowest of the fuse, the request and the security limit (R416; 18 R450, R451). The test access port:
TRST_N and Test-Logic-Reset select BYPASS, SAMPLE/PRELOAD and EXTEST sample the pins and load the cells, which drive
the outputs only under EXTEST with PORESET_N low; the CSR instrument is reached with ACCESS selected and a debug
state above LOCKED, and writes there only in OPEN, but in OBSERVE also the words, the doorbell and the
acknowledgement of a command, a doorbell of the debug port marked as such (15 R372; 17 R440, R441, Table 17-13; 16
R416). Of these the model's choices: log 25, debug reads of the control SRAM; log 33, derived registers; log 34, the
test access port. Of these the model's choices: log 16, when storage errors arise; log 25, debug reads of the control
SRAM; log 33, derived registers; log 34, the test access port. -/
def Obligations.DebugAccess : Prop :=
  (∀ s : State, clusterUp s = true →
      let a := s.dbg.addr.toNat * 4
      let last := if s.dbg.tgt = 0 then 0x1FFFFFC else if s.dbg.tgt = 1 then 0xFFFFC else if s.dbg.tgt = 2 then 0xFFFC else 0x3FFFC
      let full := s.boot.dbgfuse.toNat ≥ 2 ∧ s.pwr.dbgReq.toNat ≥ 2 ∧
        (s.ctl.owner = 0 ∨ s.feat.granted = true ∧ s.feat.service = true)
      let idle := (∀ i ∈ s.seq.insts, i.st ≠ .running) ∧ (s.seq.held = true ∨ ∀ i ∈ s.seq.insts, i.st ≠ .draining) ∧
        s.ctl.wipe = none
      (¬ (full ∧ idle ∧ a ≤ last) → ∃ t, exec (.dbgMemcmd 1) s = .next t ∧ t.dbg.result = 4 ∧ t.dbg.data = 0 ∧ t.pad = s.pad) ∧
      (full → idle → a ≤ last → ∃ t, exec (.dbgMemcmd 1) s = .next t ∧ (∀ at_ : Place, at_ = (if s.dbg.tgt = 0 then .pad (a / 8) else if s.dbg.tgt = 1 then .firn s.dbg.slice.toNat (a / 512)
            else if s.dbg.tgt = 2 then .tile s.dbg.tile.toNat (a / 1024) else .sram (a / 4)) →
          let met := fun hard => ∃ m ∈ s.chk.marks, m.place = at_ ∧ m.hard = hard
          (met true → t.dbg.result = 3) ∧ (¬ met true → met false → t.dbg.result = 2) ∧
          (¬ met true → ¬ met false → t.dbg.result = 1)) ∧
        (s.dbg.tgt = 0 → t.dbg.data.toNat = leNat (padRead s.pad a 4)) ∧
        (s.dbg.tgt = 1 → t.dbg.data.toNat = firnWord (firnRow s s.dbg.slice.toNat (a / 512)) (a % 512 / 4)) ∧
        (s.dbg.tgt = 2 → t.dbg.data.toNat = tileRead (getT s s.dbg.tile) a 4) ∧
        (∀ x, padGet t.pad x = padGet s.pad x) ∧ t.firn = s.firn ∧ t.tiles = s.tiles ∧ t.mat = s.mat ∧ t.chk = s.chk) ∧
      ∃ t, exec (.dbgMemcmd 0) s = .next t ∧ t.dbg.result = s.dbg.result ∧ t.dbg.data = s.dbg.data) ∧
  (∀ s : State,
      let tap := fun d : Dbg => Host.Outcome.next (φ := Fault) (ρ := Refusal) { s with dbg := d }
      let cleared := { s.dbg with ir := 0xFF, bypass := false, capture := 0, update := 0, extest := false }
      exec .trstN s = tap cleared ∧ exec .testLogicReset s = tap cleared ∧
      (∀ code, exec (.bypass code) s = tap { s.dbg with
        ir := if code = 1 ∨ code = 2 ∨ code = 0x10 then 0xFF else code, irOut := 1, bypass := false, extest := false }) ∧
      exec .access s = tap { s.dbg with ir := 0x10, irOut := 1, bypass := false, extest := false } ∧
      (∀ cells, ∃ pins, exec (.samplePreload cells) s = tap { s.dbg with
          ir := 1, irOut := 1, capture := pins, update := cells, extest := false } ∧
        exec (.extest cells) s
          = tap { s.dbg with ir := 2, irOut := 1, capture := pins, update := cells, extest := !s.boot.poreset } ∧
        pins.getLsbD 0 = false ∧ bvGet pins 1 64 = s.pwr.tickNumIn.toNat ∧ bvGet pins 65 8 = s.pwr.capIn.toNat ∧
        pins.getLsbD 73 = s.pwr.throttle ∧ bvGet pins 74 10 = s.pwr.tempIn.toNat ∧ bvGet pins 84 12 = s.pwr.currIn.toNat ∧
        pins.getLsbD 96 = s.pwr.curtainIn ∧ pins.getLsbD 97 = s.pwr.curtainOut ∧ pins.getLsbD 98 = s.pwr.withdrawPin) ∧
      (∀ c level, pinLevel s c level = if s.dbg.extest = true ∧ s.boot.poreset = false then s.dbg.update.getLsbD c else level) ∧
      (let most := if s.ctl.owner = 0 ∨ s.feat.granted = true ∧ s.feat.service = true then 2 else 1
       let least := fun n : Nat => n ≤ s.boot.dbgfuse.toNat ∧ n ≤ s.pwr.dbgReq.toNat ∧ n ≤ most
       least (debugState s) ∧ ∀ n, least n → n ≤ debugState s) ∧
      ∀ (wr : Bool) (off : BitVec 24) (v : Word),
        let o := off.toNat / 4 * 4
        let posts := o = 0x10004 ∨ o = 0x10008 ∨ 0x10100 ≤ o ∧ o < 0x10500
        ((s.dbg.ir ≠ 0x10 ∨ debugState s = 0) → exec (.debugCsrAccess wr off v) s = .next s) ∧
        (s.dbg.ir = 0x10 → debugState s ≠ 0 →
          exec (.debugCsrAccess false off v) s = .next (csrReadAt s .dp (off.toNat / 4 * 4)) ∧
          (debugState s = 1 → ¬ posts → exec (.debugCsrAccess true off v) s
            = tap { s.dbg with dp := { s.dbg.dp with rdata := 0, err := true } }) ∧
          ((debugState s = 2 ∨ posts) → exec (.debugCsrAccess true off v) s = .next (csrWriteAt s .dp o v)) ∧
          (∀ t, clusterUp s = true → v.toNat < 8 → slotState s .mgmt (BitVec.ofNat 3 v.toNat) = .empty →
            csrWriteAt s .dp 0x10004 v = t → slotState t .mgmt (BitVec.ofNat 3 v.toNat) = .posted ∧
              t.ctl.dport.getLsbD v.toNat = true ∧
              t.ctl.order = s.ctl.order ++ [(.mgmt, BitVec.ofNat 3 v.toNat)])))

/-! ## The machine as a whole -/

/-- A step runs the command at the front of the queue on the state with the queue's rest. Of these the model's
choices: log 2, an empty queue is a quiet cycle. Of these the model's choices: log 2, an empty queue is a quiet
cycle. -/
def Obligations.StepRunsFront : Prop :=
  ∀ (s : State) (c : Instr) (rest : List Instr), s.pending = c :: rest → step s = exec c { s with pending := rest }

/-- On an empty queue a quiet cycle passes (the model's choice, logs 1 and 2). In every one PERF_CYCLES counts where
counting is in force, PWR_THRCNT while the limit is, and each port returns at most one waiting credit per VC (R448,
R415, R431). In a cluster that is up a storage error may arise: the location, where something is stored, holds it
from then on, and only one that cannot be corrected changes what is stored; of the decode it is a check event of
Source 7 (14, R350, R351; the model's choice, log 16). Then what the units do of themselves goes on: the weight bus
loads, what waits for a tag or a delivery is tried again, a line of code with an error is invalidated, a precise
fault whose earlier instructions are complete is taken, and the head of each engine queue issues where nothing holds
it (05 R103; 09 R213, R221; 15 R370). Of these the model's choices: log 1, when an instruction issues; log 2, an
empty queue is a quiet cycle; log 16, when storage errors arise. -/
def Obligations.QuietCycle : Prop :=
  (∀ s : State, s.pending = [] → ∃ u,
    step s = .next (if clusterUp s = true then
      let v := takeHeld (icacheTake (afterAnswer (loadBg (raiseUpset u))))
      settle (issueHead (issueHead (issueHead v .m) .v) .d) else u) ∧
    u.perf = { s.perf with cycles := if counting s then s.perf.cycles + 1 else s.perf.cycles } ∧
    u.pwr = { s.pwr with thrCnt := if clusterUp s = true ∧ (s.pwr.throttle = true ∨ s.pwr.thermal = true)
      then s.pwr.thrCnt + 1 else s.pwr.thrCnt } ∧
    (∀ side : Side, ∃ l, getPort u side = { getPort s side with crRet := l } ∧
      ∀ vc : BitVec 2, (l.filter fun c => c.1 == vc) = ((getPort s side).crRet.filter fun c => c.1 == vc).tail) ∧
    { u with perf := s.perf, pwr := s.pwr, rev := { u.rev with east := s.rev.east, west := s.rev.west } } = s) ∧
  (∀ s : State,
    let u := { s with chk := { s.chk with upsets := s.chk.upsets + 1 } }
    raiseUpset s = match Config.upset s.chk.upsets with
      | none => u
      | some x => strike u x) ∧
  (∀ (s : State) (x : Upset),
      let t := strike s x
      (upsetPlace s x = none → t = s) ∧
      (∀ r, upsetPlace s x = some .decode → s.seq.run = some r → t = checkEvent s eDecode 7 0 r.pc 0 (some r.uid) 0) ∧
      ∀ p, upsetPlace s x = some p → p ≠ .decode →
        (∀ m : Mark, m ∈ t.chk.marks ↔ if m.place = p then m.hard = (x.hard || s.chk.marks.any fun y => y.place == p && y.hard)
          else m ∈ s.chk.marks) ∧
        { t.chk with marks := [] } = { s.chk with marks := [] } ∧
        (x.hard = false → t.pad = s.pad ∧ t.firn = s.firn ∧ t.tiles = s.tiles) ∧
        (∀ w, p = .pad w → s.pad.valid.getLsbD (w / 128) = true ∧ t.firn = s.firn ∧ t.tiles = s.tiles ∧
          (Pad.wf s.pad = true → ∀ a, a / 8 ≠ w → padGet t.pad a = padGet s.pad a) ∧
          (Pad.wf s.pad = true → x.hard = true →
            leNat (padRead t.pad (8 * w) 8) = (leNat (padRead s.pad (8 * w) 8) ^^^ x.flips) % 2 ^ 64)) ∧
        (∀ a q, p = .firn a q → t.pad = s.pad ∧ t.tiles = s.tiles ∧
          ∀ b k, a < 4 → b < 4 → k < 2048 → (b, k) ≠ (a, q) → firnRow t b k = firnRow s b k) ∧
        (∀ k l, p = .tile k l → t.pad = s.pad ∧ t.firn = s.firn ∧ (getT s (BitVec.ofNat 4 k)).valid.getLsbD l = true ∧
          (∀ y, y ≠ BitVec.ofNat 4 k → getT t y = getT s y) ∧
          ∀ b, b / 8192 ≠ l → tileBit (getT t (BitVec.ofNat 4 k)) b = tileBit (getT s (BitVec.ofNat 4 k)) b) ∧
        t.seq = s.seq ∧ t.strm = s.strm ∧ t.vec = s.vec ∧ t.mat = s.mat ∧ t.ctl = s.ctl ∧ t.rev = s.rev) ∧
  (∀ s : State,
    ((∀ r, s.seq.run = some r → ∀ f, r.fault = some f → issuedDone s r.uid f.seq = false) → takeHeld s = s) ∧
    ∀ r f, s.seq.run = some r → r.fault = some f → issuedDone s r.uid f.seq = true → takeHeld s = takeFault s r f) ∧
  ∀ (s : State) (q : Queue),
    ((∀ e ∈ s.seq.queue, e.q ≠ q) → issueHead s q = s) ∧
    ∀ pre e post, s.seq.queue = pre ++ e :: post → (∀ x ∈ pre, x.q ≠ q) → e.q = q →
      ∃ t, exec e.c { s with seq := { s.seq with issuing := some e } } = .next t ∧
        issueHead s q = { t with seq := { t.seq with issuing := none } }
/-- Every command is answered by a next state and leaves the queue to the step: nothing that the spec gives an effect
stops, on any state (R6, R212, R425). Of these the model's choices: log 3, an event whose precondition does not hold
changes nothing; log 32, requests that Table 17-4 does not allow. -/
def Obligations.EveryCommandAnswers : Prop :=
  ∀ (c : Instr) (s : State), ∃ t, exec c s = .next t ∧ t.pending = s.pending
/-- The register values that the spec gives for reset, read at the offsets of the register tables (R10; Tables 2-1,
2-5, 3-8, 4-9, 5-7, 7-11, 9-12, 10-9, 11-7, 13-10, 14-11, 15-9, 16-8, 18-3, 18-4): FEATURE_AVAIL with FP_GEN 0 and 1,
IDENT_VER and the transcendental latency for either stepping. The canonical forms hold after reset. Of these the
model's choices: log 6, the reset state; log 33, derived registers. Of these the model's choices: log 6, the reset
state; log 18, values that the spec does not state; log 19, the stepping; log 33, derived registers. -/
def Obligations.AtReset : Prop :=
  (∀ x ∈ ([(0x00000, 0x0C044B43), (0x01000, 0x1FF0F), (0x01008, 0x17F7F), (0x01010, 0), (0x01018, 0), (0x01020, 0), (0x10000, 0x200801),
        (0x10040, 0), (0x50200, 0x200), (0x80004, 0), (0xA0000, 0x640000), (0x100000, 0xF), (0x1000C, 0), (0x10010, 0), (0x10020, 0),
        (0x10024, 0), (0x10030, 0), (0x10034, 0), (0x20000, 0x40102020), (0x20004, 0), (0x20008, 0), (0x20010, 0),
        (0x20014, 0), (0x20200, 0), (0x30000, 0x48008080), (0x30100, 0), (0x30200, 0), (0x30204, 0), (0x30208, 0), (0x3020C, 0),
        (0x40000, 0x20080800), (0x40100, 0), (0x40200, 0), (0x50000, 0xC2001000), (0x50004, 0x40), (0x50008, 0), (0x50010, 0),
        (0x50300, 0), (0x50340, 0), (0x50400, 0), (0x50410, 0), (0x50500, 0), (0x60000, 0x80073934), (0x60008, 0),
        (0x60014, 0), (0x60100, 0), (0x60108, 0), (0x70000, 0x40201004), (0x70004, 0x10000000), (0x70008, 0), (0x70014, 0),
        (0x70018, 0), (0x70020, 0), (0x80000, 0x1F202080), (0x80008, 0), (0x8000C, 0), (0x80010, 0), (0x80100, 0), (0x80200, 0),
        (0x90000, 0x31004000), (0x90004, 0), (0x90008, 0), (0x9000C, 0), (0x90010, 0), (0x90020, 0x10000000), (0x90100, 0),
        (0x90200, 0), (0xA0004, 2), (0xA0008, 0x64), (0xA0010, 0), (0xA0018, 0), (0xA001C, 0x01A40000), (0xA0020, 0),
        (0xA0024, 0), (0xB0000, 0x4020), (0xB0004, 0), (0xB0008, 0), (0xB0100, 0), (0xB0200, 0), (0xC0034, 0),
        (0x100010, 0), (0x100014, 0), (0x10001C, 0), (0x100020, 0)] : List (Nat × Nat)),
      csrValue .reset x.1 = some x.2) ∧
  (csrValue { State.reset with boot := { State.reset.boot with ties := { State.reset.boot.ties with fpGen := true } } } 0x1000
    = some 0x1FF17) ∧
  (∃ v, csrValue .reset 4 = some v ∧ v / 4096 = 0x323 ∧ v % 16 = 0) ∧ (csrValue .reset 0x40004 = some 0x0E ∨
    csrValue .reset 0x40004 = some 0x16) ∧
  (∀ j < 8, csrValue .reset (0x50300 + 8 * j) = some 0) ∧ (∀ j < 6, csrValue .reset (0x50340 + 8 * j) = some 0) ∧
  (∀ j < 32, csrValue .reset (0xB0100 + 4 * j) = some 0 ∧ csrValue .reset (0xB0200 + 8 * j) = some 0) ∧
  (Canonical State.reset)

/-- Every step keeps the canonical forms: scratchpad bytes sorted, within 32 MiB and in valid lines, every buffer
with distinct frames of the 512 that hold its size, Firn sorted without reset rows, VL within 1 to 512 (R88, R93,
R94, R165). -/
def Obligations.CanonicalKept : Prop :=
  ∀ s t : State, Canonical s → step s = .next t → Canonical t

/-- Every instruction of a program issues in one way, on its queue of Table 9-1 (R213). The sequencer does not fetch
it when no scene runs or fetches, or while a WAITQ that has not issued holds the fetch (R260). A fetch beyond the
code, cached words that are no instruction, and a word that fails a check of Table 9-10 at its execution are precise
faults (R216). An instruction that an earlier one of its queue, a WAITQ, a scalar register or a tracked range holds
back, or whose scoreboard entries are not free, enters its queue while that has room, and the next word follows; one
of the sequencer's own waits where it stands (R213 to R215, R217, R219). From its queue it issues later at its own
place in program order and with the route of that place (R281). A precise fault is taken once every earlier
instruction is complete; of two the earlier stands; then SEQ_FAULT and SEQ_FAULTPC take the status and the offset,
the run ends, and the group is told (R221, R222, R296). Of these the model's choices: log 1, when an instruction
issues; log 4, what an instruction that waits holds back; log 5, the words are an operand of the command. -/
def Obligations.IssueFaults : Prop :=
  (∀ c : Instr, c.isProgram = true → ∃ q regs body,
    (∀ s, exec c s = .next (issue s q (encode c).length c regs body)) ∧
    q = match c with
      | .mma _ | .mmv _ => Queue.m
      | .tld _ | .tst _ _ _ | .dstr _ _ _ | .aside _ _ | .cue _ _ _ | .waitq _ _ | .acq _ | .rel _ | .atom _ | .claim _
      | .rsend _ | .rred _ | .upd _ => .d
      | .tcfg _ _ _ | .trel _ | .rroute _ | .salu _ | .sread _ _ | .br _ | .sceneEnd => .s
      | _ => .v) ∧
  (∀ (s : State) (q : Queue) (words : Nat) (c : Instr) (regs : List (BitVec 5)) (body : State → Run → Inst → Verdict),
    let run := issue s q words c regs body
    (s.seq.run = none → run = s) ∧
    ∀ r, s.seq.run = some r →
      (findInst s r.uid = none → run = s) ∧
      ∀ i, findInst s r.uid = some i →
        (s.seq.issuing = none →
          let e : Queued := ⟨c, q, r.uid, s.seq.nextUid, r.pc, words, regs, r.route⟩
          let held := ∃ a ∈ s.seq.queue, ∃ slot hold, a.c = .waitq slot hold ∧ hold.getLsbD 2 = true
          ((r.fetching = false ∨ held) → run = s) ∧
          (r.fetching = true → ¬ held →
            (codeLen s i < r.pc + 16 * words → run = faultAt s r (max r.pc (codeLen s i)) eCoderange) ∧
            (r.pc + 16 * words ≤ codeLen s i →
              (fetchOf s i r.pc c = .other → run = s) ∧ (fetchOf s i r.pc c = .illegal → run = faultAt s r r.pc eBadval) ∧
              (fetchOf s i r.pc c = .this →
                (∀ k, executeCheck (runCtx s i) c = some k → run = faultAt s r r.pc k) ∧
                (executeCheck (runCtx s i) c = none →
                  (issueReady s e = false → run = holdBack s e) ∧
                  (issueReady s e = true → run = match body s r i with
                    | .wait => holdBack s e
                    | .waitFor rs => markLate (holdBack s e) s.seq.nextUid rs
                    | .fault k => faultAt s r r.pc k
                    | .vecFault n k => raiseFault s r ⟨s.seq.nextUid, k, r.pc, some n⟩
                    | .fetchFault pc k => faultAt s r pc k
                    | .go t => setPc t (r.pc + 16 * words)
                    | .jump t pc => setPc t pc)))))) ∧
        ∀ e, s.seq.issuing = some e →
          let u := { s with seq := { s.seq with issuing := none } }
          let leaves := fun t : State => { t with seq := { t.seq with
            queue := t.seq.queue.filter fun x => x.seq != e.seq, nextUid := s.seq.nextUid } }
          ((e.uid ≠ r.uid ∨ issueReady u e = false) → run = u) ∧
          (e.uid = r.uid → issueReady u e = true →
            run = match body { u with seq := { u.seq with nextUid := e.seq } } { r with pc := e.pc, route := e.route } i with
              | .wait => u
              | .waitFor rs => markLate u e.seq rs
              | .fault k => raiseFault u r ⟨e.seq, k, e.pc, none⟩
              | .vecFault n k => raiseFault u r ⟨e.seq, k, e.pc, some n⟩
              | .fetchFault pc k => raiseFault u r ⟨e.seq, k, pc, none⟩
              | .go t => leaves t
              | .jump t _ => leaves t)) ∧
  (∀ (s : State) (e : Queued),
    (issueReady s e = true ↔ (∀ a ∈ s.seq.queue, a.seq < e.seq → heldBy s a e = false) ∧
      (∀ x ∈ e.regs, (∀ a ∈ s.strm.asides, a.uid = e.uid → a.sd ≠ some x) ∧
        ∀ u, s.upd.cur = some u → u.uid = e.uid → u.sd ≠ x) ∧
      (rngNeed s e.uid e.c = 0 ∨ rangesHeld s + rngNeed s e.uid e.c ≤ 64)) ∧
    (∀ a : Queued, a.q = e.q → heldBy s a e = true) ∧
    (∀ (a : Queued) (x : BitVec 5), (destReg a.c = some x ∧ x ∈ e.regs ∨ destReg e.c = some x ∧ x ∈ a.regs) →
      heldBy s a e = true) ∧
    (∀ (a : Queued) (x y : Rng), x ∈ touches s a.uid a.c → y ∈ touches s e.uid e.c → rngConflict x y = true →
      heldBy s a e = true) ∧
    (∀ (a : Queued) (slot : BitVec 6) (hold : BitVec 3), a.c = .waitq slot hold →
      (e.q = .m ∧ hold.getLsbD 0 = true ∨ e.q = .v ∧ hold.getLsbD 1 = true) → heldBy s a e = true) ∧
    let room := (s.seq.queue.filter fun a => a.q == e.q).length <
      (match e.q with | .m => 16 | .v => 32 | .d => 32 | .s => 0)
    (¬ room → holdBack s e = s) ∧
    (room → holdBack s e = { s with seq := { s.seq with
      queue := s.seq.queue ++ [e], nextUid := s.seq.nextUid + 1
      run := s.seq.run.map fun r => { r with pc := e.pc + 16 * e.words } } })) ∧
  (∀ (s : State) (r : Run) (f : HeldFault) (pc : Nat) (k : Code), faultAt s r pc k = raiseFault s r ⟨s.seq.nextUid, k, pc, none⟩ ∧
    let u := { s with seq := { s.seq with queue := s.seq.queue.filter fun e => !(e.uid == r.uid && decide (f.seq ≤ e.seq)) } }
    let first := match r.fault with
      | some g => if g.seq < f.seq then g else f
      | none => f
    raiseFault s r f = if issuedDone u r.uid first.seq = true then takeFault u r first
      else { u with seq := { u.seq with run := some { r with fetching := false, fault := some first } } }) ∧
  ∀ (s : State) (r : Run) (i : Inst) (f : HeldFault), findInst s r.uid = some i →
    let pcw := BitVec.ofNat 32 f.pc
    let v := match f.elem with
      | some n => { s with vec := { s.vec with faultLast := ⟨true, BitVec.ofNat 11 n, f.code⟩ } }
      | none => s
    let u := stopRun { v with seq := { v.seq with fault := ⟨true, BitVec.ofNat 12 i.scene, f.code, pcw⟩ } } r.uid
      ⟨.fault, f.code, pcw, false, false, none⟩
    takeFault s r f = settle (if i.ringScene then
      sendStage u (.groupAbandon i.gtag i.grun f.code s.boot.ties.clusterId) else u)
/-- Words written out from the layouts of Tables 6-1, 6-2 (the worked example of 06), 7-2, 7-3, 8-2, 9-14, 10-1,
11-5, 12-2 and 13-1 decode to the instructions they stand for. Of these the model's choices: log 5, the words are an
operand of the command. -/
def Obligations.DecodeWords : Prop :=
  decodeWf [0x800080000400005201A44D40, 0xA4D000080000000006]
    = some (.mma ⟨true, false, 3, 1, 2, 2, 3, 0x100, 5, false, false, 0x4000, 0x400,
      some ⟨6, false, false, 0, 0x400, 2, true, true, 4, 5, false⟩⟩, []) ∧
  decodeWf [0xA0148301050]
    = some (.vadd ⟨1, 0, 3, 4, 5, 0, 2, true, 0, false⟩, []) ∧
  decodeWf [0x7FFFFC00001000900000070005B]
    = some (.vld ⟨0, 0, 7, 0, 0, 0, 0, false, 0, false⟩ ⟨9, false, false, 256, -32⟩, []) ∧
  decodeWf [0xEB0140001804005F]
    = some (.vout ⟨0, 4, 0, 12, 0, 0, 0, false, 0, true⟩ ⟨1, 0, 11, false, 7⟩, []) ∧
  decodeWf [0xFFFFFFE000020B18]
    = some (.br ⟨3, 1, 2, false, 0, -32⟩, []) ∧
  decodeWf [0x450360, 0x11112222333344445555666677778888, 0x2, 0x3, 0xFFFF0000000000000000000000000004]
    = some (.dstr 3 ⟨⟨true, 2, 4⟩, ⟨false, 0, 0⟩, ⟨false, 0, 0⟩, ⟨false, 0, 0⟩⟩ (0xffff0000000000000000000000000004000000000000000000000000000000030000000000000000000000000000000211112222333344445555666677778888), []) ∧
  decodeWf [0x3920C416C]
    = some (.atom ⟨1, 2, 3, 4, 9, true, true⟩, []) ∧
  decodeWf [0x10000000100000040C80C2565]
    = some (.rred ⟨1, true, false, 2, 3, 200, 64, 128, false, 8192⟩, []) ∧
  decodeWf [0x13000020216A]
    = some (.upd ⟨33, false, 64, 19⟩, [])

/-- Decoding inverts encoding for every well-formed program instruction, whatever words follow it (R50, R212). -/
def Obligations.DecodeEncode : Prop :=
  ∀ (c : Instr) (rest : List (BitVec 128)), c.isProgram = true → c.wf = true → decode (encode c ++ rest) = some (c, rest)
end

