-- ==== Sys2Proof/Laws/State.lean ====
section
/-! SUPPORT. One lemma per field per named update of State, so that no proof unfolds a record update, and the
read-after-write laws of the register files. -/

namespace Sys2Proof.Machine

open Sys2Proof

/-! ## setS -/

@[simp] theorem setS_pending (s : State) (r : BitVec 5) (v : DWord) : (setS s r v).pending = s.pending := rfl

@[simp] theorem setS_tiles (s : State) (r : BitVec 5) (v : DWord) : (setS s r v).tiles = s.tiles := rfl

@[simp] theorem setS_pad (s : State) (r : BitVec 5) (v : DWord) : (setS s r v).pad = s.pad := rfl

@[simp] theorem setS_mat (s : State) (r : BitVec 5) (v : DWord) : (setS s r v).mat = s.mat := rfl

@[simp] theorem setS_firn (s : State) (r : BitVec 5) (v : DWord) : (setS s r v).firn = s.firn := rfl

@[simp] theorem setS_vec (s : State) (r : BitVec 5) (v : DWord) : (setS s r v).vec = s.vec := rfl

@[simp] theorem setS_strm (s : State) (r : BitVec 5) (v : DWord) : (setS s r v).strm = s.strm := rfl

@[simp] theorem setS_rev (s : State) (r : BitVec 5) (v : DWord) : (setS s r v).rev = s.rev := rfl

@[simp] theorem setS_upd (s : State) (r : BitVec 5) (v : DWord) : (setS s r v).upd = s.upd := rfl

@[simp] theorem setS_chk (s : State) (r : BitVec 5) (v : DWord) : (setS s r v).chk = s.chk := rfl

@[simp] theorem setS_ctl (s : State) (r : BitVec 5) (v : DWord) : (setS s r v).ctl = s.ctl := rfl

@[simp] theorem setS_feat (s : State) (r : BitVec 5) (v : DWord) : (setS s r v).feat = s.feat := rfl

@[simp] theorem setS_boot (s : State) (r : BitVec 5) (v : DWord) : (setS s r v).boot = s.boot := rfl

@[simp] theorem setS_pwr (s : State) (r : BitVec 5) (v : DWord) : (setS s r v).pwr = s.pwr := rfl

@[simp] theorem setS_perf (s : State) (r : BitVec 5) (v : DWord) : (setS s r v).perf = s.perf := rfl

@[simp] theorem setS_dbg (s : State) (r : BitVec 5) (v : DWord) : (setS s r v).dbg = s.dbg := rfl

/-! ## setV -/

@[simp] theorem setV_pending (s : State) (r : BitVec 5) (v : VReg) : (setV s r v).pending = s.pending := rfl

@[simp] theorem setV_tiles (s : State) (r : BitVec 5) (v : VReg) : (setV s r v).tiles = s.tiles := rfl

@[simp] theorem setV_pad (s : State) (r : BitVec 5) (v : VReg) : (setV s r v).pad = s.pad := rfl

@[simp] theorem setV_mat (s : State) (r : BitVec 5) (v : VReg) : (setV s r v).mat = s.mat := rfl

@[simp] theorem setV_firn (s : State) (r : BitVec 5) (v : VReg) : (setV s r v).firn = s.firn := rfl

@[simp] theorem setV_seq (s : State) (r : BitVec 5) (v : VReg) : (setV s r v).seq = s.seq := rfl

@[simp] theorem setV_strm (s : State) (r : BitVec 5) (v : VReg) : (setV s r v).strm = s.strm := rfl

@[simp] theorem setV_rev (s : State) (r : BitVec 5) (v : VReg) : (setV s r v).rev = s.rev := rfl

@[simp] theorem setV_upd (s : State) (r : BitVec 5) (v : VReg) : (setV s r v).upd = s.upd := rfl

@[simp] theorem setV_chk (s : State) (r : BitVec 5) (v : VReg) : (setV s r v).chk = s.chk := rfl

@[simp] theorem setV_ctl (s : State) (r : BitVec 5) (v : VReg) : (setV s r v).ctl = s.ctl := rfl

@[simp] theorem setV_feat (s : State) (r : BitVec 5) (v : VReg) : (setV s r v).feat = s.feat := rfl

@[simp] theorem setV_boot (s : State) (r : BitVec 5) (v : VReg) : (setV s r v).boot = s.boot := rfl

@[simp] theorem setV_pwr (s : State) (r : BitVec 5) (v : VReg) : (setV s r v).pwr = s.pwr := rfl

@[simp] theorem setV_perf (s : State) (r : BitVec 5) (v : VReg) : (setV s r v).perf = s.perf := rfl

@[simp] theorem setV_dbg (s : State) (r : BitVec 5) (v : VReg) : (setV s r v).dbg = s.dbg := rfl

/-! ## setK -/

@[simp] theorem setK_pending (s : State) (k : BitVec 3) (m : Mask) : (setK s k m).pending = s.pending := by
  unfold setK; split <;> rfl

@[simp] theorem setK_tiles (s : State) (k : BitVec 3) (m : Mask) : (setK s k m).tiles = s.tiles := by
  unfold setK; split <;> rfl

@[simp] theorem setK_pad (s : State) (k : BitVec 3) (m : Mask) : (setK s k m).pad = s.pad := by
  unfold setK; split <;> rfl

@[simp] theorem setK_mat (s : State) (k : BitVec 3) (m : Mask) : (setK s k m).mat = s.mat := by
  unfold setK; split <;> rfl

@[simp] theorem setK_firn (s : State) (k : BitVec 3) (m : Mask) : (setK s k m).firn = s.firn := by
  unfold setK; split <;> rfl

@[simp] theorem setK_seq (s : State) (k : BitVec 3) (m : Mask) : (setK s k m).seq = s.seq := by
  unfold setK; split <;> rfl

@[simp] theorem setK_strm (s : State) (k : BitVec 3) (m : Mask) : (setK s k m).strm = s.strm := by
  unfold setK; split <;> rfl

@[simp] theorem setK_rev (s : State) (k : BitVec 3) (m : Mask) : (setK s k m).rev = s.rev := by
  unfold setK; split <;> rfl

@[simp] theorem setK_upd (s : State) (k : BitVec 3) (m : Mask) : (setK s k m).upd = s.upd := by
  unfold setK; split <;> rfl

@[simp] theorem setK_chk (s : State) (k : BitVec 3) (m : Mask) : (setK s k m).chk = s.chk := by
  unfold setK; split <;> rfl

@[simp] theorem setK_ctl (s : State) (k : BitVec 3) (m : Mask) : (setK s k m).ctl = s.ctl := by
  unfold setK; split <;> rfl

@[simp] theorem setK_feat (s : State) (k : BitVec 3) (m : Mask) : (setK s k m).feat = s.feat := by
  unfold setK; split <;> rfl

@[simp] theorem setK_boot (s : State) (k : BitVec 3) (m : Mask) : (setK s k m).boot = s.boot := by
  unfold setK; split <;> rfl

@[simp] theorem setK_pwr (s : State) (k : BitVec 3) (m : Mask) : (setK s k m).pwr = s.pwr := by
  unfold setK; split <;> rfl

@[simp] theorem setK_perf (s : State) (k : BitVec 3) (m : Mask) : (setK s k m).perf = s.perf := by
  unfold setK; split <;> rfl

@[simp] theorem setK_dbg (s : State) (k : BitVec 3) (m : Mask) : (setK s k m).dbg = s.dbg := by
  unfold setK; split <;> rfl

/-! ## setT -/

@[simp] theorem setT_pending (s : State) (t : BitVec 4) (x : Tile) : (setT s t x).pending = s.pending := rfl

@[simp] theorem setT_pad (s : State) (t : BitVec 4) (x : Tile) : (setT s t x).pad = s.pad := rfl

@[simp] theorem setT_mat (s : State) (t : BitVec 4) (x : Tile) : (setT s t x).mat = s.mat := rfl

@[simp] theorem setT_firn (s : State) (t : BitVec 4) (x : Tile) : (setT s t x).firn = s.firn := rfl

@[simp] theorem setT_vec (s : State) (t : BitVec 4) (x : Tile) : (setT s t x).vec = s.vec := rfl

@[simp] theorem setT_seq (s : State) (t : BitVec 4) (x : Tile) : (setT s t x).seq = s.seq := rfl

@[simp] theorem setT_strm (s : State) (t : BitVec 4) (x : Tile) : (setT s t x).strm = s.strm := rfl

@[simp] theorem setT_rev (s : State) (t : BitVec 4) (x : Tile) : (setT s t x).rev = s.rev := rfl

@[simp] theorem setT_upd (s : State) (t : BitVec 4) (x : Tile) : (setT s t x).upd = s.upd := rfl

@[simp] theorem setT_chk (s : State) (t : BitVec 4) (x : Tile) : (setT s t x).chk = s.chk := rfl

@[simp] theorem setT_ctl (s : State) (t : BitVec 4) (x : Tile) : (setT s t x).ctl = s.ctl := rfl

@[simp] theorem setT_feat (s : State) (t : BitVec 4) (x : Tile) : (setT s t x).feat = s.feat := rfl

@[simp] theorem setT_boot (s : State) (t : BitVec 4) (x : Tile) : (setT s t x).boot = s.boot := rfl

@[simp] theorem setT_pwr (s : State) (t : BitVec 4) (x : Tile) : (setT s t x).pwr = s.pwr := rfl

@[simp] theorem setT_perf (s : State) (t : BitVec 4) (x : Tile) : (setT s t x).perf = s.perf := rfl

@[simp] theorem setT_dbg (s : State) (t : BitVec 4) (x : Tile) : (setT s t x).dbg = s.dbg := rfl

/-! ## setPc -/

@[simp] theorem setPc_pending (s : State) (pc : Nat) : (setPc s pc).pending = s.pending := rfl

@[simp] theorem setPc_tiles (s : State) (pc : Nat) : (setPc s pc).tiles = s.tiles := rfl

@[simp] theorem setPc_pad (s : State) (pc : Nat) : (setPc s pc).pad = s.pad := rfl

@[simp] theorem setPc_mat (s : State) (pc : Nat) : (setPc s pc).mat = s.mat := rfl

@[simp] theorem setPc_firn (s : State) (pc : Nat) : (setPc s pc).firn = s.firn := rfl

@[simp] theorem setPc_vec (s : State) (pc : Nat) : (setPc s pc).vec = s.vec := rfl

@[simp] theorem setPc_strm (s : State) (pc : Nat) : (setPc s pc).strm = s.strm := rfl

@[simp] theorem setPc_rev (s : State) (pc : Nat) : (setPc s pc).rev = s.rev := rfl

@[simp] theorem setPc_upd (s : State) (pc : Nat) : (setPc s pc).upd = s.upd := rfl

@[simp] theorem setPc_chk (s : State) (pc : Nat) : (setPc s pc).chk = s.chk := rfl

@[simp] theorem setPc_ctl (s : State) (pc : Nat) : (setPc s pc).ctl = s.ctl := rfl

@[simp] theorem setPc_feat (s : State) (pc : Nat) : (setPc s pc).feat = s.feat := rfl

@[simp] theorem setPc_boot (s : State) (pc : Nat) : (setPc s pc).boot = s.boot := rfl

@[simp] theorem setPc_pwr (s : State) (pc : Nat) : (setPc s pc).pwr = s.pwr := rfl

@[simp] theorem setPc_perf (s : State) (pc : Nat) : (setPc s pc).perf = s.perf := rfl

@[simp] theorem setPc_dbg (s : State) (pc : Nat) : (setPc s pc).dbg = s.dbg := rfl

/-! ## setInst -/

@[simp] theorem setInst_pending (s : State) (uid : Nat) (f : Inst → Inst) : (setInst s uid f).pending = s.pending := rfl

@[simp] theorem setInst_tiles (s : State) (uid : Nat) (f : Inst → Inst) : (setInst s uid f).tiles = s.tiles := rfl

@[simp] theorem setInst_pad (s : State) (uid : Nat) (f : Inst → Inst) : (setInst s uid f).pad = s.pad := rfl

@[simp] theorem setInst_mat (s : State) (uid : Nat) (f : Inst → Inst) : (setInst s uid f).mat = s.mat := rfl

@[simp] theorem setInst_firn (s : State) (uid : Nat) (f : Inst → Inst) : (setInst s uid f).firn = s.firn := rfl

@[simp] theorem setInst_vec (s : State) (uid : Nat) (f : Inst → Inst) : (setInst s uid f).vec = s.vec := rfl

@[simp] theorem setInst_strm (s : State) (uid : Nat) (f : Inst → Inst) : (setInst s uid f).strm = s.strm := rfl

@[simp] theorem setInst_rev (s : State) (uid : Nat) (f : Inst → Inst) : (setInst s uid f).rev = s.rev := rfl

@[simp] theorem setInst_upd (s : State) (uid : Nat) (f : Inst → Inst) : (setInst s uid f).upd = s.upd := rfl

@[simp] theorem setInst_chk (s : State) (uid : Nat) (f : Inst → Inst) : (setInst s uid f).chk = s.chk := rfl

@[simp] theorem setInst_ctl (s : State) (uid : Nat) (f : Inst → Inst) : (setInst s uid f).ctl = s.ctl := rfl

@[simp] theorem setInst_feat (s : State) (uid : Nat) (f : Inst → Inst) : (setInst s uid f).feat = s.feat := rfl

@[simp] theorem setInst_boot (s : State) (uid : Nat) (f : Inst → Inst) : (setInst s uid f).boot = s.boot := rfl

@[simp] theorem setInst_pwr (s : State) (uid : Nat) (f : Inst → Inst) : (setInst s uid f).pwr = s.pwr := rfl

@[simp] theorem setInst_perf (s : State) (uid : Nat) (f : Inst → Inst) : (setInst s uid f).perf = s.perf := rfl

@[simp] theorem setInst_dbg (s : State) (uid : Nat) (f : Inst → Inst) : (setInst s uid f).dbg = s.dbg := rfl

/-! ## raiseMat -/

@[simp] theorem raiseMat_pending (s : State) (f : Flags) : (raiseMat s f).pending = s.pending := rfl

@[simp] theorem raiseMat_tiles (s : State) (f : Flags) : (raiseMat s f).tiles = s.tiles := rfl

@[simp] theorem raiseMat_pad (s : State) (f : Flags) : (raiseMat s f).pad = s.pad := rfl

@[simp] theorem raiseMat_firn (s : State) (f : Flags) : (raiseMat s f).firn = s.firn := rfl

@[simp] theorem raiseMat_vec (s : State) (f : Flags) : (raiseMat s f).vec = s.vec := rfl

@[simp] theorem raiseMat_seq (s : State) (f : Flags) : (raiseMat s f).seq = s.seq := rfl

@[simp] theorem raiseMat_strm (s : State) (f : Flags) : (raiseMat s f).strm = s.strm := rfl

@[simp] theorem raiseMat_rev (s : State) (f : Flags) : (raiseMat s f).rev = s.rev := rfl

@[simp] theorem raiseMat_upd (s : State) (f : Flags) : (raiseMat s f).upd = s.upd := rfl

@[simp] theorem raiseMat_chk (s : State) (f : Flags) : (raiseMat s f).chk = s.chk := rfl

@[simp] theorem raiseMat_ctl (s : State) (f : Flags) : (raiseMat s f).ctl = s.ctl := rfl

@[simp] theorem raiseMat_feat (s : State) (f : Flags) : (raiseMat s f).feat = s.feat := rfl

@[simp] theorem raiseMat_boot (s : State) (f : Flags) : (raiseMat s f).boot = s.boot := rfl

@[simp] theorem raiseMat_pwr (s : State) (f : Flags) : (raiseMat s f).pwr = s.pwr := rfl

@[simp] theorem raiseMat_perf (s : State) (f : Flags) : (raiseMat s f).perf = s.perf := rfl

@[simp] theorem raiseMat_dbg (s : State) (f : Flags) : (raiseMat s f).dbg = s.dbg := rfl

/-! ## raiseVec -/

@[simp] theorem raiseVec_pending (s : State) (f : Flags) : (raiseVec s f).pending = s.pending := rfl

@[simp] theorem raiseVec_tiles (s : State) (f : Flags) : (raiseVec s f).tiles = s.tiles := rfl

@[simp] theorem raiseVec_pad (s : State) (f : Flags) : (raiseVec s f).pad = s.pad := rfl

@[simp] theorem raiseVec_mat (s : State) (f : Flags) : (raiseVec s f).mat = s.mat := rfl

@[simp] theorem raiseVec_firn (s : State) (f : Flags) : (raiseVec s f).firn = s.firn := rfl

@[simp] theorem raiseVec_seq (s : State) (f : Flags) : (raiseVec s f).seq = s.seq := rfl

@[simp] theorem raiseVec_strm (s : State) (f : Flags) : (raiseVec s f).strm = s.strm := rfl

@[simp] theorem raiseVec_rev (s : State) (f : Flags) : (raiseVec s f).rev = s.rev := rfl

@[simp] theorem raiseVec_upd (s : State) (f : Flags) : (raiseVec s f).upd = s.upd := rfl

@[simp] theorem raiseVec_chk (s : State) (f : Flags) : (raiseVec s f).chk = s.chk := rfl

@[simp] theorem raiseVec_ctl (s : State) (f : Flags) : (raiseVec s f).ctl = s.ctl := rfl

@[simp] theorem raiseVec_feat (s : State) (f : Flags) : (raiseVec s f).feat = s.feat := rfl

@[simp] theorem raiseVec_boot (s : State) (f : Flags) : (raiseVec s f).boot = s.boot := rfl

@[simp] theorem raiseVec_pwr (s : State) (f : Flags) : (raiseVec s f).pwr = s.pwr := rfl

@[simp] theorem raiseVec_perf (s : State) (f : Flags) : (raiseVec s f).perf = s.perf := rfl

@[simp] theorem raiseVec_dbg (s : State) (f : Flags) : (raiseVec s f).dbg = s.dbg := rfl

/-! ## raiseUpd -/

@[simp] theorem raiseUpd_pending (s : State) (f : Flags) : (raiseUpd s f).pending = s.pending := rfl

@[simp] theorem raiseUpd_tiles (s : State) (f : Flags) : (raiseUpd s f).tiles = s.tiles := rfl

@[simp] theorem raiseUpd_pad (s : State) (f : Flags) : (raiseUpd s f).pad = s.pad := rfl

@[simp] theorem raiseUpd_mat (s : State) (f : Flags) : (raiseUpd s f).mat = s.mat := rfl

@[simp] theorem raiseUpd_firn (s : State) (f : Flags) : (raiseUpd s f).firn = s.firn := rfl

@[simp] theorem raiseUpd_vec (s : State) (f : Flags) : (raiseUpd s f).vec = s.vec := rfl

@[simp] theorem raiseUpd_seq (s : State) (f : Flags) : (raiseUpd s f).seq = s.seq := rfl

@[simp] theorem raiseUpd_strm (s : State) (f : Flags) : (raiseUpd s f).strm = s.strm := rfl

@[simp] theorem raiseUpd_rev (s : State) (f : Flags) : (raiseUpd s f).rev = s.rev := rfl

@[simp] theorem raiseUpd_chk (s : State) (f : Flags) : (raiseUpd s f).chk = s.chk := rfl

@[simp] theorem raiseUpd_ctl (s : State) (f : Flags) : (raiseUpd s f).ctl = s.ctl := rfl

@[simp] theorem raiseUpd_feat (s : State) (f : Flags) : (raiseUpd s f).feat = s.feat := rfl

@[simp] theorem raiseUpd_boot (s : State) (f : Flags) : (raiseUpd s f).boot = s.boot := rfl

@[simp] theorem raiseUpd_pwr (s : State) (f : Flags) : (raiseUpd s f).pwr = s.pwr := rfl

@[simp] theorem raiseUpd_perf (s : State) (f : Flags) : (raiseUpd s f).perf = s.perf := rfl

@[simp] theorem raiseUpd_dbg (s : State) (f : Flags) : (raiseUpd s f).dbg = s.dbg := rfl

/-! ## irqSet -/

@[simp] theorem irqSet_pending (s : State) (b : BitVec 4) : (irqSet s b).pending = s.pending := rfl

@[simp] theorem irqSet_tiles (s : State) (b : BitVec 4) : (irqSet s b).tiles = s.tiles := rfl

@[simp] theorem irqSet_pad (s : State) (b : BitVec 4) : (irqSet s b).pad = s.pad := rfl

@[simp] theorem irqSet_mat (s : State) (b : BitVec 4) : (irqSet s b).mat = s.mat := rfl

@[simp] theorem irqSet_firn (s : State) (b : BitVec 4) : (irqSet s b).firn = s.firn := rfl

@[simp] theorem irqSet_vec (s : State) (b : BitVec 4) : (irqSet s b).vec = s.vec := rfl

@[simp] theorem irqSet_seq (s : State) (b : BitVec 4) : (irqSet s b).seq = s.seq := rfl

@[simp] theorem irqSet_strm (s : State) (b : BitVec 4) : (irqSet s b).strm = s.strm := rfl

@[simp] theorem irqSet_rev (s : State) (b : BitVec 4) : (irqSet s b).rev = s.rev := rfl

@[simp] theorem irqSet_upd (s : State) (b : BitVec 4) : (irqSet s b).upd = s.upd := rfl

@[simp] theorem irqSet_chk (s : State) (b : BitVec 4) : (irqSet s b).chk = s.chk := rfl

@[simp] theorem irqSet_feat (s : State) (b : BitVec 4) : (irqSet s b).feat = s.feat := rfl

@[simp] theorem irqSet_boot (s : State) (b : BitVec 4) : (irqSet s b).boot = s.boot := rfl

@[simp] theorem irqSet_pwr (s : State) (b : BitVec 4) : (irqSet s b).pwr = s.pwr := rfl

@[simp] theorem irqSet_perf (s : State) (b : BitVec 4) : (irqSet s b).perf = s.perf := rfl

@[simp] theorem irqSet_dbg (s : State) (b : BitVec 4) : (irqSet s b).dbg = s.dbg := rfl

/-! ## perfAdd -/

@[simp] theorem perfAdd_pending (s : State) (ev n : Nat) : (perfAdd s ev n).pending = s.pending := by
  unfold perfAdd; split <;> rfl

@[simp] theorem perfAdd_tiles (s : State) (ev n : Nat) : (perfAdd s ev n).tiles = s.tiles := by
  unfold perfAdd; split <;> rfl

@[simp] theorem perfAdd_pad (s : State) (ev n : Nat) : (perfAdd s ev n).pad = s.pad := by
  unfold perfAdd; split <;> rfl

@[simp] theorem perfAdd_mat (s : State) (ev n : Nat) : (perfAdd s ev n).mat = s.mat := by
  unfold perfAdd; split <;> rfl

@[simp] theorem perfAdd_firn (s : State) (ev n : Nat) : (perfAdd s ev n).firn = s.firn := by
  unfold perfAdd; split <;> rfl

@[simp] theorem perfAdd_vec (s : State) (ev n : Nat) : (perfAdd s ev n).vec = s.vec := by
  unfold perfAdd; split <;> rfl

@[simp] theorem perfAdd_seq (s : State) (ev n : Nat) : (perfAdd s ev n).seq = s.seq := by
  unfold perfAdd; split <;> rfl

@[simp] theorem perfAdd_strm (s : State) (ev n : Nat) : (perfAdd s ev n).strm = s.strm := by
  unfold perfAdd; split <;> rfl

@[simp] theorem perfAdd_rev (s : State) (ev n : Nat) : (perfAdd s ev n).rev = s.rev := by
  unfold perfAdd; split <;> rfl

@[simp] theorem perfAdd_upd (s : State) (ev n : Nat) : (perfAdd s ev n).upd = s.upd := by
  unfold perfAdd; split <;> rfl

@[simp] theorem perfAdd_chk (s : State) (ev n : Nat) : (perfAdd s ev n).chk = s.chk := by
  unfold perfAdd; split <;> rfl

@[simp] theorem perfAdd_ctl (s : State) (ev n : Nat) : (perfAdd s ev n).ctl = s.ctl := by
  unfold perfAdd; split <;> rfl

@[simp] theorem perfAdd_feat (s : State) (ev n : Nat) : (perfAdd s ev n).feat = s.feat := by
  unfold perfAdd; split <;> rfl

@[simp] theorem perfAdd_boot (s : State) (ev n : Nat) : (perfAdd s ev n).boot = s.boot := by
  unfold perfAdd; split <;> rfl

@[simp] theorem perfAdd_pwr (s : State) (ev n : Nat) : (perfAdd s ev n).pwr = s.pwr := by
  unfold perfAdd; split <;> rfl

@[simp] theorem perfAdd_dbg (s : State) (ev n : Nat) : (perfAdd s ev n).dbg = s.dbg := by
  unfold perfAdd; split <;> rfl

/-! ## setFirnRow -/

@[simp] theorem setFirnRow_pending (s : State) (a r : Nat) (x : FirnRow) : (setFirnRow s a r x).pending = s.pending := rfl

@[simp] theorem setFirnRow_tiles (s : State) (a r : Nat) (x : FirnRow) : (setFirnRow s a r x).tiles = s.tiles := rfl

@[simp] theorem setFirnRow_pad (s : State) (a r : Nat) (x : FirnRow) : (setFirnRow s a r x).pad = s.pad := rfl

@[simp] theorem setFirnRow_mat (s : State) (a r : Nat) (x : FirnRow) : (setFirnRow s a r x).mat = s.mat := rfl

@[simp] theorem setFirnRow_vec (s : State) (a r : Nat) (x : FirnRow) : (setFirnRow s a r x).vec = s.vec := rfl

@[simp] theorem setFirnRow_seq (s : State) (a r : Nat) (x : FirnRow) : (setFirnRow s a r x).seq = s.seq := rfl

@[simp] theorem setFirnRow_strm (s : State) (a r : Nat) (x : FirnRow) : (setFirnRow s a r x).strm = s.strm := rfl

@[simp] theorem setFirnRow_rev (s : State) (a r : Nat) (x : FirnRow) : (setFirnRow s a r x).rev = s.rev := rfl

@[simp] theorem setFirnRow_upd (s : State) (a r : Nat) (x : FirnRow) : (setFirnRow s a r x).upd = s.upd := rfl

@[simp] theorem setFirnRow_chk (s : State) (a r : Nat) (x : FirnRow) : (setFirnRow s a r x).chk = s.chk := rfl

@[simp] theorem setFirnRow_ctl (s : State) (a r : Nat) (x : FirnRow) : (setFirnRow s a r x).ctl = s.ctl := rfl

@[simp] theorem setFirnRow_feat (s : State) (a r : Nat) (x : FirnRow) : (setFirnRow s a r x).feat = s.feat := rfl

@[simp] theorem setFirnRow_boot (s : State) (a r : Nat) (x : FirnRow) : (setFirnRow s a r x).boot = s.boot := rfl

@[simp] theorem setFirnRow_pwr (s : State) (a r : Nat) (x : FirnRow) : (setFirnRow s a r x).pwr = s.pwr := rfl

@[simp] theorem setFirnRow_perf (s : State) (a r : Nat) (x : FirnRow) : (setFirnRow s a r x).perf = s.perf := rfl

@[simp] theorem setFirnRow_dbg (s : State) (a r : Nat) (x : FirnRow) : (setFirnRow s a r x).dbg = s.dbg := rfl

/-! ## setStatRow -/

@[simp] theorem setStatRow_pending (s : State) (r : Nat) (x : StatRow) : (setStatRow s r x).pending = s.pending := rfl

@[simp] theorem setStatRow_tiles (s : State) (r : Nat) (x : StatRow) : (setStatRow s r x).tiles = s.tiles := rfl

@[simp] theorem setStatRow_pad (s : State) (r : Nat) (x : StatRow) : (setStatRow s r x).pad = s.pad := rfl

@[simp] theorem setStatRow_mat (s : State) (r : Nat) (x : StatRow) : (setStatRow s r x).mat = s.mat := rfl

@[simp] theorem setStatRow_vec (s : State) (r : Nat) (x : StatRow) : (setStatRow s r x).vec = s.vec := rfl

@[simp] theorem setStatRow_seq (s : State) (r : Nat) (x : StatRow) : (setStatRow s r x).seq = s.seq := rfl

@[simp] theorem setStatRow_strm (s : State) (r : Nat) (x : StatRow) : (setStatRow s r x).strm = s.strm := rfl

@[simp] theorem setStatRow_rev (s : State) (r : Nat) (x : StatRow) : (setStatRow s r x).rev = s.rev := rfl

@[simp] theorem setStatRow_upd (s : State) (r : Nat) (x : StatRow) : (setStatRow s r x).upd = s.upd := rfl

@[simp] theorem setStatRow_chk (s : State) (r : Nat) (x : StatRow) : (setStatRow s r x).chk = s.chk := rfl

@[simp] theorem setStatRow_ctl (s : State) (r : Nat) (x : StatRow) : (setStatRow s r x).ctl = s.ctl := rfl

@[simp] theorem setStatRow_feat (s : State) (r : Nat) (x : StatRow) : (setStatRow s r x).feat = s.feat := rfl

@[simp] theorem setStatRow_boot (s : State) (r : Nat) (x : StatRow) : (setStatRow s r x).boot = s.boot := rfl

@[simp] theorem setStatRow_pwr (s : State) (r : Nat) (x : StatRow) : (setStatRow s r x).pwr = s.pwr := rfl

@[simp] theorem setStatRow_perf (s : State) (r : Nat) (x : StatRow) : (setStatRow s r x).perf = s.perf := rfl

@[simp] theorem setStatRow_dbg (s : State) (r : Nat) (x : StatRow) : (setStatRow s r x).dbg = s.dbg := rfl

/-! ## dropMarks -/

@[simp] theorem dropMarks_pending (s : State) (at_ : Place → Bool) : (dropMarks s at_).pending = s.pending := by
  unfold dropMarks; split <;> rfl

@[simp] theorem dropMarks_tiles (s : State) (at_ : Place → Bool) : (dropMarks s at_).tiles = s.tiles := by
  unfold dropMarks; split <;> rfl

@[simp] theorem dropMarks_pad (s : State) (at_ : Place → Bool) : (dropMarks s at_).pad = s.pad := by
  unfold dropMarks; split <;> rfl

@[simp] theorem dropMarks_mat (s : State) (at_ : Place → Bool) : (dropMarks s at_).mat = s.mat := by
  unfold dropMarks; split <;> rfl

@[simp] theorem dropMarks_firn (s : State) (at_ : Place → Bool) : (dropMarks s at_).firn = s.firn := by
  unfold dropMarks; split <;> rfl

@[simp] theorem dropMarks_vec (s : State) (at_ : Place → Bool) : (dropMarks s at_).vec = s.vec := by
  unfold dropMarks; split <;> rfl

@[simp] theorem dropMarks_seq (s : State) (at_ : Place → Bool) : (dropMarks s at_).seq = s.seq := by
  unfold dropMarks; split <;> rfl

@[simp] theorem dropMarks_strm (s : State) (at_ : Place → Bool) : (dropMarks s at_).strm = s.strm := by
  unfold dropMarks; split <;> rfl

@[simp] theorem dropMarks_rev (s : State) (at_ : Place → Bool) : (dropMarks s at_).rev = s.rev := by
  unfold dropMarks; split <;> rfl

@[simp] theorem dropMarks_upd (s : State) (at_ : Place → Bool) : (dropMarks s at_).upd = s.upd := by
  unfold dropMarks; split <;> rfl

@[simp] theorem dropMarks_ctl (s : State) (at_ : Place → Bool) : (dropMarks s at_).ctl = s.ctl := by
  unfold dropMarks; split <;> rfl

@[simp] theorem dropMarks_feat (s : State) (at_ : Place → Bool) : (dropMarks s at_).feat = s.feat := by
  unfold dropMarks; split <;> rfl

@[simp] theorem dropMarks_boot (s : State) (at_ : Place → Bool) : (dropMarks s at_).boot = s.boot := by
  unfold dropMarks; split <;> rfl

@[simp] theorem dropMarks_pwr (s : State) (at_ : Place → Bool) : (dropMarks s at_).pwr = s.pwr := by
  unfold dropMarks; split <;> rfl

@[simp] theorem dropMarks_perf (s : State) (at_ : Place → Bool) : (dropMarks s at_).perf = s.perf := by
  unfold dropMarks; split <;> rfl

@[simp] theorem dropMarks_dbg (s : State) (at_ : Place → Bool) : (dropMarks s at_).dbg = s.dbg := by
  unfold dropMarks; split <;> rfl

/-! ## countCorr -/

@[simp] theorem countCorr_pending (s : State) (p : Place) : (countCorr s p).pending = s.pending := by
  unfold countCorr; split <;> rfl

@[simp] theorem countCorr_tiles (s : State) (p : Place) : (countCorr s p).tiles = s.tiles := by
  unfold countCorr; split <;> rfl

@[simp] theorem countCorr_pad (s : State) (p : Place) : (countCorr s p).pad = s.pad := by
  unfold countCorr; split <;> rfl

@[simp] theorem countCorr_mat (s : State) (p : Place) : (countCorr s p).mat = s.mat := by
  unfold countCorr; split <;> rfl

@[simp] theorem countCorr_firn (s : State) (p : Place) : (countCorr s p).firn = s.firn := by
  unfold countCorr; split <;> rfl

@[simp] theorem countCorr_vec (s : State) (p : Place) : (countCorr s p).vec = s.vec := by
  unfold countCorr; split <;> rfl

@[simp] theorem countCorr_seq (s : State) (p : Place) : (countCorr s p).seq = s.seq := by
  unfold countCorr; split <;> rfl

@[simp] theorem countCorr_strm (s : State) (p : Place) : (countCorr s p).strm = s.strm := by
  unfold countCorr; split <;> rfl

@[simp] theorem countCorr_rev (s : State) (p : Place) : (countCorr s p).rev = s.rev := by
  unfold countCorr; split <;> rfl

@[simp] theorem countCorr_upd (s : State) (p : Place) : (countCorr s p).upd = s.upd := by
  unfold countCorr; split <;> rfl

@[simp] theorem countCorr_ctl (s : State) (p : Place) : (countCorr s p).ctl = s.ctl := by
  unfold countCorr; split <;> rfl

@[simp] theorem countCorr_feat (s : State) (p : Place) : (countCorr s p).feat = s.feat := by
  unfold countCorr; split <;> rfl

@[simp] theorem countCorr_boot (s : State) (p : Place) : (countCorr s p).boot = s.boot := by
  unfold countCorr; split <;> rfl

@[simp] theorem countCorr_pwr (s : State) (p : Place) : (countCorr s p).pwr = s.pwr := by
  unfold countCorr; split <;> rfl

@[simp] theorem countCorr_perf (s : State) (p : Place) : (countCorr s p).perf = s.perf := by
  unfold countCorr; split <;> rfl

@[simp] theorem countCorr_dbg (s : State) (p : Place) : (countCorr s p).dbg = s.dbg := by
  unfold countCorr; split <;> rfl

/-! ## Register files -/

@[simp] theorem getS_setS_same (s : State) (r : BitVec 5) (v : DWord) : getS (setS s r v) r = v := by
  simp [getS, setS]

theorem getS_setS_ne (s : State) (r q : BitVec 5) (v : DWord) (h : q ≠ r) : getS (setS s r v) q = getS s q := by
  have : r.toNat ≠ q.toNat := fun e => h (BitVec.eq_of_toNat_eq e.symm)
  simp only [getS, setS]
  exact Vector.getElem_set_ne _ _ this

@[simp] theorem getV_setV_same (s : State) (r : BitVec 5) (v : VReg) : getV (setV s r v) r = v := by
  simp [getV, setV]

theorem getV_setV_ne (s : State) (r q : BitVec 5) (v : VReg) (h : q ≠ r) : getV (setV s r v) q = getV s q := by
  have : r.toNat ≠ q.toNat := fun e => h (BitVec.eq_of_toNat_eq e.symm)
  simp only [getV, setV]
  exact Vector.getElem_set_ne _ _ this

theorem getK_setK_same (s : State) (k : BitVec 3) (m : Mask) (h : k ≠ 0) : getK (setK s k m) k = m := by
  simp only [getK, setK, if_neg h]
  exact Vector.getElem_set_self _

theorem getK_setK_ne (s : State) (k q : BitVec 3) (m : Mask) (h : q ≠ k) : getK (setK s k m) q = getK s q := by
  have : k.toNat ≠ q.toNat := fun e => h (BitVec.eq_of_toNat_eq e.symm)
  by_cases hk : k = 0
  · simp [setK, hk]
  · by_cases hq : q = 0
    · simp [getK, hq]
    · simp only [getK, setK, hk, hq, if_false]
      exact Vector.getElem_set_ne _ _ this

@[simp] theorem getK_zero (s : State) : getK s 0 = BitVec.allOnes 512 := rfl

@[simp] theorem getT_setT_same (s : State) (t : BitVec 4) (x : Tile) : getT (setT s t x) t = x := by
  simp [getT, setT]

theorem getT_setT_ne (s : State) (t q : BitVec 4) (x : Tile) (h : q ≠ t) : getT (setT s t x) q = getT s q := by
  have : t.toNat ≠ q.toNat := fun e => h (BitVec.eq_of_toNat_eq e.symm)
  simp only [getT, setT]
  exact Vector.getElem_set_ne _ _ this

/-! ## Readers over the other updates -/

@[simp] theorem getS_setV (s : State) (r : BitVec 5) (v : VReg) (q : BitVec 5) : getS (setV s r v) q = getS s q := rfl

@[simp] theorem getS_setK (s : State) (k : BitVec 3) (m : Mask) (q : BitVec 5) : getS (setK s k m) q = getS s q := by
  unfold setK; split <;> rfl

@[simp] theorem getS_setT (s : State) (t : BitVec 4) (x : Tile) (q : BitVec 5) : getS (setT s t x) q = getS s q := rfl

@[simp] theorem getS_setPc (s : State) (pc : Nat) (q : BitVec 5) : getS (setPc s pc) q = getS s q := rfl

@[simp] theorem getS_setInst (s : State) (uid : Nat) (f : Inst → Inst) (q : BitVec 5) : getS (setInst s uid f) q = getS s q := rfl

@[simp] theorem getS_raiseMat (s : State) (f : Flags) (q : BitVec 5) : getS (raiseMat s f) q = getS s q := rfl

@[simp] theorem getS_raiseVec (s : State) (f : Flags) (q : BitVec 5) : getS (raiseVec s f) q = getS s q := rfl

@[simp] theorem getS_raiseUpd (s : State) (f : Flags) (q : BitVec 5) : getS (raiseUpd s f) q = getS s q := rfl

@[simp] theorem getS_irqSet (s : State) (b : BitVec 4) (q : BitVec 5) : getS (irqSet s b) q = getS s q := rfl

@[simp] theorem getS_perfAdd (s : State) (ev n : Nat) (q : BitVec 5) : getS (perfAdd s ev n) q = getS s q := by
  unfold perfAdd; split <;> rfl

@[simp] theorem getS_setFirnRow (s : State) (a r : Nat) (x : FirnRow) (q : BitVec 5) : getS (setFirnRow s a r x) q = getS s q := rfl

@[simp] theorem getS_setStatRow (s : State) (r : Nat) (x : StatRow) (q : BitVec 5) : getS (setStatRow s r x) q = getS s q := rfl

@[simp] theorem getS_dropMarks (s : State) (at_ : Place → Bool) (q : BitVec 5) : getS (dropMarks s at_) q = getS s q := by
  unfold dropMarks; split <;> rfl

@[simp] theorem getS_countCorr (s : State) (p : Place) (q : BitVec 5) : getS (countCorr s p) q = getS s q := by
  unfold countCorr; split <;> rfl

@[simp] theorem getV_setS (s : State) (r : BitVec 5) (v : DWord) (q : BitVec 5) : getV (setS s r v) q = getV s q := rfl

@[simp] theorem getV_setK (s : State) (k : BitVec 3) (m : Mask) (q : BitVec 5) : getV (setK s k m) q = getV s q := by
  unfold setK; split <;> rfl

@[simp] theorem getV_setT (s : State) (t : BitVec 4) (x : Tile) (q : BitVec 5) : getV (setT s t x) q = getV s q := rfl

@[simp] theorem getV_setPc (s : State) (pc : Nat) (q : BitVec 5) : getV (setPc s pc) q = getV s q := rfl

@[simp] theorem getV_setInst (s : State) (uid : Nat) (f : Inst → Inst) (q : BitVec 5) : getV (setInst s uid f) q = getV s q := rfl

@[simp] theorem getV_raiseMat (s : State) (f : Flags) (q : BitVec 5) : getV (raiseMat s f) q = getV s q := rfl

@[simp] theorem getV_raiseVec (s : State) (f : Flags) (q : BitVec 5) : getV (raiseVec s f) q = getV s q := rfl

@[simp] theorem getV_raiseUpd (s : State) (f : Flags) (q : BitVec 5) : getV (raiseUpd s f) q = getV s q := rfl

@[simp] theorem getV_irqSet (s : State) (b : BitVec 4) (q : BitVec 5) : getV (irqSet s b) q = getV s q := rfl

@[simp] theorem getV_perfAdd (s : State) (ev n : Nat) (q : BitVec 5) : getV (perfAdd s ev n) q = getV s q := by
  unfold perfAdd; split <;> rfl

@[simp] theorem getV_setFirnRow (s : State) (a r : Nat) (x : FirnRow) (q : BitVec 5) : getV (setFirnRow s a r x) q = getV s q := rfl

@[simp] theorem getV_setStatRow (s : State) (r : Nat) (x : StatRow) (q : BitVec 5) : getV (setStatRow s r x) q = getV s q := rfl

@[simp] theorem getV_dropMarks (s : State) (at_ : Place → Bool) (q : BitVec 5) : getV (dropMarks s at_) q = getV s q := by
  unfold dropMarks; split <;> rfl

@[simp] theorem getV_countCorr (s : State) (p : Place) (q : BitVec 5) : getV (countCorr s p) q = getV s q := by
  unfold countCorr; split <;> rfl

@[simp] theorem getK_setS (s : State) (r : BitVec 5) (v : DWord) (q : BitVec 3) : getK (setS s r v) q = getK s q := rfl

@[simp] theorem getK_setV (s : State) (r : BitVec 5) (v : VReg) (q : BitVec 3) : getK (setV s r v) q = getK s q := rfl

@[simp] theorem getK_setT (s : State) (t : BitVec 4) (x : Tile) (q : BitVec 3) : getK (setT s t x) q = getK s q := rfl

@[simp] theorem getK_setPc (s : State) (pc : Nat) (q : BitVec 3) : getK (setPc s pc) q = getK s q := rfl

@[simp] theorem getK_setInst (s : State) (uid : Nat) (f : Inst → Inst) (q : BitVec 3) : getK (setInst s uid f) q = getK s q := rfl

@[simp] theorem getK_raiseMat (s : State) (f : Flags) (q : BitVec 3) : getK (raiseMat s f) q = getK s q := rfl

@[simp] theorem getK_raiseVec (s : State) (f : Flags) (q : BitVec 3) : getK (raiseVec s f) q = getK s q := rfl

@[simp] theorem getK_raiseUpd (s : State) (f : Flags) (q : BitVec 3) : getK (raiseUpd s f) q = getK s q := rfl

@[simp] theorem getK_irqSet (s : State) (b : BitVec 4) (q : BitVec 3) : getK (irqSet s b) q = getK s q := rfl

@[simp] theorem getK_perfAdd (s : State) (ev n : Nat) (q : BitVec 3) : getK (perfAdd s ev n) q = getK s q := by
  unfold perfAdd; split <;> rfl

@[simp] theorem getK_setFirnRow (s : State) (a r : Nat) (x : FirnRow) (q : BitVec 3) : getK (setFirnRow s a r x) q = getK s q := rfl

@[simp] theorem getK_setStatRow (s : State) (r : Nat) (x : StatRow) (q : BitVec 3) : getK (setStatRow s r x) q = getK s q := rfl

@[simp] theorem getK_dropMarks (s : State) (at_ : Place → Bool) (q : BitVec 3) : getK (dropMarks s at_) q = getK s q := by
  unfold dropMarks; split <;> rfl

@[simp] theorem getK_countCorr (s : State) (p : Place) (q : BitVec 3) : getK (countCorr s p) q = getK s q := by
  unfold countCorr; split <;> rfl

@[simp] theorem getT_setS (s : State) (r : BitVec 5) (v : DWord) (q : BitVec 4) : getT (setS s r v) q = getT s q := rfl

@[simp] theorem getT_setV (s : State) (r : BitVec 5) (v : VReg) (q : BitVec 4) : getT (setV s r v) q = getT s q := rfl

@[simp] theorem getT_setK (s : State) (k : BitVec 3) (m : Mask) (q : BitVec 4) : getT (setK s k m) q = getT s q := by
  unfold setK; split <;> rfl

@[simp] theorem getT_setPc (s : State) (pc : Nat) (q : BitVec 4) : getT (setPc s pc) q = getT s q := rfl

@[simp] theorem getT_setInst (s : State) (uid : Nat) (f : Inst → Inst) (q : BitVec 4) : getT (setInst s uid f) q = getT s q := rfl

@[simp] theorem getT_raiseMat (s : State) (f : Flags) (q : BitVec 4) : getT (raiseMat s f) q = getT s q := rfl

@[simp] theorem getT_raiseVec (s : State) (f : Flags) (q : BitVec 4) : getT (raiseVec s f) q = getT s q := rfl

@[simp] theorem getT_raiseUpd (s : State) (f : Flags) (q : BitVec 4) : getT (raiseUpd s f) q = getT s q := rfl

@[simp] theorem getT_irqSet (s : State) (b : BitVec 4) (q : BitVec 4) : getT (irqSet s b) q = getT s q := rfl

@[simp] theorem getT_perfAdd (s : State) (ev n : Nat) (q : BitVec 4) : getT (perfAdd s ev n) q = getT s q := by
  unfold perfAdd; split <;> rfl

@[simp] theorem getT_setFirnRow (s : State) (a r : Nat) (x : FirnRow) (q : BitVec 4) : getT (setFirnRow s a r x) q = getT s q := rfl

@[simp] theorem getT_setStatRow (s : State) (r : Nat) (x : StatRow) (q : BitVec 4) : getT (setStatRow s r x) q = getT s q := rfl

@[simp] theorem getT_dropMarks (s : State) (at_ : Place → Bool) (q : BitVec 4) : getT (dropMarks s at_) q = getT s q := by
  unfold dropMarks; split <;> rfl

@[simp] theorem getT_countCorr (s : State) (p : Place) (q : BitVec 4) : getT (countCorr s p) q = getT s q := by
  unfold countCorr; split <;> rfl

@[simp] theorem vl_setV (s : State) (r : BitVec 5) (v : VReg) : (setV s r v).vec.vl = s.vec.vl := rfl

@[simp] theorem vl_setK (s : State) (k : BitVec 3) (m : Mask) : (setK s k m).vec.vl = s.vec.vl := by
  unfold setK; split <;> rfl

@[simp] theorem vl_raiseVec (s : State) (f : Flags) : (raiseVec s f).vec.vl = s.vec.vl := rfl

@[simp] theorem numstat_raiseVec (s : State) (f : Flags) : (raiseVec s f).vec.numstat = s.vec.numstat ||| f := rfl

@[simp] theorem numstat_raiseMat (s : State) (f : Flags) : (raiseMat s f).mat.numstat = s.mat.numstat ||| f := rfl

end Sys2Proof.Machine
end

