-- ==== Sys2Proof/Laws/Issue.lean ====
section
/-! SUPPORT. What the issue of an instruction can do, said once: for an instruction that can issue, and for any. -/

namespace Sys2Proof.Machine

open Sys2Proof

/-- An instruction that can issue does what its body answers. -/
theorem issue_issuable {s : State} {r : Run} {i : Inst} {q : Queue} {words : Nat} {c : Instr} {regs : List (BitVec 5)}
    (h : Issuable s r i q words c regs) (body : State → Run → Inst → Verdict) :
    issue s q words c regs body = issued s r (fetchedAt s r q words c regs) (body s r i) := by
  have hi : ¬ codeLen s i < r.pc + 16 * words := by have := h.inCode; omega
  have hr := h.ready
  unfold fetchedAt at hr
  unfold issue
  simp only [h.running, h.inst, h.fetched, h.fetching, Bool.not_true, Bool.false_or, h.free, Bool.false_eq_true, if_false,
    if_neg hi, h.here, h.checked, hr, if_true]
  rfl

/-- Everything that the issue of an instruction can do: nothing, what it does for an instruction of a queue, a precise fault
of the fetch, a place in a queue, or what its body answers. -/
theorem issue_cases (s : State) (q : Queue) (words : Nat) (c : Instr) (regs : List (BitVec 5))
    (body : State → Run → Inst → Verdict) :
    issue s q words c regs body = s
      ∨ ∃ r i, s.seq.run = some r ∧ findInst s r.uid = some i ∧
        ((∃ e, s.seq.issuing = some e ∧ issue s q words c regs body = issueQueued s e r i body)
          ∨ (∃ pc k, issue s q words c regs body = faultAt s r pc k)
          ∨ issue s q words c regs body = holdBack s (fetchedAt s r q words c regs)
          ∨ issue s q words c regs body = issued s r (fetchedAt s r q words c regs) (body s r i)) := by
  unfold issue
  cases hr : s.seq.run with
  | none => exact .inl rfl
  | some r =>
    simp only
    cases hi : findInst s r.uid with
    | none => exact .inl rfl
    | some i =>
      simp only
      cases hq : s.seq.issuing with
      | some e => exact .inr ⟨r, i, rfl, hi, .inl ⟨e, rfl, rfl⟩⟩
      | none =>
        simp only
        split
        · exact .inl rfl
        · split
          · exact .inr ⟨r, i, rfl, hi, .inr (.inl ⟨_, _, rfl⟩)⟩
          · split
            · exact .inl rfl
            · exact .inr ⟨r, i, rfl, hi, .inr (.inl ⟨_, _, rfl⟩)⟩
            · split
              · exact .inr ⟨r, i, rfl, hi, .inr (.inl ⟨_, _, rfl⟩)⟩
              · split
                · exact .inr ⟨r, i, rfl, hi, .inr (.inr (.inr rfl))⟩
                · exact .inr ⟨r, i, rfl, hi, .inr (.inr (.inl rfl))⟩

/-- A vector instruction that can issue, whose body only changes state. -/
theorem vecPlain_issuable {s : State} {r : Run} {i : Inst} {c : Instr} (h : Issuable s r i .v 1 c [])
    (f : State → State) : vecPlain s c f = .next (after (f (counted s)) r 1) := by
  unfold vecPlain vecIssue
  rw [issue_issuable h]
  rfl

/-- A vector instruction that can issue and whose body answers that it has its effect. -/
theorem vecIssue_go {s t : State} {r : Run} {i : Inst} {c : Instr} {regs : List (BitVec 5)}
    {body : State → Run → Inst → Verdict} (h : Issuable s r i .v 1 c regs)
    (hb : body (counted s) r i = .go t) : vecIssue s c regs body = .next (after t r 1) := by
  unfold vecIssue
  rw [issue_issuable h]
  simp only [counted] at hb
  simp only [hb]
  rfl

/-- An instruction that can issue and whose body answers that it has its effect. -/
theorem issue_go {s t : State} {r : Run} {i : Inst} {q : Queue} {n : Nat} {c : Instr} {regs : List (BitVec 5)}
    {body : State → Run → Inst → Verdict} (h : Issuable s r i q n c regs)
    (hb : body s r i = .go t) : issue s q n c regs body = after t r n := by
  rw [issue_issuable h, hb]
  rfl

/-! ## Storage errors -/

/-- Where no storage error lies, a read meets none. -/
theorem readMarks_clean {s : State} (h : Clean s) (who : Option Nat) (at_ : Place → Bool) : readMarks s who at_ = s := by
  unfold readMarks
  rw [show s.chk.marks = [] from h]
  rfl

/-- Where no storage error lies, a write ends none. -/
theorem dropMarks_clean {s : State} (h : Clean s) (at_ : Place → Bool) : dropMarks s at_ = s := by
  unfold dropMarks
  rw [show s.chk.marks = [] from h]
  rfl

end Sys2Proof.Machine
end

