-- ==== Sys2Proof/Laws/Mem.lean ====
section
/-! SUPPORT. Sorted lists, byte memory, the scratchpad and Firn: what a read sees after a write, and that every memory
operation keeps the canonical form. -/

namespace Sys2Proof.Machine

open Sys2Proof

/-! ## Sorted association lists -/

theorem kGet_kSet_same {α : Type} (m : List (Nat × α)) (k : Nat) (v : Option α) (h : kSorted m = true) :
    kGet (kSet m k v) k = v := by
  suffices ∀ lo, kSortedFrom lo m = true → kGet (kSet m k v) k = v ∧ True from (this 0 h).1
  induction m with
  | nil => intro lo _; cases v <;> simp [kSet, kGet]
  | cons c m ih =>
    obtain ⟨j, y⟩ := c
    intro lo hs
    simp only [kSortedFrom, Bool.and_eq_true, decide_eq_true_eq] at hs
    have absent : ∀ (l : List (Nat × α)) lo, kSortedFrom lo l = true → k < lo → kGet l k = none := by
      intro l
      induction l with
      | nil => intros; rfl
      | cons d l il =>
        intro lo hl hk
        simp only [kSortedFrom, Bool.and_eq_true, decide_eq_true_eq] at hl
        simp only [kGet]
        rw [if_neg (by omega)]
        exact il (d.1 + 1) hl.2 (by omega)
    simp only [kSet]
    split
    · cases v with
      | some x => simp [kGet]
      | none => exact ⟨by simp only [kGet]; rw [if_neg (by omega)]; exact absent m (j + 1) hs.2 (by omega), trivial⟩
    · split
      · cases v with
        | some x => simp [kGet]
        | none => exact ⟨absent m (j + 1) hs.2 (by omega), trivial⟩
      · refine ⟨?_, trivial⟩
        simp only [kGet]
        rw [if_neg (by omega)]
        have hm : kSorted m = true := by
          have : ∀ (l : List (Nat × α)) a b, b ≤ a → kSortedFrom a l = true → kSortedFrom b l = true := by
            intro l
            cases l with
            | nil => intros; rfl
            | cons d l =>
              intro a b hb hl
              simp only [kSortedFrom, Bool.and_eq_true, decide_eq_true_eq] at hl ⊢
              exact ⟨by omega, hl.2⟩
          exact this m (j + 1) 0 (by omega) hs.2
        exact (ih hm (j + 1) hs.2).1

theorem kGet_kSet_ne {α : Type} (m : List (Nat × α)) (k q : Nat) (v : Option α) (h : q ≠ k) :
    kGet (kSet m k v) q = kGet m q := by
  induction m with
  | nil => cases v <;> simp [kSet, kGet, Ne.symm h]
  | cons c m ih =>
    obtain ⟨j, y⟩ := c
    simp only [kSet]
    split
    · cases v <;> simp [kGet, Ne.symm h]
    · split
      · rename_i hk; subst hk
        cases v <;> simp [kGet, Ne.symm h]
      · simp [kGet, ih]

theorem kSortedFrom_mono {α : Type} (m : List (Nat × α)) (a b : Nat) (h : b ≤ a) (hm : kSortedFrom a m = true) :
    kSortedFrom b m = true := by
  cases m with
  | nil => rfl
  | cons c m =>
    simp only [kSortedFrom, Bool.and_eq_true, decide_eq_true_eq] at hm ⊢
    exact ⟨by omega, hm.2⟩

theorem kSortedFrom_kSet {α : Type} (m : List (Nat × α)) (lo k : Nat) (v : Option α) (hk : lo ≤ k)
    (h : kSortedFrom lo m = true) : kSortedFrom lo (kSet m k v) = true := by
  induction m generalizing lo with
  | nil => cases v <;> simp [kSet, kSortedFrom, hk]
  | cons c m ih =>
    obtain ⟨j, y⟩ := c
    simp only [kSortedFrom, Bool.and_eq_true, decide_eq_true_eq] at h
    simp only [kSet]
    split
    · cases v with
      | some x =>
        simp only [kSortedFrom, Bool.and_eq_true, decide_eq_true_eq]
        exact ⟨hk, by omega, h.2⟩
      | none => simp [kSortedFrom, h]
    · split
      · cases v with
        | some x =>
          rename_i e; subst e
          simp [kSortedFrom, hk, h.2]
        | none => exact kSortedFrom_mono m (j + 1) lo (by omega) h.2
      · simp only [kSortedFrom, Bool.and_eq_true, decide_eq_true_eq]
        exact ⟨h.1, ih (j + 1) (by omega) h.2⟩

theorem kSorted_kSet {α : Type} (m : List (Nat × α)) (k : Nat) (v : Option α) (h : kSorted m = true) :
    kSorted (kSet m k v) = true := kSortedFrom_kSet m 0 k v (Nat.zero_le _) h

theorem kSortedFrom_filter {α : Type} (p : Nat × α → Bool) (m : List (Nat × α)) (lo : Nat)
    (h : kSortedFrom lo m = true) : kSortedFrom lo (m.filter p) = true := by
  induction m generalizing lo with
  | nil => rfl
  | cons c m ih =>
    simp only [kSortedFrom, Bool.and_eq_true, decide_eq_true_eq] at h
    simp only [List.filter_cons]
    split
    · simp only [kSortedFrom, Bool.and_eq_true, decide_eq_true_eq]
      exact ⟨h.1, ih _ h.2⟩
    · exact kSortedFrom_mono _ _ _ (by omega) (ih _ h.2)

/-- A list with a key set holds nothing but what it held and the new entry. -/
theorem mem_kSet {α : Type} (m : List (Nat × α)) (k : Nat) (v : Option α) (c : Nat × α) (h : c ∈ kSet m k v) :
    c ∈ m ∨ ∃ x, v = some x ∧ c = (k, x) := by
  induction m with
  | nil => cases v <;> simp_all [kSet]
  | cons d m ih =>
    obtain ⟨j, y⟩ := d
    simp only [kSet] at h
    split at h
    · cases v with
      | some x =>
        rcases List.mem_cons.1 h with e | e
        · exact .inr ⟨x, rfl, e⟩
        · exact .inl e
      | none => exact .inl h
    · split at h
      · cases v with
        | some x =>
          rcases List.mem_cons.1 h with e | e
          · exact .inr ⟨x, rfl, e⟩
          · exact .inl (List.mem_cons_of_mem _ e)
        | none => exact .inl (List.mem_cons_of_mem _ h)
      · rcases List.mem_cons.1 h with e | e
        · exact .inl (e ▸ List.mem_cons_self)
        · rcases ih e with i | i
          · exact .inl (List.mem_cons_of_mem _ i)
          · exact .inr i

/-! ## Byte memory -/

theorem memGet_memPut_same (m : List Host.Cell) (a : Nat) (b : Byte) (h : kSorted m = true) :
    memGet (memPut m a b) a = b := by
  simp only [memGet, memPut]
  rw [kGet_kSet_same m a _ h]
  by_cases hb : b = 0
  · rw [if_pos hb, hb]; rfl
  · rw [if_neg hb]; rfl

theorem memGet_memPut_ne (m : List Host.Cell) (a q : Nat) (b : Byte) (h : q ≠ a) :
    memGet (memPut m a b) q = memGet m q := by
  simp only [memGet, memPut, kGet_kSet_ne m a q _ h]

theorem memWf_memPut (size : Nat) (m : List Host.Cell) (a : Nat) (b : Byte) (ha : a < size)
    (h : memWf size m = true) : memWf size (memPut m a b) = true := by
  simp only [memWf, Bool.and_eq_true, List.all_eq_true, decide_eq_true_eq] at h ⊢
  refine ⟨kSorted_kSet _ _ _ h.1, fun c hc => ?_⟩
  rcases mem_kSet _ _ _ _ hc with i | ⟨x, hx, rfl⟩
  · exact h.2 c i
  · by_cases hb : b = 0
    · rw [if_pos hb] at hx; cases hx
    · rw [if_neg hb] at hx; cases hx; exact ⟨hb, ha⟩

theorem memWf_filter (size : Nat) (p : Host.Cell → Bool) (m : List Host.Cell) (h : memWf size m = true) :
    memWf size (m.filter p) = true := by
  simp only [memWf, Bool.and_eq_true, List.all_eq_true, decide_eq_true_eq] at h ⊢
  exact ⟨kSortedFrom_filter p m 0 h.1, fun c hc => h.2 c (List.mem_filter.1 hc).1⟩

theorem kGet_filter_keep {α : Type} (p : Nat × α → Bool) (m : List (Nat × α)) (k : Nat) (h : ∀ x, p (k, x) = true) :
    kGet (m.filter p) k = kGet m k := by
  induction m with
  | nil => rfl
  | cons c m ih =>
    obtain ⟨j, y⟩ := c
    simp only [List.filter_cons]
    by_cases e : j = k
    · subst e; rw [if_pos (h y)]; simp [kGet]
    · split <;> simp [kGet, e, ih]

theorem kGet_filter_drop {α : Type} (p : Nat × α → Bool) (m : List (Nat × α)) (k : Nat) (h : ∀ x, p (k, x) = false) :
    kGet (m.filter p) k = none := by
  induction m with
  | nil => rfl
  | cons c m ih =>
    obtain ⟨j, y⟩ := c
    simp only [List.filter_cons]
    by_cases e : j = k
    · subst e; rw [if_neg (by simp [h y])]; exact ih
    · split <;> simp [kGet, e, ih]

/-! ## Single bits -/

theorem getLsbD_bvPut {w : Nat} (x : BitVec w) (pos len v i : Nat) (hv : pos + len ≤ w) :
    (bvPut x pos len v).getLsbD i
      = if pos ≤ i ∧ i < pos + len then (v % 2 ^ len).testBit (i - pos) else x.getLsbD i := by
  by_cases hi : i < w
  · simp only [bvPut, BitVec.getLsbD_or, BitVec.getLsbD_and, BitVec.getLsbD_not, BitVec.getLsbD_ofNat, hi, decide_true,
      Bool.true_and, Nat.testBit_mul_two_pow, Nat.testBit_two_pow_sub_one]
    by_cases h1 : pos ≤ i
    · by_cases h2 : i < pos + len
      · have : i - pos < len := by omega
        simp [h1, h2, this]
      · have h3 : ¬ i - pos < len := by omega
        have h4 : (v % 2 ^ len).testBit (i - pos) = false :=
          Nat.testBit_lt_two_pow (Nat.lt_of_lt_of_le (Nat.mod_lt _ (Nat.two_pow_pos len))
            (Nat.pow_le_pow_right (by omega) (by omega)))
        simp [h1, h2, h3, h4]
    · simp [h1]
  · have hx : x.getLsbD i = false := BitVec.getLsbD_of_ge _ _ (by omega)
    rw [BitVec.getLsbD_of_ge _ _ (by omega), hx, if_neg (by omega)]

theorem getLsbD_bvSet {w : Nat} (x : BitVec w) (k i : Nat) (b : Bool) (hk : k < w) :
    (bvSet x k b).getLsbD i = if i = k then b else x.getLsbD i := by
  simp only [bvSet]
  rw [getLsbD_bvPut _ _ _ _ _ (by omega)]
  by_cases e : i = k
  · subst e; cases b <;> simp [bit]
  · rw [if_neg (by omega), if_neg e]

/-! ## The scratchpad -/

theorem padWf_empty : Pad.wf ⟨[], 0, []⟩ = true := rfl

/-- Every listed byte of a scratchpad in canonical form. -/
theorem padWf_iff (p : Pad) : Pad.wf p = true ↔
    memWf 33554432 p.cells = true ∧ ∀ c ∈ p.cells, p.valid.getLsbD (c.1 / 1024) = true := by
  simp [Pad.wf]

theorem padWf_padPut (p : Pad) (a : Nat) (b : Byte) (ha : a < 33554432) (h : Pad.wf p = true) :
    Pad.wf (padPut p a b) = true := by
  rw [padWf_iff] at h ⊢
  unfold padPut
  split
  · refine ⟨memWf_memPut _ _ _ _ ha h.1, fun c hc => ?_⟩
    rcases mem_kSet _ _ _ _ hc with i | ⟨x, _, rfl⟩
    · exact h.2 c i
    · assumption
  · refine ⟨memWf_memPut _ _ _ _ ha (memWf_filter _ _ _ h.1), fun c hc => ?_⟩
    rw [getLsbD_bvSet _ _ _ _ (by omega)]
    rcases mem_kSet _ _ _ _ hc with i | ⟨x, _, rfl⟩
    · have := h.2 c (List.mem_filter.1 i).1
      simp [this]
    · simp

theorem padGet_padPut_same (p : Pad) (a : Nat) (b : Byte) (ha : a < 33554432) (h : Pad.wf p = true) :
    padGet (padPut p a b) a = b := by
  have hs : kSorted p.cells = true := by
    have := ((padWf_iff p).1 h).1
    simp only [memWf, Bool.and_eq_true] at this
    exact this.1
  unfold padGet padPut
  split
  · exact memGet_memPut_same _ _ _ hs
  · rw [getLsbD_bvSet _ _ _ _ (by omega), if_pos rfl, if_pos rfl]
    exact memGet_memPut_same _ _ _ (kSortedFrom_filter _ _ _ hs)

theorem padGet_padPut_ne (p : Pad) (a q : Nat) (b : Byte) (ha : a < 33554432) (hq : q ≠ a) :
    padGet (padPut p a b) q = padGet p q := by
  unfold padGet padPut
  split
  · simp only [memGet_memPut_ne _ _ _ _ hq]
  · rename_i hv
    rw [getLsbD_bvSet _ _ _ _ (by omega)]
    by_cases e : q / 1024 = a / 1024
    · rw [if_pos e, if_pos rfl, e, if_neg hv, memGet_memPut_ne _ _ _ _ hq]
      simp only [memGet]
      rw [kGet_filter_drop _ _ _ (by simp [e])]
      rfl
    · rw [if_neg e, memGet_memPut_ne _ _ _ _ hq]
      simp only [memGet]
      rw [kGet_filter_keep _ _ _ (by simp [e])]

theorem padWf_padWrite (p : Pad) (a : Nat) (bs : List Byte) (ha : a + bs.length ≤ 33554432) (h : Pad.wf p = true) :
    Pad.wf (padWrite p a bs) = true := by
  induction bs generalizing p a with
  | nil => exact h
  | cons b bs ih =>
    simp only [List.length_cons] at ha
    exact ih _ _ (by omega) (padWf_padPut _ _ _ (by omega) h)

/-- A write leaves every byte outside the written ones. -/
theorem padGet_padWrite_out (p : Pad) (a q : Nat) (bs : List Byte) (ha : a + bs.length ≤ 33554432)
    (hq : q < a ∨ a + bs.length ≤ q) : padGet (padWrite p a bs) q = padGet p q := by
  induction bs generalizing p a with
  | nil => rfl
  | cons b bs ih =>
    simp only [List.length_cons] at ha hq
    simp only [padWrite]
    rw [ih _ _ (by omega) (by omega)]
    exact padGet_padPut_ne _ _ _ _ (by omega) (by omega)

theorem bufPhys_lt (b : Buf) (o : Nat) (h : ∀ f ∈ b.frames, f < 512) : bufPhys b o < 33554432 := by
  unfold bufPhys
  have : b.frames.getD (o / 65536) 0 < 512 := by
    rw [List.getD_eq_getElem?_getD]
    rcases hx : b.frames[o / 65536]? with _ | x
    · simp
    · exact h x (List.mem_of_getElem? hx)
  omega

theorem padWf_padWriteBuf (p : Pad) (b : Buf) (o : Nat) (bs : List Byte) (hf : ∀ f ∈ b.frames, f < 512)
    (h : Pad.wf p = true) : Pad.wf (padWriteBuf p b o bs) = true := by
  induction bs generalizing p o with
  | nil => exact h
  | cons x xs ih => exact ih _ _ (padWf_padPut _ _ _ (bufPhys_lt b o hf) h)

/-- A write to a buffer leaves every byte that is not one of the written offsets. -/
theorem padGet_padWriteBuf_out (p : Pad) (b : Buf) (o q : Nat) (bs : List Byte) (hf : ∀ f ∈ b.frames, f < 512)
    (hq : ∀ i < bs.length, bufPhys b (o + i) ≠ q) : padGet (padWriteBuf p b o bs) q = padGet p q := by
  induction bs generalizing p o with
  | nil => rfl
  | cons x xs ih =>
    simp only [padWriteBuf]
    rw [ih]
    · exact padGet_padPut_ne _ _ _ _ (bufPhys_lt b o hf) (fun e => hq 0 (by simp) (by simpa using e.symm))
    · intro i hi
      have := hq (i + 1) (by simp only [List.length_cons]; omega)
      rwa [show o + 1 + i = o + (i + 1) by omega]

theorem valid_clear (fs : List Nat) (v : BitVec 32768) (l : Nat) (hf : ∀ f ∈ fs, f < 512) :
    (fs.foldl (fun v f => bvPut v (64 * f) 64 0) v).getLsbD l
      = (v.getLsbD l && !fs.contains (l / 64)) := by
  induction fs generalizing v with
  | nil => simp
  | cons f fs ih =>
    have h1 : f < 512 := hf f List.mem_cons_self
    simp only [List.foldl_cons]
    rw [ih _ (fun g hg => hf g (List.mem_cons_of_mem _ hg)), getLsbD_bvPut _ _ _ _ _ (by omega)]
    by_cases e : l / 64 = f
    · subst e
      rw [if_pos (by omega)]
      simp
    · rw [if_neg (by omega)]
      simp [e]

theorem padWf_padClearFrames (p : Pad) (fs : List Nat) (hf : ∀ f ∈ fs, f < 512) (h : Pad.wf p = true) :
    Pad.wf (padClearFrames p fs) = true := by
  rw [padWf_iff] at h ⊢
  refine ⟨memWf_filter _ _ _ h.1, fun c hc => ?_⟩
  have := List.mem_filter.1 hc
  simp only [padClearFrames]
  rw [valid_clear _ _ _ hf]
  have e : c.1 / 1024 / 64 = c.1 / 65536 := by omega
  rw [e, h.2 c this.1]
  simpa using this.2

/-- Cleared frames read as zero, and every other byte is as before. -/
theorem padGet_padClearFrames (p : Pad) (fs : List Nat) (a : Nat) (hf : ∀ f ∈ fs, f < 512) :
    padGet (padClearFrames p fs) a = if fs.contains (a / 65536) then 0 else padGet p a := by
  have hv : (padClearFrames p fs).valid.getLsbD (a / 1024) = (p.valid.getLsbD (a / 1024) && !fs.contains (a / 65536)) := by
    rw [show a / 65536 = a / 1024 / 64 by omega]
    exact valid_clear fs p.valid _ hf
  by_cases e : fs.contains (a / 65536) = true
  · simp only [padGet, hv, e, Bool.not_true, Bool.and_false, if_true]
    rfl
  · have e' : fs.contains (a / 65536) = false := by simpa using e
    have hk : kGet (padClearFrames p fs).cells a = kGet p.cells a := kGet_filter_keep _ _ _ fun x => by simp only [e', Bool.not_false]
    simp only [padGet, hv, e', Bool.not_false, Bool.and_true, memGet, hk]
    rfl

/-! ## Firn -/

theorem firnRow_setFirnRow_same (s : State) (a r : Nat) (x : FirnRow) (h : kSorted s.firn.rows = true) :
    firnRow (setFirnRow s a r x) a r = x := by
  simp only [firnRow, setFirnRow]
  rw [kGet_kSet_same _ _ _ h]
  by_cases e : x = .reset
  · rw [if_pos e, e]; rfl
  · rw [if_neg e]; rfl

theorem firnRow_setFirnRow_ne (s : State) (a r b q : Nat) (x : FirnRow) (h : firnKey b q ≠ firnKey a r) :
    firnRow (setFirnRow s a r x) b q = firnRow s b q := by
  simp only [firnRow, setFirnRow, kGet_kSet_ne _ _ _ _ h]

theorem firnKey_inj (a r b q : Nat) (h1 : r < 2048) (h2 : q < 2048) (h : firnKey b q = firnKey a r) : b = a ∧ q = r := by
  unfold firnKey at h; omega

theorem statRow_setStatRow_same (s : State) (r : Nat) (x : StatRow) (h : kSorted s.firn.stats = true) :
    statRow (setStatRow s r x) r = x := by
  simp only [statRow, setStatRow]
  rw [kGet_kSet_same _ _ _ h]
  by_cases e : x = .reset
  · rw [if_pos e, e]; rfl
  · rw [if_neg e]; rfl

theorem statRow_setStatRow_ne (s : State) (r q : Nat) (x : StatRow) (h : q ≠ r) :
    statRow (setStatRow s r x) q = statRow s q := by
  simp only [statRow, setStatRow, kGet_kSet_ne _ _ _ _ h]

theorem firnWf_setFirnRow (s : State) (a r : Nat) (x : FirnRow) (h : Firn.wf s.firn = true) :
    Firn.wf (setFirnRow s a r x).firn = true := by
  simp only [Firn.wf, Bool.and_eq_true, List.all_eq_true, decide_eq_true_eq] at h ⊢
  refine ⟨⟨⟨kSorted_kSet _ _ _ h.1.1.1, fun c hc => ?_⟩, h.1.2⟩, h.2⟩
  rcases mem_kSet _ _ _ _ hc with i | ⟨y, hy, rfl⟩
  · exact h.1.1.2 c i
  · by_cases e : x = .reset
    · rw [if_pos e] at hy; cases hy
    · rw [if_neg e] at hy; cases hy; exact e

theorem firnWf_setStatRow (s : State) (r : Nat) (x : StatRow) (h : Firn.wf s.firn = true) :
    Firn.wf (setStatRow s r x).firn = true := by
  simp only [Firn.wf, Bool.and_eq_true, List.all_eq_true, decide_eq_true_eq] at h ⊢
  refine ⟨⟨h.1.1, kSorted_kSet _ _ _ h.1.2⟩, fun c hc => ?_⟩
  rcases mem_kSet _ _ _ _ hc with i | ⟨y, hy, rfl⟩
  · exact h.2 c i
  · by_cases e : x = .reset
    · rw [if_pos e] at hy; cases hy
    · rw [if_neg e] at hy; cases hy; exact e

end Sys2Proof.Machine
end

