-- ==== Sys2Proof/Laws/Lanes.lean ====
section
/-! SUPPORT. Packed elements: what an element of a vector register reads after elements were written, and what an
element-wise instruction does to VD and VEC_NUMSTAT. -/

namespace Sys2Proof.Machine

open Sys2Proof

theorem testBit_pack (b : Nat) (es : List Nat) (j : Nat) (hb : 0 < b) :
    (pack b es).testBit j = ((es.getD (j / b) 0) % 2 ^ b).testBit (j % b) := by
  induction es generalizing j with
  | nil => simp [pack]
  | cons c cs ih =>
    simp only [pack]
    rw [Nat.add_comm, Nat.mul_comm, Nat.mul_comm (pack b cs), Nat.testBit_two_pow_mul_add _ (Nat.mod_lt _ (Nat.two_pow_pos b))]
    split
    · rename_i h
      rw [Nat.div_eq_of_lt h, Nat.mod_eq_of_lt h]
      simp
    · rename_i h
      rw [ih]
      have h1 : j / b = (j - b) / b + 1 := Nat.div_eq_sub_div hb (by omega)
      have h2 : j % b = (j - b) % b := Nat.mod_eq_sub_mod (by omega)
      rw [h1, h2]
      simp

theorem testBit_bvGet {w : Nat} (x : BitVec w) (pos len j : Nat) :
    (bvGet x pos len).testBit j = (decide (j < len) && x.getLsbD (pos + j)) := by
  simp only [bvGet, Nat.testBit_mod_two_pow, Nat.testBit_div_two_pow, BitVec.getLsbD]
  rw [Nat.add_comm]

/-- Bits below the written elements, and the rest of the register. -/
theorem getLsbD_vPutElems (v : VReg) (b : Nat) (es : List Nat) (j : Nat) (hb : 0 < b) (hl : b * es.length ≤ 16384) :
    (vPutElems v b es).getLsbD j
      = if j < b * es.length then ((es.getD (j / b) 0) % 2 ^ b).testBit (j % b) else v.getLsbD j := by
  unfold vPutElems
  rw [getLsbD_bvPut _ _ _ _ _ (by omega)]
  simp only [Nat.zero_le, true_and, Nat.zero_add, Nat.sub_zero]
  split
  · rename_i h
    rw [Nat.testBit_mod_two_pow, testBit_pack _ _ _ hb]
    simp [h]
  · rfl

theorem vElem_vPutElems (v : VReg) (b : Nat) (es : List Nat) (n : Nat) (hb : 0 < b) (hn : n < es.length)
    (hl : b * es.length ≤ 16384) : vElem (vPutElems v b es) b n = es.getD n 0 % 2 ^ b := by
  apply Nat.eq_of_testBit_eq
  intro j
  unfold vElem
  rw [testBit_bvGet, getLsbD_vPutElems _ _ _ _ hb hl]
  by_cases hj : j < b
  · have hlt : b * n + j < b * es.length := by
      have : b * (n + 1) ≤ b * es.length := Nat.mul_le_mul_left b hn
      rw [Nat.mul_add, Nat.mul_one] at this
      omega
    have h1 : (b * n + j) / b = n := by
      rw [Nat.mul_add_div hb, Nat.div_eq_of_lt hj, Nat.add_zero]
    have h2 : (b * n + j) % b = j := by
      rw [Nat.mul_add_mod, Nat.mod_eq_of_lt hj]
    rw [if_pos hlt, h1, h2]
    simp [hj]
  · have : ((es.getD n 0) % 2 ^ b).testBit j = false :=
      Nat.testBit_lt_two_pow (Nat.lt_of_lt_of_le (Nat.mod_lt _ (Nat.two_pow_pos b))
        (Nat.pow_le_pow_right (by omega) (by omega)))
    rw [this]
    simp [hj]

theorem vElem_lt (v : VReg) (b n : Nat) : vElem v b n < 2 ^ b := Nat.mod_lt _ (Nat.two_pow_pos b)

theorem orFlags_cons (f : Flags) (l : List Flags) : orFlags (f :: l) = f ||| orFlags l := by
  have : ∀ (l : List Flags) (a : Flags), l.foldl (· ||| ·) a = a ||| l.foldl (· ||| ·) 0 := by
    intro l
    induction l with
    | nil => intro a; simp
    | cons b l ih =>
      intro a
      simp only [List.foldl_cons]
      rw [ih (a ||| b), ih (0 ||| b)]
      simp [BitVec.or_assoc]
  unfold orFlags
  rw [List.foldl_cons, this]
  simp

@[simp] theorem orFlags_nil : orFlags [] = 0 := rfl

theorem orFlags_lanes (l : List Nat) (p : Nat → Bool) (f : Nat → Flags) :
    orFlags (l.map fun n => if p n then f n else 0) = orFlags ((l.filter p).map f) := by
  induction l with
  | nil => rfl
  | cons n l ih =>
    simp only [List.map_cons, List.filter_cons, orFlags_cons, ih]
    by_cases h : p n = true
    · simp [h, orFlags_cons]
    · simp [h]

@[simp] theorem tabulate_length {α : Type} (n : Nat) (f : Nat → α) : (tabulate n f).length = n := by
  simp [tabulate]

theorem tabulate_getElem? {α : Type} (n i : Nat) (f : Nat → α) (h : i < n) : (tabulate n f)[i]? = some (f i) := by
  simp [tabulate, h]

/-- What an element-wise instruction writes and raises. -/
theorem vecMap_lanes (s : State) (w : VecWord) (b e : Nat) (f : Nat → Nat × Flags) (hb : 0 < b)
    (he : b * e ≤ 16384) :
    ∃ v fl, vecMap s w b e f = raiseVec (setV s w.vd v) fl ∧ LaneResult s w b e f v fl := by
  refine ⟨_, _, rfl, ?_, ?_, ?_, ?_⟩
  · intro n hn hk
    rw [vElem_vPutElems _ _ _ _ hb (by simpa using hn) (by simpa using he)]
    simp [List.getD_eq_getElem?_getD, tabulate_getElem? _ _ _ hn, hk]
  · intro n hn hk
    rw [vElem_vPutElems _ _ _ _ hb (by simpa using hn) (by simpa using he)]
    simp only [List.getD_eq_getElem?_getD, List.getElem?_map, tabulate_getElem? _ _ _ hn, hk, Bool.false_eq_true, if_false,
      Option.map_some, Option.getD_some]
    split
    · exact Nat.zero_mod _
    · exact Nat.mod_eq_of_lt (vElem_lt _ _ _)
  · intro j hj
    rw [getLsbD_vPutElems _ _ _ _ hb (by simpa using he)]
    rw [if_neg (by simpa using hj)]
  · have := orFlags_lanes (List.range e) (fun n => (getK s w.km).getLsbD n) (fun n => (f n).2)
    rw [← this]
    simp only [tabulate, List.map_map]
    congr 1
    apply List.map_congr_left
    intro n _
    simp only [Function.comp]
    split <;> rfl

theorem fmtBits_pos (t : BitVec 4) : 0 < fmtBits (vfmt t) := by
  revert t; decide

theorem vecE_le (s : State) (b : Nat) : b * vecE s b ≤ 16384 := by
  unfold vecE
  exact Nat.le_trans (Nat.mul_le_mul_left b (Nat.min_le_right _ _)) (Nat.mul_div_le _ _)

@[simp] theorem vl_counted (s : State) : (counted s).vec = s.vec := by simp [counted]

@[simp] theorem getV_counted (s : State) (x : BitVec 5) : getV (counted s) x = getV s x := by simp [counted]

@[simp] theorem getK_counted (s : State) (x : BitVec 3) : getK (counted s) x = getK s x := by simp [counted]

@[simp] theorem getS_counted (s : State) (x : BitVec 5) : getS (counted s) x = getS s x := by simp [counted]

end Sys2Proof.Machine
end

