-- ==== Sys2Proof/Laws/PerInstr.lean ====
section
/-! SUPPORT. The number of code words of each command: the words of a tile-program instruction (06 R137, 10 R244), none for
any other. -/

namespace Sys2Proof.Laws.Coding

open Sys2Proof

/-- Code words of a command (06 R137, 10 R244). -/
def words : Instr → Nat
  | .mma w => if w.store.isSome then 2 else 1
  | .dstr _ _ _ => 5
  | .aside _ _ => 2
  | c => if c.isProgram then 1 else 0

/-- The encoding of a command has the words that the spec gives it. -/
def Statement (c : Instr) : Prop := (encode c).length = words c

theorem mma (w : MmaWord) : Statement (.mma w) := by
  show (encMma w).length = if w.store.isSome then 2 else 1
  unfold encMma
  cases h : w.store <;> simp
theorem storeClause : Statement .storeClause := rfl
theorem mmv (w : MmvWord) : Statement (.mmv w) := rfl
theorem swap : Statement .swap := rfl
theorem vadd (w : VecWord) : Statement (.vadd w) := rfl
theorem vsub (w : VecWord) : Statement (.vsub w) := rfl
theorem vmul (w : VecWord) : Statement (.vmul w) := rfl
theorem vdiv (w : VecWord) : Statement (.vdiv w) := rfl
theorem vmin (w : VecWord) : Statement (.vmin w) := rfl
theorem vmax (w : VecWord) : Statement (.vmax w) := rfl
theorem vfma (w : VecWord) : Statement (.vfma w) := rfl
theorem vfms (w : VecWord) : Statement (.vfms w) := rfl
theorem vfnma (w : VecWord) : Statement (.vfnma w) := rfl
theorem vfnms (w : VecWord) : Statement (.vfnms w) := rfl
theorem vsqrt (w : VecWord) : Statement (.vsqrt w) := rfl
theorem vabs (w : VecWord) : Statement (.vabs w) := rfl
theorem vneg (w : VecWord) : Statement (.vneg w) := rfl
theorem vcpys (w : VecWord) : Statement (.vcpys w) := rfl
theorem vand (w : VecWord) : Statement (.vand w) := rfl
theorem vor (w : VecWord) : Statement (.vor w) := rfl
theorem vxor (w : VecWord) : Statement (.vxor w) := rfl
theorem vsll (w : VecWord) : Statement (.vsll w) := rfl
theorem vsrl (w : VecWord) : Statement (.vsrl w) := rfl
theorem vsra (w : VecWord) : Statement (.vsra w) := rfl
theorem vexp2 (w : VecWord) : Statement (.vexp2 w) := rfl
theorem vlog2 (w : VecWord) : Statement (.vlog2 w) := rfl
theorem vrcp (w : VecWord) : Statement (.vrcp w) := rfl
theorem vrsqrt (w : VecWord) : Statement (.vrsqrt w) := rfl
theorem vtanh (w : VecWord) : Statement (.vtanh w) := rfl
theorem vsigm (w : VecWord) : Statement (.vsigm w) := rfl
theorem vcmp (pred : BitVec 4) (w : VecWord) : Statement (.vcmp pred w) := rfl
theorem vsel (w : VecWord) : Statement (.vsel w) := rfl
theorem vperm (w : VecWord) : Statement (.vperm w) := rfl
theorem vbcast (w : VecWord) : Statement (.vbcast w) := rfl
theorem vext (w : VecWord) : Statement (.vext w) := rfl
theorem vredsum (w : VecWord) : Statement (.vredsum w) := rfl
theorem vredprod (w : VecWord) : Statement (.vredprod w) := rfl
theorem vredmax (w : VecWord) : Statement (.vredmax w) := rfl
theorem vredmin (w : VecWord) : Statement (.vredmin w) := rfl
theorem vredargmax (w : VecWord) : Statement (.vredargmax w) := rfl
theorem vredargmin (w : VecWord) : Statement (.vredargmin w) := rfl
theorem vcvt (w : VecWord) : Statement (.vcvt w) := rfl
theorem kand (w : VecWord) : Statement (.kand w) := rfl
theorem kor (w : VecWord) : Statement (.kor w) := rfl
theorem kxor (w : VecWord) : Statement (.kxor w) := rfl
theorem kandn (w : VecWord) : Statement (.kandn w) := rfl
theorem knot (w : VecWord) : Statement (.knot w) := rfl
theorem kpop (w : VecWord) : Statement (.kpop w) := rfl
theorem vld (w : VecWord) (m : VecMem) : Statement (.vld w m) := rfl
theorem vst (w : VecWord) (m : VecMem) : Statement (.vst w m) := rfl
theorem vldt (w : VecWord) (x : VecTile) : Statement (.vldt w x) := rfl
theorem vstt (w : VecWord) (x : VecTile) : Statement (.vstt w x) := rfl
theorem vrdf (w : VecWord) (r : RowOp) : Statement (.vrdf w r) := rfl
theorem vwrf (w : VecWord) (r : RowOp) : Statement (.vwrf w r) := rfl
theorem setvl (w : VecWord) (x : SetVlExt) : Statement (.setvl w x) := rfl
theorem vout (w : VecWord) (x : VoutExt) : Statement (.vout w x) := rfl
theorem vsrd (w : VecWord) (r : RowOp) (x : VsrdExt) : Statement (.vsrd w r x) := rfl
theorem vswr (w : VecWord) (r : RowOp) : Statement (.vswr w r) := rfl
theorem vsmrg (w : VecWord) (r : RowOp) (x : VsmrgExt) : Statement (.vsmrg w r x) := rfl
theorem vsclf (w : VecWord) (r : RowOp) (x : VsclfExt) : Statement (.vsclf w r x) := rfl
theorem salu (w : SaluWord) : Statement (.salu w) := rfl
theorem sread (sel : BitVec 8) (sd : BitVec 5) : Statement (.sread sel sd) := rfl
theorem br (w : BrWord) : Statement (.br w) := rfl
theorem sceneEnd : Statement .sceneEnd := rfl
theorem tcfg (tt : BitVec 4) (shape : BitVec 3) (fmt : BitVec 3) : Statement (.tcfg tt shape fmt) := rfl
theorem trel (tt : BitVec 4) : Statement (.trel tt) := rfl
theorem tld (m : TileMem) : Statement (.tld m) := rfl
theorem tst (m : TileMem) (dfmt : BitVec 3) (sat : Bool) : Statement (.tst m dfmt sat) := rfl
theorem dstr (slot : BitVec 6) (pts : Patches) (image : BitVec 512) : Statement (.dstr slot pts image) := rfl
theorem aside (pts : Patches) (image : BitVec 128) : Statement (.aside pts image) := rfl
theorem cue (slot : BitVec 6) (pr : Bool) (p : BitVec 25) : Statement (.cue slot pr p) := rfl
theorem cueSatisfied (slot : BitVec 6) : Statement (.cueSatisfied slot) := rfl
theorem waitq (slot : BitVec 6) (hold : BitVec 3) : Statement (.waitq slot hold) := rfl
theorem acq (w : AcqWord) : Statement (.acq w) := rfl
theorem acqPoll (tag : BitVec 6) : Statement (.acqPoll tag) := rfl
theorem rel (w : RelWord) : Statement (.rel w) := rfl
theorem atom (w : AtomWord) : Statement (.atom w) := rfl
theorem claim (w : ClaimWord) : Statement (.claim w) := rfl
theorem rroute (w : RouteWord) : Statement (.rroute w) := rfl
theorem rsend (ta : BitVec 4) : Statement (.rsend ta) := rfl
theorem rred (w : RredWord) : Statement (.rred w) := rfl
theorem upd (w : UpdWord) : Statement (.upd w) := rfl
theorem updComplete : Statement .updComplete := rfl
theorem updCommit : Statement .updCommit := rfl
theorem streamReadRequest (slot : BitVec 6) : Statement (.streamReadRequest slot) := rfl
theorem streamWriteRequest (slot : BitVec 6) : Statement (.streamWriteRequest slot) := rfl
theorem sorterIssue : Statement .sorterIssue := rfl
theorem instructionFill (line : BitVec 32) : Statement (.instructionFill line) := rfl
theorem fabricResponse (tag : BitVec 13) (resp : BitVec 2) (rs : BitVec 2) (data : BitVec 2048) : Statement (.fabricResponse tag resp rs data) := rfl
theorem windowAccess (r : TargetReq) : Statement (.windowAccess r) := rfl
theorem windowAtomic (r : TargetReq) : Statement (.windowAtomic r) := rfl
theorem userMailboxAccess (r : TargetReq) : Statement (.userMailboxAccess r) := rfl
theorem replayPendingEntry : Statement .replayPendingEntry := rfl
theorem lockstepDivergence (loc : BitVec 32) (taken : Bool) : Statement (.lockstepDivergence loc taken) := rfl
theorem controlRestart : Statement .controlRestart := rfl
theorem withdrawal : Statement .withdrawal := rfl
theorem withdrawalTimeout : Statement .withdrawalTimeout := rfl
theorem returnRecord : Statement .returnRecord := rfl
theorem tick (num : BitVec 64) (cap : BitVec 8) : Statement (.tick num cap) := rfl
theorem sceneStart : Statement .sceneStart := rfl
theorem replayStart : Statement .replayStart := rfl
theorem sceneLate (pos : BitVec 8) : Statement (.sceneLate pos) := rfl
theorem leaseExpiry (idx : BitVec 6) : Statement (.leaseExpiry idx) := rfl
theorem sceneRelease (pos : BitVec 8) : Statement (.sceneRelease pos) := rfl
theorem missingTick : Statement .missingTick := rfl
theorem idleEntry : Statement .idleEntry := rfl
theorem throttle (level : Bool) : Statement (.throttle level) := rfl
theorem tempIn (v : BitVec 10) : Statement (.tempIn v) := rfl
theorem currIn (v : BitVec 12) : Statement (.currIn v) := rfl
theorem curtainIn (level : Bool) : Statement (.curtainIn level) := rfl
theorem curtainPulseEnd : Statement .curtainPulseEnd := rfl
theorem stopEventEnd : Statement .stopEventEnd := rfl
theorem poresetNFall : Statement .poresetNFall := rfl
theorem poresetNRise (ties : TieOffs) : Statement (.poresetNRise ties) := rfl
theorem clresetNFall : Statement .clresetNFall := rfl
theorem clresetNRise : Statement .clresetNRise := rfl
theorem powerDown : Statement .powerDown := rfl
theorem cclkChange (khz : BitVec 32) : Statement (.cclkChange khz) := rfl
theorem fuseLoad (bits : BitVec 1024) : Statement (.fuseLoad bits) := rfl
theorem copyExamine (n : BitVec 2) (first : BitVec 4) : Statement (.copyExamine n first) := rfl
theorem configChoose : Statement .configChoose := rfl
theorem release : Statement .release := rfl
theorem train (m : TrainFlit) : Statement (.train m) := rfl
theorem trainingTimeout : Statement .trainingTimeout := rfl
theorem vc0Flit (f : LinkFlit) : Statement (.vc0Flit f) := rfl
theorem vc0FlitUsed (ch : BitVec 2) : Statement (.vc0FlitUsed ch) := rfl
theorem vc1Flit (side : Side) (f : LinkFlit) : Statement (.vc1Flit side f) := rfl
theorem vc2Message (side : Side) (f : LinkFlit) : Statement (.vc2Message side f) := rfl
theorem flitSend (side : Side) (vc : BitVec 2) (ch : BitVec 2) : Statement (.flitSend side vc ch) := rfl
theorem creditReturn (side : Side) (vc : BitVec 2) (ch : BitVec 2) : Statement (.creditReturn side vc ch) := rfl
theorem linkAck (side : Side) (seq : BitVec 5) : Statement (.linkAck side seq) := rfl
theorem linkNak (side : Side) (seq : BitVec 5) : Statement (.linkNak side seq) := rfl
theorem curtain (orig : StageFrom) : Statement (.curtain orig) := rfl
theorem groupEnd (gtag : BitVec 16) (run : BitVec 4) (sender : StageFrom) : Statement (.groupEnd gtag run sender) := rfl
theorem groupReplay (gtag : BitVec 16) (run : BitVec 4) (sender : StageFrom) : Statement (.groupReplay gtag run sender) := rfl
theorem groupAbandon (gtag : BitVec 16) (run : BitVec 4) (status : BitVec 16) (sender : StageFrom) :
    Statement (.groupAbandon gtag run status sender) := rfl
theorem fence (sender : StageFrom) : Statement (.fence sender) := rfl
theorem rejoin (sender : StageFrom) : Statement (.rejoin sender) := rfl
theorem rejoinComplete : Statement .rejoinComplete := rfl
theorem ringDown (cut : RingCut) : Statement (.ringDown cut) := rfl
theorem negotiate (m : Mbx) (slot : BitVec 3) : Statement (.negotiate m slot) := rfl
theorem query (m : Mbx) (slot : BitVec 3) : Statement (.query m slot) := rfl
theorem load (m : Mbx) (slot : BitVec 3) (first : BitVec 4) : Statement (.load m slot first) := rfl
theorem unload (m : Mbx) (slot : BitVec 3) : Statement (.unload m slot) := rfl
theorem enqueue (m : Mbx) (slot : BitVec 3) : Statement (.enqueue m slot) := rfl
theorem abort (m : Mbx) (slot : BitVec 3) : Statement (.abort m slot) := rfl
theorem clearfault (m : Mbx) (slot : BitVec 3) : Statement (.clearfault m slot) := rfl
theorem xltResume (m : Mbx) (slot : BitVec 3) : Statement (.xltResume m slot) := rfl
theorem xltAbort (m : Mbx) (slot : BitVec 3) : Statement (.xltAbort m slot) := rfl
theorem tenant (m : Mbx) (slot : BitVec 3) : Statement (.tenant m slot) := rfl
theorem wipeComplete : Statement .wipeComplete := rfl
theorem curtainCommand (m : Mbx) (slot : BitVec 3) : Statement (.curtainCommand m slot) := rfl
theorem withdraw (m : Mbx) (slot : BitVec 3) : Statement (.withdraw m slot) := rfl
theorem fenceCommand (m : Mbx) (slot : BitVec 3) : Statement (.fenceCommand m slot) := rfl
theorem rejoinCommand (m : Mbx) (slot : BitVec 3) : Statement (.rejoinCommand m slot) := rfl
theorem mbxDoorbell (v : Word) : Statement (.mbxDoorbell v) := rfl
theorem mbxAck (v : Word) : Statement (.mbxAck v) := rfl
theorem mbxSlotWrite (off : BitVec 10) (v : Word) : Statement (.mbxSlotWrite off v) := rfl
theorem mbxNtcTail (v : Word) : Statement (.mbxNtcTail v) := rfl
theorem xltInval (v : Word) : Statement (.xltInval v) := rfl
theorem xltInvalComplete : Statement .xltInvalComplete := rfl
theorem perfClear (v : Word) : Statement (.perfClear v) := rfl
theorem dbgMemcmd (v : Word) : Statement (.dbgMemcmd v) := rfl
theorem csrWrite (off : BitVec 24) (v : Word) : Statement (.csrWrite off v) := rfl
theorem trstN : Statement .trstN := rfl
theorem bypass (code : BitVec 8) : Statement (.bypass code) := rfl
theorem samplePreload (cells : BitVec 102) : Statement (.samplePreload cells) := rfl
theorem extest (cells : BitVec 102) : Statement (.extest cells) := rfl
theorem access : Statement .access := rfl
theorem debugCsrAccess (wr : Bool) (off : BitVec 24) (v : Word) : Statement (.debugCsrAccess wr off v) := rfl
theorem csrRead (off : BitVec 24) : Statement (.csrRead off) := rfl
theorem controlSramUncorrectable (word : BitVec 16) (taken : Bool) : Statement (.controlSramUncorrectable word taken) := rfl
theorem testLogicReset : Statement .testLogicReset := rfl

end Sys2Proof.Laws.Coding
end

