-- ==== Sys2Proof/Laws/Tiles.lean ====
section
/-! SUPPORT. Tile registers bit by bit: what a read sees, and what a write of bytes leaves. -/

namespace Sys2Proof.Machine

open Sys2Proof

/-- The fold of `lineOnes` over the first `n` lines. -/
theorem lineOnes_fold (valid : BitVec 64) (n : Nat) :
    let x := (List.range n).foldl
      (fun acc l => if valid.getLsbD l then acc + (2 ^ 8192 - 1) * 2 ^ (8192 * l) else acc) 0
    x < 2 ^ (8192 * n) ∧ ∀ k, x.testBit k = (decide (k < 8192 * n) && valid.getLsbD (k / 8192)) := by
  induction n with
  | zero => simp
  | succ n ih =>
    simp only [List.range_succ, List.foldl_append, List.foldl_cons, List.foldl_nil]
    obtain ⟨hx, hb⟩ := ih
    generalize (List.range n).foldl
      (fun acc l => if valid.getLsbD l then acc + (2 ^ 8192 - 1) * 2 ^ (8192 * l) else acc) 0 = x at hx hb ⊢
    have hp : 2 ^ (8192 * (n + 1)) = 2 ^ 8192 * 2 ^ (8192 * n) := by rw [← Nat.pow_add]; congr 1; omega
    have hpos : 0 < 2 ^ (8192 * n) := Nat.two_pow_pos _
    by_cases hv : valid.getLsbD n = true
    · rw [if_pos hv]
      refine ⟨?_, fun k => ?_⟩
      · rw [hp, Nat.sub_mul]
        have h1 : 1 * 2 ^ (8192 * n) ≤ 2 ^ 8192 * 2 ^ (8192 * n) := Nat.mul_le_mul_right _ (Nat.one_le_two_pow)
        omega
      · rw [Nat.add_comm, Nat.mul_comm, Nat.testBit_two_pow_mul_add _ hx]
        split
        · rename_i hk
          rw [hb]
          have : k < 8192 * (n + 1) := by omega
          simp [hk, this]
        · rename_i hk
          rw [Nat.testBit_two_pow_sub_one]
          by_cases h2 : k < 8192 * (n + 1)
          · have h3 : k - 8192 * n < 8192 := by omega
            have h4 : k / 8192 = n := by omega
            simp [h2, h3, h4, hv]
          · have h3 : ¬ k - 8192 * n < 8192 := by omega
            simp [h2, h3]
    · rw [if_neg hv]
      refine ⟨?_, fun k => ?_⟩
      · exact Nat.lt_of_lt_of_le hx (Nat.pow_le_pow_right (by omega) (by omega))
      · rw [hb]
        by_cases h2 : k < 8192 * n
        · have : k < 8192 * (n + 1) := by omega
          simp [h2, this]
        · by_cases h3 : k < 8192 * (n + 1)
          · have h4 : k / 8192 = n := by omega
            simp only [Bool.not_eq_true] at hv
            simp [h2, h4, hv]
          · simp [h2, h3]

/-- What a read of the register sees, bit by bit. -/
theorem getLsbD_tileView (t : Tile) (k : Nat) : (tileView t).getLsbD k = tileBit t k := by
  unfold tileView lineOnes tileBit
  rw [BitVec.getLsbD_and, BitVec.getLsbD_ofNat, (lineOnes_fold t.valid 64).2 k]
  by_cases hk : k < 524288
  · simp [hk, Bool.and_comm]
  · rw [BitVec.getLsbD_of_ge t.data k (by omega)]
    simp

theorem testBit_tileRead (t : Tile) (off n k : Nat) :
    (tileRead t off n).testBit k = (decide (k < 8 * n) && tileBit t (8 * off + k)) := by
  unfold tileRead
  rw [testBit_bvGet, getLsbD_tileView]

/-- The lines that a write makes valid. -/
theorem valid_tileWrite (t : Tile) (off n v l : Nat) (hl : l < 64) :
    (tileWrite t off n v).valid.getLsbD l
      = (decide (off < 1024 * (l + 1) ∧ 1024 * l < off + n) || t.valid.getLsbD l) := by
  have : ∀ (m : Nat), m ≤ 64 → ∀ j, j < 64 →
      ((List.range m).foldl
        (fun m l => if off < 1024 * (l + 1) ∧ 1024 * l < off + n then bvSet m l true else m) t.valid).getLsbD j
      = ((decide (j < m) && decide (off < 1024 * (j + 1) ∧ 1024 * j < off + n)) || t.valid.getLsbD j) := by
    intro m
    induction m with
    | zero => intros; simp
    | succ m ih =>
      intro hm j hj
      simp only [List.range_succ, List.foldl_append, List.foldl_cons, List.foldl_nil]
      by_cases hc : off < 1024 * (m + 1) ∧ 1024 * m < off + n
      · rw [if_pos hc, getLsbD_bvSet _ _ _ _ (by omega), ih (by omega) j hj]
        by_cases e : j = m
        · subst e; simp [hc]
        · have : j < m + 1 ↔ j < m := by omega
          rw [if_neg e]
          simp only [this]
      · rw [if_neg hc, ih (by omega) j hj]
        by_cases e : j = m
        · subst e; simp [hc]
        · have : j < m + 1 ↔ j < m := by omega
          simp only [this]
  have h := this 64 (Nat.le_refl _) l hl
  simp only [hl, decide_true, Bool.true_and] at h
  exact h

/-- A register bit by bit after a write of `n` bytes at byte `off`. -/
theorem tileBit_tileWrite (t : Tile) (off n v k : Nat) (h : off + n ≤ 65536) (hk : k < 524288) :
    tileBit (tileWrite t off n v) k
      = if 8 * off ≤ k ∧ k < 8 * (off + n) then v.testBit (k - 8 * off) else tileBit t k := by
  unfold tileBit
  rw [valid_tileWrite _ _ _ _ _ (by omega)]
  have hd : (tileWrite t off n v).data.getLsbD k
      = if 8 * off ≤ k ∧ k < 8 * (off + n) then v.testBit (k - 8 * off) else tileBit t k := by
    show (bvPut (tileView t) (8 * off) (8 * n) v).getLsbD k = _
    rw [getLsbD_bvPut _ _ _ _ _ (by omega), getLsbD_tileView, Nat.testBit_mod_two_pow]
    by_cases hc : 8 * off ≤ k ∧ k < 8 * (off + n)
    · rw [if_pos hc, if_pos (by omega)]
      have : k - 8 * off < 8 * n := by omega
      simp [this]
    · rw [if_neg hc, if_neg (by omega)]
  rw [hd]
  by_cases hc : 8 * off ≤ k ∧ k < 8 * (off + n)
  · rw [if_pos hc, if_pos hc]
    have : off < 1024 * (k / 8192 + 1) ∧ 1024 * (k / 8192) < off + n := by omega
    simp [this]
  · rw [if_neg hc, if_neg hc]
    unfold tileBit
    by_cases hv : t.valid.getLsbD (k / 8192) = true
    · simp [hv]
    · simp only [Bool.not_eq_true] at hv
      simp [hv]

@[simp] theorem tileWrite_full (t : Tile) (off n v : Nat) : (tileWrite t off n v).full = true := rfl
@[simp] theorem tileWrite_shape (t : Tile) (off n v : Nat) : (tileWrite t off n v).shape = t.shape := rfl
@[simp] theorem tileWrite_fmt (t : Tile) (off n v : Nat) : (tileWrite t off n v).fmt = t.fmt := rfl

end Sys2Proof.Machine
end

