-- ==== Sys2Proof/Laws/Use.lean ====
section
/-! SUPPORT. What counting a use of stream data can do: it clears marks and counts, and changes nothing else (19, R455); the
checks of a vector access that meet no fault (07, R181). -/

namespace Sys2Proof.Machine

open Sys2Proof

/-! ## Uses of stream data -/

/-- Everything but the marks of unread stream data and the counters is the same. -/
structure UseFrame (s t : State) : Prop where
  pending : t.pending = s.pending
  tiles   : t.tiles = s.tiles
  mat     : t.mat = s.mat
  firn    : t.firn = s.firn
  vec     : t.vec = s.vec
  seq     : t.seq = s.seq
  strm    : t.strm = s.strm
  rev     : t.rev = s.rev
  upd     : t.upd = s.upd
  chk     : t.chk = s.chk
  ctl     : t.ctl = s.ctl
  feat    : t.feat = s.feat
  boot    : t.boot = s.boot
  pwr     : t.pwr = s.pwr
  dbg     : t.dbg = s.dbg
  cells   : t.pad.cells = s.pad.cells
  valid   : t.pad.valid = s.pad.valid

theorem useFrame_refl (s : State) : UseFrame s s := by constructor <;> rfl

theorem useFrame_trans {s t u : State} (a : UseFrame s t) (b : UseFrame t u) : UseFrame s u := by
  cases a; cases b; constructor <;> simp [*]

theorem useFrame_foldl {α : Type} (l : List α) (f : State → α → State) (hf : ∀ s a, UseFrame s (f s a)) (s : State) :
    UseFrame s (l.foldl f s) := by
  induction l generalizing s with
  | nil => exact useFrame_refl s
  | cons a l ih => exact useFrame_trans (hf s a) (ih _)

theorem useFrame_perfAdd (s : State) (ev n : Nat) : UseFrame s (perfAdd s ev n) := by
  unfold perfAdd
  split <;> constructor <;> rfl

theorem useFrame_padUse (s : State) (a n : Nat) : UseFrame s (padUse s a n) := by
  unfold padUse
  simp only
  split
  · exact useFrame_refl s
  · refine useFrame_trans (useFrame_trans ?_ (useFrame_perfAdd _ _ _)) (useFrame_perfAdd _ _ _)
    constructor <;> rfl

theorem useFrame_bufUse (s : State) (uid h o n : Nat) : UseFrame s (bufUse s uid h o n) := by
  unfold bufUse
  split
  · exact useFrame_foldl _ _ (fun s a => useFrame_padUse _ _ _) s
  · exact useFrame_refl s

theorem useFrame_padDiscard (s : State) (gone : Unread → Bool) : UseFrame s (padDiscard s gone) := by
  unfold padDiscard
  refine useFrame_trans ?_ (useFrame_perfAdd _ _ _)
  constructor <;> rfl

/-- Where no storage error lies, a read by an engine only uses. -/
theorem useFrame_bufTake {s : State} (h : s.chk.marks = []) (uid b o n : Nat) : UseFrame s (bufTake s uid b o n) := by
  unfold bufTake
  split
  · have hu := useFrame_bufUse s uid b o n
    have e : (bufUse s uid b o n).chk.marks = [] := by rw [hu.chk]; exact h
    unfold readMarks
    rw [e]
    exact hu
  · exact useFrame_refl s

theorem useFrame_bufTakes {s : State} (h : s.chk.marks = []) (uid b : Nat) (l : List (Nat × Nat)) :
    UseFrame s (bufTakes s uid b l) := by
  unfold bufTakes
  split
  · have hu := useFrame_foldl l (fun s (x : Nat × Nat) => bufUse s uid b x.1 x.2) (fun s (x : Nat × Nat) => useFrame_bufUse s uid b x.1 x.2) s
    unfold readMarks
    rw [hu.chk, h]
    exact hu
  · exact useFrame_refl s

/-- A byte reads the same after a use. -/
theorem padGet_of_use {s t : State} (h : UseFrame s t) (a : Nat) : padGet t.pad a = padGet s.pad a := by
  simp only [padGet, h.cells, h.valid]

/-! ## Counting -/

@[simp] theorem rngsBusy_perfAdd (s : State) (ev n bound : Nat) (rs : List Rng) :
    rngsBusy (perfAdd s ev n) bound rs = rngsBusy s bound rs := by
  unfold perfAdd; split <;> rfl

@[simp] theorem memRng_perfAdd (s : State) (ev n uid : Nat) (h : BitVec 6) (e : Nat) (f4 : Bool) (off str : Int) (b : Nat)
    (wr : Bool) : memRng (perfAdd s ev n) uid h e f4 off str b wr = memRng s uid h e f4 off str b wr := by
  unfold perfAdd; split <;> rfl

@[simp] theorem bufRead_perfAdd (s : State) (ev k uid h o n : Nat) :
    bufRead (perfAdd s ev k) uid h o n = bufRead s uid h o n := by
  unfold perfAdd; split <;> rfl

@[simp] theorem bufBytes_perfAdd (s : State) (ev k uid h : Nat) : bufBytes (perfAdd s ev k) uid h = bufBytes s uid h := by
  unfold perfAdd; split <;> rfl

/-! ## The checks of a vector access (R181) -/

/-- No fault where every active element is aligned and inside the buffer. -/
theorem memCheck_none (k : Mask) (e : Nat) (f4 : Bool) (off str : Int) (b size : Nat)
    (h : ∀ n < e, k.getLsbD n = true →
      memAddr f4 off str n % (b : Int) = 0 ∧ 0 ≤ memAddr f4 off str n ∧ memAddr f4 off str n + b ≤ size) :
    memCheck k e f4 off str b size = none := by
  unfold memCheck
  rw [List.findSome?_eq_none_iff]
  intro n hn
  by_cases hk : k.getLsbD n = true
  · have := h n (by simpa using hn) hk
    simp only [hk, Bool.not_true, Bool.false_eq_true, if_false]
    rw [if_neg (by simp [this.1]), if_neg (by omega)]
  · simp [hk]

end Sys2Proof.Machine
end

