-- ==== Sys2Proof/Tests/Slice0.lean ====
section
/-! SUPPORT. Small tests: ill-formed words that the checks refuse, words decoded, a concrete state that meets the hypotheses
of each statement, and single steps whose results come from the spec's examples or from hand calculation. -/

/-! One theorem after another, so that the memory of the checks stays small. -/

set_option Elab.async false

namespace Sys2Proof.Tests

open Sys2Proof Sys2Proof.Machine

/-! ## Helpers -/

/-- A scene with every class granted, 48 slots, 64 KiB of code, and one set of each kind. -/
def scene : Scene := ⟨0, 0, 48, List.replicate 7 256, 65536, 0, [(1, 65536)], [], [],
  [⟨0, 0x10000, 0x40000⟩, ⟨1, 0x80000, 0x40000⟩, ⟨2, 0x100000, 0x40000⟩], []⟩

/-- Its instance: uid 7, RUNNING. -/
def inst : Inst := ⟨7, 0, List.replicate 8 5, 0xAB, .mgmt, .running, 0, false, false, false, 0, [0, 1], [], 0, false, [], false,
  0, 0, 0, [], none, 0, 0, 0, 0⟩

def run : Run := ⟨7, 32, true, ⟨0, 0, 0, 0⟩, 0, none⟩

/-- A released cluster 3 of a ring of 16 that runs the scene; buffer 1 is frame 2. -/
def live : State :=
  let s := State.reset
  { s with
    seq := { s.seq with run := some run, insts := [inst], modl := some ⟨0, 65536, 0, 0, [], [scene]⟩, nextUid := 9 }
    strm := { s.strm with bufs := [⟨some 7, 1, 65536, [2]⟩] }
    feat := ⟨0xFFFFFFFFFFFFFFFF, 0xFFFFFFFFFFFFFFFF, true, false⟩
    rev := { s.rev with ready := true, done := true, status := 0, gen := 2, n := 16 }
    chk := { s.chk with cfgState := 0 }
    boot := { s.boot with poreset := true, released := true, ties := ⟨5, 3, 0x600, true, 0, 0⟩ }
    pwr := { s.pwr with capin := 100, firstTick := false } }

/-- The state that an answer holds, or the state before it. -/
def next (c : Instr) (s : State) : State :=
  match exec c s with
  | .next t => t
  | _ => s

/-- The conditions of `Issuable`, as a test. -/
def canRun (s : State) (r : Run) (i : Inst) (q : Queue) (words : Nat) (c : Instr) (regs : List (BitVec 5)) : Bool :=
  decide (s.seq.run = some r) && decide (findInst s r.uid = some i) && decide (s.seq.issuing = none) && r.fetching
    && !(s.seq.queue.any fun a => waitHolds a.c .s) && decide (r.pc + 16 * words ≤ codeLen s i)
    && decide (fetchOf s i r.pc c = .this) && decide (executeCheck (runCtx s i) c = none)
    && issueReady s (fetchedAt s r q words c regs)

theorem issuable_of {s : State} {r : Run} {i : Inst} {q : Queue} {words : Nat} {c : Instr} {regs : List (BitVec 5)}
    (h : canRun s r i q words c regs = true) : Issuable s r i q words c regs := by
  simp only [canRun, Bool.and_eq_true, decide_eq_true_eq, Bool.not_eq_true'] at h
  obtain ⟨⟨⟨⟨⟨⟨⟨⟨h1, h2⟩, h3⟩, h4⟩, h5⟩, h6⟩, h7⟩, h8⟩, h9⟩ := h
  exact ⟨h1, h2, h3, h4, h5, h6, h7, h8, h9⟩

abbrev canIssue (s : State) := canRun s run inst

/-- A vector word with format, destination and sources. -/
def vw (t : BitVec 4) (vd va vb vc : BitVec 5) : VecWord := ⟨t, 0, vd, va, vb, vc, 0, false, 0, false⟩

/-- A store clause of the run, of program order 3, that writes rows 0 to 127 of slices 0 and 1 to buffer 1. -/
def pend : PendingStore := ⟨7, 3, ⟨1, false, false, 0, 512, 0, true, true, 1, 2, false⟩, 0, 128, 1, 0, 512, 0, 0, 0, 0, 0, 0, true⟩

def noPatch : Patch := ⟨false, 0, 0⟩
/-- A finite code's value from its fields. -/
theorem ratOf_fin {f : Fmt} {c : Nat} {n : Bool} {m : Nat} {e : Int} (h : fpDecode f c = .fin n m e) :
    ratOf f c = (if n then -1 else 1) * m * 2 ^ e := by simp [ratOf, h]

theorem ratOf_one : ratOf .fp32 0x3F800000 = 1 := by
  rw [ratOf_fin (by decide +kernel : fpDecode .fp32 0x3F800000 = .fin false 8388608 (-23))]; norm_num

theorem ratOf_two : ratOf .fp32 0x40000000 = 2 := by
  rw [ratOf_fin (by decide +kernel : fpDecode .fp32 0x40000000 = .fin false 8388608 (-22))]; norm_num

theorem ratOf_three : ratOf .fp32 0x40400000 = 3 := by
  rw [ratOf_fin (by decide +kernel : fpDecode .fp32 0x40400000 = .fin false 12582912 (-22))]; norm_num

theorem ratOf_minus_one : ratOf .fp32 0xBF800000 = -1 := by
  rw [ratOf_fin (by decide +kernel : fpDecode .fp32 0xBF800000 = .fin true 8388608 (-23))]; norm_num

theorem ratOf_zero : ratOf .fp32 0 = 0 := by
  rw [ratOf_fin (by decide +kernel : fpDecode .fp32 0 = .fin false 0 (-149))]; norm_num

theorem ratOf_minus_zero : ratOf .fp32 0x80000000 = 0 := by
  rw [ratOf_fin (by decide +kernel : fpDecode .fp32 0x80000000 = .fin true 0 (-149))]; norm_num

def noPatches : Patches := ⟨noPatch, noPatch, noPatch, noPatch⟩

/-! ## Ill-formed words, one for each check (09 Table 9-10 row 3) -/

def mma0 : MmaWord := ⟨true, false, 0, 0, 7, 7, 0, 0, 1, false, false, 0, 128, none⟩
def store0 : StoreWord := ⟨1, false, false, 0x8000, 512, 0, true, false, 0, 0, false⟩
def mmv0 : MmvWord := ⟨true, true, 0, 3, 7, 0, 0, 0, 1, false, false, 0, 128, 0, 0⟩
def mem0 : VecMem := ⟨1, false, false, 0, 4⟩
def tile0 : TileMem := ⟨0, 1, false, false, 0, 256⟩
def red0 : RredWord := ⟨0, false, false, 1, 1, 0, 0, 0x8000, false, 2048⟩

theorem test_wf_mma : ∀ c ∈ [
    Instr.mma { mma0 with wor := true, woff := 32 }, .mma { mma0 with wsr := true, wstr := 32 },
    .mma { mma0 with src := true, ta := 1 }, .mma { mma0 with store := some { store0 with sor := true } },
    .mma { mma0 with store := some { store0 with ssr := true } }, .mma { mma0 with store := some { store0 with sa := 1 } },
    .mma { mma0 with store := some { store0 with sb := 1 } }, .mma { mma0 with store := some { store0 with dest := true } },
    .mma { mma0 with store := some { store0 with sat := false } },
    .mmv { mmv0 with wor := true, woff := 32 }, .mmv { mmv0 with wsr := true, wstr := 32 }, .mmv { mmv0 with dst := 32 }],
    c.wf = false := by decide

theorem test_wf_vector : ∀ c ∈ [
    Instr.vabs { vw 0 1 2 0 0 with vb := 1 }, .vadd { vw 0 1 2 3 0 with vc := 1 }, .vadd { vw 1 1 2 3 0 with rm := 1 },
    .vadd { vw 0 1 2 3 0 with t2 := 1 }, .vadd { vw 0 1 2 3 0 with sat := true }, .vadd (vw 2 1 2 3 0), .vdiv (vw 1 1 2 3 0),
    .vand (vw 0 1 2 3 0), .vexp2 (vw 8 1 2 0 0), .vmin { vw 0 1 2 3 0 with rm := 1 }, .vcmp 8 (vw 0 1 2 3 0),
    .vcmp 0 (vw 0 0 2 3 0), .vcmp 0 (vw 0 8 2 3 0), .vcmp 0 { vw 0 1 2 3 0 with mz := true }, .vext { vw 0 1 2 0 0 with km := 1 },
    .vredsum { vw 0 1 2 0 0 with mz := true }, .vsel (vw 9 1 2 3 0), .vcvt { vw 0 1 2 0 0 with t2 := 9, sat := true },
    .vcvt { vw 0 1 2 0 0 with t2 := 2 }, .kand (vw 0 0 1 2 0), .kand (vw 0 1 8 2 0), .kor (vw 0 1 2 8 0), .kpop (vw 0 1 1 0 0)],
    c.wf = false := by decide

theorem test_wf_vector_operands : ∀ c ∈ [
    Instr.vld (vw 0 1 0 0 0) { mem0 with or_ := true, off := 32 }, .vld (vw 0 1 0 0 0) { mem0 with str := 0x1FFFFE1 },
    .vld (vw 0 1 0 0 0) { mem0 with str := 0x200001F }, .vst (vw 6 0 1 0 0) mem0, .vst (vw 0 1 1 0 0) mem0,
    .vldt (vw 1 1 0 0 0) ⟨0, 0⟩, .vrdf (vw 0 1 0 0 0) ⟨32, true⟩, .vwrf (vw 2 0 1 0 0) ⟨0, false⟩,
    .setvl (vw 0 0 0 0 0) ⟨0, false, 0, 1⟩, .setvl (vw 0 0 0 0 0) ⟨513, false, 0, 1⟩, .setvl (vw 0 0 0 0 0) ⟨1, true, 2, 1⟩,
    .setvl (vw 0 0 0 0 0) ⟨1, false, 2, 1⟩, .vout { vw 0 0 1 0 0 with t2 := 8, sat := true } ⟨0, 1, 0, false, 0⟩,
    .vout { vw 0 0 1 0 0 with sat := true } ⟨2, 0, 0, false, 0⟩, .vout { vw 0 0 1 0 0 with sat := true } ⟨1, 1, 0, false, 0⟩,
    .vout { vw 0 0 1 0 0 with sat := true } ⟨0, 1, 1, false, 0⟩, .vout { vw 0 0 1 0 0 with sat := true } ⟨1, 0, 0, false, 256⟩,
    .vsrd (vw 0 1 0 0 0) ⟨0, false⟩ ⟨true, 0⟩, .vsrd (vw 0 1 0 0 0) ⟨0, false⟩ ⟨false, 1⟩, .vswr (vw 0 0 1 0 0) ⟨32, true⟩,
    .vsmrg (vw 0 1 2 0 0) ⟨0, false⟩ ⟨6, 0, false⟩, .vsmrg (vw 0 1 2 0 0) ⟨0, false⟩ ⟨2, 1, false⟩,
    .vsclf (vw 0 0 0 0 0) ⟨0, false⟩ ⟨0, 0, 0⟩, .vsclf (vw 0 0 0 0 0) ⟨2047, false⟩ ⟨1, 0, 1⟩],
    c.wf = false := by decide

theorem test_wf_others : ∀ c ∈ [
    Instr.salu ⟨14, 0, 0, 0, false, 0⟩, .salu ⟨13, 0, 1, 0, false, 0⟩, .salu ⟨0, 0, 0, 1, true, 0⟩, .salu ⟨0, 0, 0, 0, false, 1⟩,
    .sread 5 0, .sread 0x40 0, .br ⟨7, 0, 0, false, 0, 0⟩, .br ⟨0, 1, 0, false, 0, 0⟩, .br ⟨0, 0, 0, false, 1, 0⟩,
    .br ⟨0, 0, 0, false, 0, 8⟩, .br ⟨0, 0, 0, true, 0, 16⟩, .tld { tile0 with or_ := true, off := 32 },
    .tld { tile0 with str := 0x1FFFFE1 }, .tst tile0 0 false, .dstr 48 noPatches 0,
    .dstr 0 { noPatches with pt0 := ⟨false, 1, 0⟩ } 0, .dstr 0 { noPatches with pt1 := ⟨false, 0, 1⟩ } 0,
    .aside { noPatches with pt2 := ⟨true, 2, 0⟩ } 0, .cue 0 true 32, .cue 0 false 65, .rel ⟨0, 0, false, 1⟩,
    .atom ⟨0, 0, 0, 0, 11, false, false⟩, .atom ⟨0, 0, 1, 0, 8, false, false⟩, .claim ⟨0, 0, 0, 0, 0⟩, .rred { red0 with op := 2 },
    .rred { red0 with df := true }, .rred { red0 with lr := true, len := 32 }, .rred { red0 with len := 0 },
    .rred { red0 with len := 8388736 }, .rred { red0 with len := 127 }, .upd ⟨1, true, 32, 0⟩],
    c.wf = false := by decide

/-- The words from which they differ are well formed. -/
theorem test_wf_good : ∀ c ∈ [
    Instr.mma mma0, .mma { mma0 with store := some store0 }, .mmv mmv0, .vadd (vw 0 1 2 3 0), .vld (vw 0 1 0 0 0) mem0,
    .setvl (vw 0 0 0 0 0) ⟨512, false, 0, 1⟩, .tld tile0, .dstr 47 noPatches 0, .rred { red0 with len := 8388608 }],
    c.wf = true := by decide

/-! ## Words written out from the encodings of 06 to 13 -/

theorem test_decode_mma : decodeWf [0x800080000400005201A44D40, 0xA4D000080000000006]
    = some (.mma ⟨true, false, 3, 1, 2, 2, 3, 0x100, 5, false, false, 0x4000, 0x400,
      some ⟨6, false, false, 0, 0x400, 2, true, true, 4, 5, false⟩⟩, []) := by decide +kernel

theorem test_decode_mmv : decodeWf [0x257FFFC000001000900D14D741]
    = some (.mmv ⟨true, true, 5, 3, 2, 1, 2, 6, 9, false, false, 256, -512, 10, 1⟩, []) := by decide +kernel

theorem test_decode_vadd : decodeWf [0xA0148301050]
    = some (.vadd ⟨1, 0, 3, 4, 5, 0, 2, true, 0, false⟩, []) := by decide +kernel

theorem test_decode_vcvt : decodeWf [0x70003DF20059]
    = some (.vcvt ⟨0, 2, 31, 30, 0, 0, 0, false, 3, true⟩, []) := by decide +kernel

theorem test_decode_vld : decodeWf [0x7FFFFC00001000900000070005B]
    = some (.vld ⟨0, 0, 7, 0, 0, 0, 0, false, 0, false⟩ ⟨9, false, false, 256, -32⟩, []) := by decide +kernel

theorem test_decode_setvl : decodeWf [0x8020000000000005E]
    = some (.setvl ⟨0, 0, 0, 0, 0, 0, 0, false, 0, false⟩ ⟨512, false, 0, 8⟩, []) := by decide +kernel

theorem test_decode_vout : decodeWf [0xEB0140001804005F]
    = some (.vout ⟨0, 4, 0, 12, 0, 0, 0, false, 0, true⟩ ⟨1, 0, 11, false, 7⟩, []) := by decide +kernel

theorem test_decode_vsmrg : decodeWf [0x317FF00001490035F]
    = some (.vsmrg ⟨0, 0, 9, 10, 0, 0, 0, false, 0, false⟩ ⟨2047, false⟩ ⟨1, 2, true⟩, []) := by decide +kernel

theorem test_decode_salu : decodeWf [0xFFFFFFFFFFFFFFFF0000000008006D10]
    = some (.salu ⟨13, 6, 0, 0, true, 0xFFFFFFFFFFFFFFFF⟩, []) := by decide +kernel

theorem test_decode_br : decodeWf [0xFFFFFFE000020B18]
    = some (.br ⟨3, 1, 2, false, 0, -32⟩, []) := by decide +kernel

theorem test_decode_tst : decodeWf [0x6000040000004009523]
    = some (.tst ⟨5, 9, false, false, 64, 512⟩ 4 true, []) := by decide +kernel

theorem test_decode_dstr : decodeWf [0x450360, 0x11112222333344445555666677778888, 0x2, 0x3, 0xFFFF0000000000000000000000000004]
    = some (.dstr 3 ⟨⟨true, 2, 4⟩, ⟨false, 0, 0⟩, ⟨false, 0, 0⟩, ⟨false, 0, 0⟩⟩ (0xffff0000000000000000000000000004000000000000000000000000000000030000000000000000000000000000000211112222333344445555666677778888), []) := by decide +kernel

theorem test_decode_aside : decodeWf [0x8980000004060, 0x11112222333344445555666677778888]
    = some (.aside ⟨⟨false, 0, 0⟩, ⟨false, 0, 0⟩, ⟨false, 0, 0⟩, ⟨true, 1, 17⟩⟩ (0x11112222333344445555666677778888), []) := by decide +kernel

theorem test_decode_cue : decodeWf [0x402861]
    = some (.cue 40 false 128, []) := by decide +kernel

theorem test_decode_waitq : decodeWf [0x14262]
    = some (.waitq 2 5, []) := by decide +kernel

theorem test_decode_atom : decodeWf [0x3920C416C]
    = some (.atom ⟨1, 2, 3, 4, 9, true, true⟩, []) := by decide +kernel

theorem test_decode_claim : decodeWf [0xFF20C416D]
    = some (.claim ⟨1, 2, 3, 4, 255⟩, []) := by decide +kernel

theorem test_decode_acq : decodeWf [0x18A4C416E]
    = some (.acq ⟨1, 2, 3, 4, 5, 6⟩, []) := by decide +kernel

theorem test_decode_rel : decodeWf [0x24416F]
    = some (.rel ⟨1, 2, true, 4⟩, []) := by decide +kernel

theorem test_decode_rroute : decodeWf [0x1C4168]
    = some (.rroute ⟨1, 2, 3, 1⟩, []) := by decide +kernel

theorem test_decode_rred : decodeWf [0x10000000100000040C80C2565]
    = some (.rred ⟨1, true, false, 2, 3, 200, 64, 128, false, 8192⟩, []) := by decide +kernel

theorem test_decode_upd : decodeWf [0x13000020216A]
    = some (.upd ⟨33, false, 64, 19⟩, []) := by decide +kernel

/-! ## States that meet the hypotheses of the statements -/

/-- The forms that only their word decides, on the vector queue, with the registers that they use. -/
def vecForms : List (Instr × List (BitVec 5)) :=
  let a := vw 1 1 2 3 0
  let f := vw 0 1 2 3 0
  let o := vw 0 1 2 0 0
  [(.vadd a, []), (.vsub a, []), (.vmul a, []), (.vmin a, []), (.vmax a, []), (.vand a, []), (.vor a, []), (.vxor a, []),
   (.vsll a, []), (.vsrl a, []), (.vsra a, []), (.vadd f, []), (.vsub f, []), (.vmul f, []), (.vmin f, []), (.vmax f, []),
   (.vdiv f, []), (.vsqrt o, []), (.vfma (vw 8 1 2 3 4), []), (.vfms f, []), (.vfnma f, []), (.vfnms f, []), (.vabs o, []),
   (.vneg o, []), (.vcpys f, []), (.vexp2 o, []), (.vlog2 o, []), (.vrcp o, []), (.vrsqrt o, []), (.vtanh o, []),
   (.vsigm o, []), (.vcmp 0 a, []), (.vcmp 7 f, []), (.vsel f, []), (.vperm f, []), (.vbcast o, [2]), (.vext o, [1]),
   (.vcvt { o with t2 := 8, sat := true }, []), (.vcvt { vw 8 1 2 0 0 with t2 := 6, sat := true }, []), (.vredsum o, []),
   (.vredprod o, []), (.vredmax o, []), (.vredmin o, []), (.vredargmax o, []), (.vredargmin o, []),
   (.vredsum { o with t := 1 }, []), (.vredprod { o with t := 1 }, []), (.vredmax { o with t := 1 }, []),
   (.vredmin { o with t := 1 }, []), (.vredargmax { o with t := 1 }, []), (.vredargmin { o with t := 1 }, []),
   (.kand f, []), (.kor f, []), (.kxor f, []), (.kandn f, []), (.knot o, []), (.kpop (vw 0 1 0 0 0), [1]),
   (.setvl (vw 0 0 0 0 0) ⟨1, false, 0, 3⟩, [3]), (.setvl (vw 0 0 0 0 0) ⟨0, true, 4, 3⟩, [3, 4]),
   (.vld (vw 0 1 0 0 0) ⟨1, true, true, 5, 6⟩, [5, 6]), (.vst (vw 0 0 1 0 0) ⟨1, false, false, 63488, 4⟩, []),
   (.vldt (vw 0 1 0 0 0) ⟨0, 31⟩, []), (.vstt (vw 0 0 1 0 0) ⟨0, 0⟩, []), (.vrdf (vw 0 1 0 0 0) ⟨2047, false⟩, []),
   (.vwrf (vw 1 0 1 0 0) ⟨5, true⟩, [5]), (.vout { vw 0 0 1 0 0 with t2 := 4 } ⟨0, 1, 0, false, 65024⟩, []),
   (.vout { vw 1 0 1 0 0 with t2 := 7, sat := true } ⟨1, 0, 0, false, 127⟩, []),
   (.vsrd (vw 0 1 0 0 0) ⟨2047, false⟩ ⟨true, 1⟩, []), (.vswr (vw 0 0 1 0 0) ⟨0, false⟩, []),
   (.vsmrg (vw 0 1 2 0 0) ⟨0, false⟩ ⟨5, 0, true⟩, []), (.vsclf (vw 0 0 0 0 0) ⟨0, false⟩ ⟨2047, 3, 15⟩, [])]

/-- Every vector instruction can issue in `live`: VecInt32Lanes, VecFloatLanes, VecTransLanes, VecSelects,
VecMasksAndVl, VecReduce, VecReduceInt32, VecFrames, and the issue premises of the others of 07 and 08. -/
theorem witness_vector_issue : ∀ x ∈ vecForms, Issuable live run inst .v 1 x.1 x.2 := fun x h =>
  issuable_of ((by decide +kernel : ∀ x ∈ vecForms, canIssue live .v 1 x.1 x.2 = true) x h)

theorem witness_VecFloatLanes_nan : fmtIsInt .fp64 = false ∧ (fpIsNan .fp32 0x7F800001 || fpIsNan .fp32 0) = true ∧
    (fpIsNan .bf16 0 || fpIsNan .bf16 0xFFFF) = true := by decide +kernel

/-- Finite codes of FP32 from the least to the greatest; x = 3, y = 1, z = 1 make every result of the clause but the exact zeros
differ from 0, and 1 + -1, 3 * 0, 1 / 0 and the root of -1 are those. -/
theorem witness_VecFloatLanes_exact :
    fmtInf .fp32 ≠ none ∧ (∀ c ∈ [0, 1, 0x3F800000, 0x40400000, 0x7F7FFFFF, 0xBF800000, 0xFF7FFFFF],
        c < 2 ^ fmtBits .fp32 ∧ fpIsFinite .fp32 c = true) ∧
      let x := ratOf .fp32 0x40400000
      let y := ratOf .fp32 0x3F800000
      x + y ≠ 0 ∧ x - y ≠ 0 ∧ x * y ≠ 0 ∧ x * y + y ≠ 0 ∧ x * y - y ≠ 0 ∧ -(x * y) + y ≠ 0 ∧ -(x * y) - y ≠ 0 ∧ y ≠ 0 ∧
        x / y ≠ 0 ∧ 0 < x ∧ y + ratOf .fp32 0xBF800000 = 0 ∧ x * ratOf .fp32 0 = 0 ∧ ratOf .fp32 0 = 0 ∧
        ratOf .fp32 0xBF800000 < 0 :=
  ⟨by decide +kernel, by decide +kernel, by
    simp only [ratOf_one, ratOf_three, ratOf_minus_one, ratOf_zero]; norm_num⟩

theorem below_one_two : below .fp32 0x3F800000 0x40000000 := by
  simp only [below, show fpDecode .fp32 0x3F800000 = .fin false 8388608 (-23) by decide +kernel,
    show fpDecode .fp32 0x40000000 = .fin false 8388608 (-22) by decide +kernel, ratOf_one, ratOf_two]
  norm_num

/-- Of two operands both NaN, one, none; 1 below 2, below infinity and above -infinity; the two zeros. -/
theorem witness_VecFloatLanes_minmax :
    fpIsNan .fp32 0x7FC00000 = true ∧ fpIsNan .fp32 0 = false ∧ below .fp32 0x3F800000 0x40000000 ∧
      below .fp32 0x3F800000 0x7F800000 ∧ below .fp32 0xFF800000 0x3F800000 ∧ ratOf .fp32 0x80000000 = 0 ∧
      fpIsFinite .fp32 0x80000000 = true :=
  ⟨by decide +kernel, by decide +kernel, below_one_two,
    by simp [below, show fpDecode .fp32 0x3F800000 = .fin false 8388608 (-23) by decide +kernel,
      show fpDecode .fp32 0x7F800000 = .inf false by decide +kernel],
    by simp [below, show fpDecode .fp32 0x3F800000 = .fin false 8388608 (-23) by decide +kernel,
      show fpDecode .fp32 0xFF800000 = .inf true by decide +kernel],
    ratOf_minus_zero, by decide +kernel⟩

theorem witness_VecTransLanes_nan : fpIsNan .fp32 0x7F800001 = true ∧ fpIsNan .fp32 0xFFFFFFFF = true := by decide +kernel

/-- 128; the exponents -149 and 127 of VEXP2; a negative operand; the least and the greatest power of 2; the powers whose
reciprocals are the least and the greatest normal ones; a power of 4. -/
theorem witness_VecTransLanes_exact :
    (∀ c ∈ [0x43000000, 0xC3150000, 0x42FE0000, 0xBF800000, 1, 0x7F000000, 0x7E800000, 0x00400000, 0xFE800000, 0x40800000],
        c < 2 ^ 32 ∧ fpIsFinite .fp32 c = true) ∧
      ratOf .fp32 0x43000000 = 128 ∧ ratOf .fp32 0xC3150000 = ((-149 : ℤ) : ℚ) ∧ ratOf .fp32 0x42FE0000 = ((127 : ℤ) : ℚ) ∧
      ratOf .fp32 0xBF800000 < 0 ∧ ratOf .fp32 1 = 2 ^ (-149 : ℤ) ∧ ratOf .fp32 0x7F000000 = 2 ^ (127 : ℤ) ∧
      ratOf .fp32 0x7E800000 = 2 ^ (126 : ℤ) ∧ ratOf .fp32 0x00400000 = 2 ^ (-127 : ℤ) ∧
      ratOf .fp32 0xFE800000 = -2 ^ (126 : ℤ) ∧ ratOf .fp32 0x40800000 = 4 ^ (1 : ℤ) := by
  refine ⟨by decide +kernel, ?_, ?_, ?_, ?_, ?_, ?_, ?_, ?_, ?_, ?_⟩
  · rw [ratOf_fin (by decide +kernel : fpDecode .fp32 0x43000000 = .fin false 8388608 (-16))]; norm_num
  · rw [ratOf_fin (by decide +kernel : fpDecode .fp32 0xC3150000 = .fin true 9764864 (-16))]; norm_num
  · rw [ratOf_fin (by decide +kernel : fpDecode .fp32 0x42FE0000 = .fin false 16646144 (-17))]; norm_num
  · rw [ratOf_minus_one]; norm_num
  · rw [ratOf_fin (by decide +kernel : fpDecode .fp32 1 = .fin false 1 (-149))]; norm_num
  · rw [ratOf_fin (by decide +kernel : fpDecode .fp32 0x7F000000 = .fin false 8388608 104)]; norm_num
  · rw [ratOf_fin (by decide +kernel : fpDecode .fp32 0x7E800000 = .fin false 8388608 103)]; norm_num
  · rw [ratOf_fin (by decide +kernel : fpDecode .fp32 0x00400000 = .fin false 4194304 (-149))]; norm_num
  · rw [ratOf_fin (by decide +kernel : fpDecode .fp32 0xFE800000 = .fin true 8388608 103)]; norm_num
  · rw [ratOf_fin (by decide +kernel : fpDecode .fp32 0x40800000 = .fin false 8388608 (-21))]; norm_num

/-- 1.5, within 1/2 to 2, whose result is bounded and does not overflow. -/
theorem witness_VecTransLanes_bound :
    fpDecode .fp32 0x3FC00000 = .fin false 12582912 (-23) ∧ 12582912 ≠ 0 ∧
      (let y := ivExp2 (dyOfFin false 12582912 (-23))
       let near := dyRound .fp32 .rne .ieee false (if y.lo.m = 0 then y.hi else y.lo)
       transWithin .ulp1 y near.1 = true ∧ near.2 &&& flOverflow = 0) ∧
      ¬ 128 ≤ ratOf .fp32 0x3FC00000 ∧ 1 / 2 ≤ ratOf .fp32 0x3FC00000 ∧ ratOf .fp32 0x3FC00000 ≤ 2 := by
  have h : ratOf .fp32 0x3FC00000 = 3 / 2 := by
    rw [ratOf_fin (by decide +kernel : fpDecode .fp32 0x3FC00000 = .fin false 12582912 (-23))]; norm_num
  refine ⟨by decide +kernel, by decide, by decide +kernel, ?_, ?_, ?_⟩ <;> rw [h] <;> norm_num

theorem witness_VecSelects : (List.range 8).all (fun p => (predOf p).isSome) = true := by decide

/-- A NaN among the operands, 1 below 2, and the two zeros, neither of which is below the other. -/
theorem witness_VecSelects_cmp :
    (fpIsNan .fp32 0x7F800001 || fpIsNan .fp32 0) = true ∧ fpIsNan .fp32 0 = false ∧ below .fp32 0x3F800000 0x40000000 ∧
      ¬ below .fp32 0 0x80000000 ∧ ¬ below .fp32 0x80000000 0 := by
  refine ⟨by decide +kernel, by decide +kernel, below_one_two, ?_, ?_⟩ <;>
    simp [below, show fpDecode .fp32 0 = .fin false 0 (-149) by decide +kernel,
      show fpDecode .fp32 0x80000000 = .fin true 0 (-149) by decide +kernel, ratOf_zero, ratOf_minus_zero]

/-- A finite code, a zero, an infinity, a NaN; a destination with an infinity, one without, an integer one; formats that
differ. -/
theorem witness_VecSelects_convert :
    fpIsFinite .fp32 0x3F800000 = true ∧ ratOf .fp32 0x3F800000 ≠ 0 ∧ ratOf .fp32 0 = 0 ∧ fpIsFinite .fp32 0x7F800000 = false ∧
      fpIsNan .fp32 0x7F800000 = false ∧ fpIsNan .fp32 0x7FC00000 = true ∧ fmtIsInt .bf16 = false ∧ fmtIsInt .int8 = true ∧
      (Fmt.bf16, Fmt.e4m3) ≠ (.fp32, .fp64) ∧ Fmt.bf16 ≠ .e4m3 :=
  ⟨by decide +kernel, by rw [ratOf_one]; norm_num, ratOf_zero, by decide +kernel, by decide +kernel, by decide +kernel, by decide,
    by decide, by decide, by decide⟩

/-- S4 holds the least positive value, and one above 512; the immediates 1 and 512. -/
theorem witness_VecMasksAndVl :
    (0 : Int) < (getS (setS live 4 1) 4).toInt ∧ (512 : Int) < (getS (setS live 4 600) 4).toInt ∧
      (0 : Int) < ((1 : BitVec 10).toNat : Int) ∧ (getK live 1).getLsbD 511 = true := by decide +kernel

/-- The formats that a reduction takes. -/
theorem witness_VecReduce : (vw 0 1 2 0 0).t = 0 ∧ (vw 1 1 2 0 0).t = 1 ∧ (vw 8 1 2 0 0).t = 8 := by decide

theorem witness_VecReduceInt32 : (vw 1 1 2 0 0).t = 1 ∧ live.vec.vl.toNat ≤ 512 := by decide

/-- The last element ends at the end of the buffer. -/
theorem witness_VecLoads :
    let at_ := fun n : Nat => memAddr false 63488 4 n
    (∀ n < 512, at_ n % 4 = 0 ∧ 0 ≤ at_ n ∧ at_ n + 4 ≤ bufBytes live 7 1) ∧ lanesOf live 0 = 512 ∧
      at_ 511 + 4 = bufBytes live 7 1 ∧ rngsBusy live 9 [memRng live 7 1 512 false 63488 4 4 false] = false ∧
      (getT (setT live 0 ⟨1, 1, 0, 2, true⟩) 0).full = true := by decide +kernel

/-- As for VecLoads, and the buffer's frames and the scratchpad are in order. -/
theorem witness_VecStore_clean : Clean live := rfl

theorem witness_VecStore : rngsBusy live 9 [memRng live 7 1 512 false 63488 4 4 true] = false ∧
    findBuf live 7 1 = some ⟨some 7, 1, 65536, [2]⟩ ∧ Buf.wf ⟨some 7, 1, 65536, [2]⟩ ∧ Pad.wf live.pad = true :=
  ⟨by decide +kernel, by decide +kernel, ⟨by decide, by decide, by decide⟩, by decide +kernel⟩

/-- Rows 0 and 2047; a CHECKED row, a ZERO one, and one that is neither. -/
theorem witness_VecFirn :
    rowVal live ⟨0, false⟩ = (0 : Nat) ∧ rowVal live ⟨2047, false⟩ = (2047 : Nat) ∧
      rngsBusy live 9 [rFirn 2047 1 false] = false ∧ rngsBusy live 9 [rFirn 0 1 true] = false ∧
      Firn.wf live.firn = true ∧ (128 * 3 < lanesOf live 0) ∧
      (firnRow live 0 0).checked = false ∧ (firnRow live 0 0).zero = true ∧
      (firnRow (setFirnRow live 0 0 ⟨false, true, 1, false, true, 0, 0, 0⟩) 0 0).checked = true ∧
      (firnRow (setFirnRow live 3 2047 ⟨false, true, 1, false, false, 0, 0, 0⟩) 3 2047).zero = false := by decide +kernel

/-- Earlier work that is complete and work that is not; an element that is misaligned, one below the buffer and one beyond it; an EMPTY tile register; VL from 0; rows -1 and
2048. -/
theorem witness_VecFaults :
    run.fault = none ∧ issuedDone live 7 9 = true ∧
      issuedDone { live with mat := { live.mat with stores := [pend] } } 7 9 = false ∧
      memAddr false 2 4 0 % 4 ≠ 0 ∧ memAddr false (-4) 4 0 < 0 ∧ memAddr false (-4) 4 0 % 4 = 0 ∧
      (∀ k < 511, memAddr false 63492 4 k + 4 ≤ bufBytes live 7 1) ∧
      (bufBytes live 7 1 : Int) < memAddr false 63492 4 511 + 4 ∧ (getT live 0).full = false ∧
      (getS live 4).toInt ≤ 0 ∧ rowVal (setS live 5 (-1)) ⟨5, true⟩ < 0 ∧ 2047 < rowVal (setS live 5 2048) ⟨5, true⟩ := by
  decide +kernel

/-- VADD answers a next state. -/
theorem witness_VecFrames : ∃ t, exec (.vadd (vw 0 1 2 3 0)) live = .next t := ⟨_, rfl⟩

/-- E4M3 elements up to the end of the buffer; the last storage row of S128 in E4M3 with 128 lanes. -/
theorem witness_VoutResults :
    let at_ := fun n : Nat => memAddr false 65024 1 n
    (∀ n < 512, at_ n % 1 = 0 ∧ 0 ≤ at_ n ∧ at_ n + 1 ≤ bufBytes live 7 1) ∧ lanesOf live 0 = 512 ∧
      rngsBusy live 9 [memRng live 7 1 512 false 65024 1 1 true] = false ∧
      tileLegal 0 4 = true ∧ offVal live false 127 = (127 : Nat) ∧ 127 < shapeRows 0 ∧
      lanesOf { live with vec := { live.vec with vl := 128 } } 0 ≤ shapeCols 0 := by decide +kernel

/-- F4 elements, two to a byte, in the last 256 bytes of the buffer. -/
theorem witness_VoutResults_f4 :
    let at_ := fun n : Nat => memAddr true 65280 1 n
    (∀ n < 512, at_ n % 1 = 0 ∧ 0 ≤ at_ n ∧ at_ n + 1 ≤ bufBytes live 7 1) ∧ at_ 511 + 1 = bufBytes live 7 1 ∧
      rngsBusy live 9 [memRng live 7 1 512 true 65280 1 1 true] = false := by decide +kernel

/-- CNT equal to NB and different from it; rows that end at row 2047, ZERO and FP32. -/
theorem witness_StatRows :
    (statRow (setStatRow live 2047 ⟨1, 0, 0, 0, 1, 4⟩) 2047).cnt = (4 : BitVec 8) ∧ (statRow live 2047).cnt ≠ (1 : BitVec 8) ∧
      rngsBusy live 9 [rFirn 2047 1 false] = false ∧ rngsBusy live 9 [rFirn 0 1 true] = false ∧
      rngsBusy live 9 [rFirn 0 2048 true] = false ∧ 0 + (2047 : BitVec 11).toNat < 2048 ∧
      (firnRow live 3 2047).zero = true ∧
      (firnRow (setFirnRow live 0 0 ⟨false, false, 1, false, false, 0, 0, 0⟩) 0 0).isInt = false := by decide +kernel

/-- Words that are set and words that are not; the first and the last of the four. -/
theorem witness_StatMerge :
    let x : StatRow := ⟨7, 0, 0, 0, 1, 0⟩
    statWord x 0 = some 7 ∧ statWord x 1 = none ∧ statWord x 3 = none ∧ statWord { x with set := 15 } 1 = some 0 ∧
      statWord { x with set := 15 } 3 = some 0 ∧ rngsBusy live 9 [rFirn 2047 1 true] = false := by decide +kernel

/-- Every function of Table 9-15 with a register and with an immediate; every SREAD; each condition of BR. -/
theorem witness_ScalarOps_issue :
    (∀ k < 14, canIssue live .s 1 (.salu ⟨BitVec.ofNat 4 k, 1, 0, 0, true, 5⟩) [1, 0] = true) ∧
      (∀ k < 13, canIssue live .s 1 (.salu ⟨BitVec.ofNat 4 k, 1, 2, 3, false, 0⟩) [1, 2, 3] = true) ∧
      (∀ k ∈ [0, 1, 2, 3, 4, 32, 63], canIssue live .s 1 (.sread (BitVec.ofNat 8 k) 31) [31] = true) ∧
      (∀ k ∈ [1, 2, 3, 4, 5, 6], canIssue live .s 1 (.br ⟨BitVec.ofNat 3 k, 1, 2, false, 0, -32⟩) [1, 2] = true) ∧
      canIssue live .s 1 (.br ⟨0, 0, 0, true, 5, 0⟩) [5] = true ∧ canIssue live .s 1 (.br ⟨0, 0, 0, false, 0, -48⟩) [] = true := by
  decide +kernel

/-- A target at code offset 0, one at the last word, one before the code and one at its end. -/
theorem witness_ScalarOps_target :
    (0 : Int) ≤ run.pc + (-32 : BitVec 32).toInt ∧ run.pc + (65488 : BitVec 32).toInt < codeLen live inst ∧
      run.pc + (-48 : BitVec 32).toInt < 0 ∧ codeLen live inst ≤ run.pc + (65504 : BitVec 32).toInt ∧
      ((getS live 5).toNat : Int) % 16 = 0 ∧
      (getS (setS live 5 8) 5).toNat % 16 ≠ 0 ∧ ¬ (getS live 1 ≠ getS live 2) := by decide +kernel


/-- An FP32 row whose CHK is not finite, one with a word that is not, a row of zeros, and one whose words sum to 1. -/
theorem witness_VecFirn_fp32 :
    let x : FirnRow := ⟨false, false, 1, false, false, 0, 0, 0⟩
    let sum := fun x : FirnRow => ((List.range 128).map fun c => ratOf .fp32 (bvGet x.words (32 * c) 32)).sum
    x.isInt = false ∧ x.zero = false ∧ fpIsFinite .fp32 ({ x with chk := 0x7F800000 } : FirnRow).chk.toNat = false ∧
      fpIsFinite .fp32 (bvGet ({ x with words := 0x7F800000 } : FirnRow).words 0 32) = false ∧
      (∀ c < 128, fpIsFinite .fp32 (bvGet x.words (32 * c) 32) = true) ∧ sum x = 0 ∧
      (∀ c < 128, fpIsFinite .fp32 (bvGet ({ x with words := 0x3F800000 } : FirnRow).words (32 * c) 32) = true) ∧
      sum { x with words := 0x3F800000 } = 1 := by decide +kernel

/-- 1 is its own rounding. -/
theorem witness_VecFirn_rounds : RoundsTo .fp32 .rne false 1 (0x3F800000, 0) := by
  have hno : ¬ Overflows .fp32 .rne 1 := by
    have ht : ratOf .fp32 (fmtMaxCode .fp32) = 16777215 * 2 ^ (104 : ℤ) := by
      rw [ratOf_fin (by decide +kernel : fpDecode .fp32 (fmtMaxCode .fp32) = .fin false 16777215 104)]; norm_num
    have hu : ratOf .fp32 (fmtMaxCode .fp32 - 1) = 16777214 * 2 ^ (104 : ℤ) := by
      rw [ratOf_fin (by decide +kernel : fpDecode .fp32 (fmtMaxCode .fp32 - 1) = .fin false 16777214 104)]; norm_num
    simp only [Overflows, awayFrom, towardZero, ht, hu]
    norm_num
  have hv : ((ratOf .fp32 0x3F800000 : ℚ) : ℝ) = 1 := by rw [ratOf_one]; norm_num
  refine ⟨fun h => absurd h hno, fun h => absurd h hno, fun _ => ⟨by decide, by decide +kernel, fun _ y _ _ => ?_, nofun, nofun,
    nofun, fun h => ?_⟩, fun _ _ => rfl, fun _ h => absurd hv h, fun _ h => absurd hv h⟩
  · rw [hv, sub_self, abs_zero]
    refine ⟨abs_nonneg _, fun h hy => absurd ?_ hy⟩
    have : ((ratOf .fp32 y : ℚ) : ℝ) = ((ratOf .fp32 0x3F800000 : ℚ) : ℝ) := by
      rw [hv]; linarith [abs_eq_zero.mp h.symm]
    exact_mod_cast this
  · rw [ratOf_one] at h; norm_num at h

/-- A ZERO row and one that is not; a row that is CHECKED and one that is not; an INT32 row. -/
theorem witness_VecFirn_checks :
    Clean live ∧ (firnRow live 0 0).checked = false ∧ (firnRow live 0 0).zero = true ∧
      (firnRow (setFirnRow live 0 0 ⟨false, true, 1, false, true, 0, 0, 0⟩) 0 0).checked = true ∧
      (⟨false, true, 1, false, false, 0, 0, 0⟩ : FirnRow).isInt = true := ⟨rfl, by decide +kernel⟩

/-- Words 0 and 1 that are set and that are not. -/
theorem witness_StatMerge_sets :
    let x : StatRow := ⟨7, 8, 9, 10, 3, 0⟩
    statWord x 0 = some 7 ∧ statWord x 1 = some 8 ∧ statWord { x with set := 0 } 0 = none ∧ statWord { x with set := 1 } 1 = none ∧
      statWord x 3 = none := by decide
/-- S128 BF16 rows of 256 bytes that end at the end of the buffer; a FULL tile register. -/
theorem witness_TileTransfers :
    canIssue live .s 1 (.tcfg 15 5 6) [] = true ∧ canIssue live .s 1 (.trel 0) [] = true ∧
      canIssue live .d 1 (.tld ⟨0, 1, false, false, 32768, 256⟩) [] = true ∧
      canIssue live .d 1 (.tst ⟨0, 1, true, true, 4, 5⟩ 2 true) [4, 5] = true ∧
      tileLegal (getT live 0).shape (getT live 0).fmt = true ∧
      hull 32768 256 (shapeRows 0) (rowBytes 0 2) = (32768, 65536) ∧ bufBytes live 7 1 = 65536 ∧
      rngsBusy live 9 [rTile 0 true, rBuf live 7 1 32768 65536 false] = false ∧
      rngsBusy live 9 [rTile 0 false, rBuf live 7 1 32768 65536 true] = false ∧ Clean live ∧
      (getT (setT live 0 ⟨1, 1, 0, 2, true⟩) 0).full = true ∧ findBuf live 7 1 = some ⟨some 7, 1, 65536, [2]⟩ ∧
      (∀ q : Nat, q < 128 → ∀ q' : Nat, q' < 128 → q < q' → (q : Int) * 256 + 256 ≤ q' * 256 ∨ (q' : Int) * 256 + 256 ≤ q * 256) := by
  refine ⟨by decide +kernel, by decide +kernel, by decide +kernel, by decide +kernel, by decide +kernel, by decide +kernel,
    by decide +kernel, by decide +kernel, by decide +kernel, rfl, by decide +kernel, by decide +kernel, by decide +kernel⟩

/-- Offsets and strides in S4 and S5: 16, which is misaligned; -32 and one that ends 32 bytes beyond the buffer; an EMPTY
register and a FULL one. -/
theorem witness_TileTransfers_faults :
    let m : TileMem := ⟨0, 1, true, true, 4, 5⟩
    canIssue live .d 1 (.tld m) [4, 5] = true ∧ canIssue (setT live 0 ⟨1, 1, 0, 2, true⟩) .d 1 (.tst m 2 true) [4, 5] = true ∧
      offVal (setS live 4 16) true 4 % 32 ≠ 0 ∧ offVal (setS live 4 (-32)) true 4 = -32 ∧
      (bufBytes live 7 1 : Int) < 32800 + (shapeRows 0 - 1) * 256 + rowBytes 0 2 ∧ (32800 : Int) % 32 = 0 ∧
      (getT live 0).full = false ∧ (getT (setT live 0 ⟨1, 1, 0, 2, true⟩) 0).full = true := by decide +kernel

theorem witness_SceneEnds : Issuable live run inst .s 1 .sceneEnd [] := issuable_of (by decide +kernel)

/-- Weights INT8 of 128 rows at the end of the buffer, rows of Firn up to 2047, with a store clause and without; from
the ring. -/
theorem witness_MmaIssue :
    let w : MmaWord := ⟨true, false, 0, 0, 7, 7, 0, 1920, 1, false, false, 49152, 128, none⟩
    let st : StoreWord := ⟨1, false, false, 0, 512, 0, true, false, 0, 0, false⟩
    let x := { w with store := some st }
    let t := setT live 0 ⟨1, 1, 0, 7, true⟩
    canIssue t .m 1 (.mma w) (mmaRegs w) = true ∧ canIssue t .m 2 (.mma x) (mmaRegs x) = true ∧
      canIssue t .m 1 (.mma { w with src := true }) (mmaRegs { w with src := true }) = true ∧
      (getT t 0).full = true ∧ (getT t 0).shape = w.shape ∧ (getT t 0).fmt = w.afmt ∧
      r81 49152 128 (mmaWeightShape w).1 (mmaWeightShape w).2 (bufBytes t 7 1) = none ∧
      r81 0 512 (mmaRows 0) (storeRowBytes 0 0) (bufBytes t 7 1) = none ∧ rngsBusy t 9 (mmaRngs t 7 w) = false ∧
      rngsBusy t 9 (mmaRngs t 7 x) = false ∧ w.frb.toNat + mmaRows w.shape = 2048 ∧ runAlive live 7 = true := by decide +kernel

/-- An EMPTY register and one of another shape; weights from S4 and S5 that are misaligned and that end beyond the buffer, as a
store clause's; a row of the other TYPE. -/
theorem witness_MmaIssue_faults :
    let st : StoreWord := ⟨1, true, false, 4, 512, 0, true, false, 0, 0, false⟩
    let w : MmaWord := ⟨false, false, 0, 0, 7, 7, 0, 0, 1, true, false, 4, 128, none⟩
    let x := { w with wor := false, woff := 0, store := some st }
    let t := setT live 0 ⟨1, 1, 0, 7, true⟩
    let c := setFirnRow t 0 127 ⟨false, false, 1, false, false, 0, 0, 0⟩
    canIssue live .m 1 (.mma w) (mmaRegs w) = true ∧ (getT live 0).full = false ∧
      (getT (setT live 0 ⟨1, 1, 1, 7, true⟩) 0).shape ≠ w.shape ∧ canIssue t .m 2 (.mma x) (mmaRegs x) = true ∧
      r81 16 128 (mmaWeightShape w).1 (mmaWeightShape w).2 (bufBytes t 7 1) = some eAlign ∧
      r81 49184 128 (mmaWeightShape w).1 (mmaWeightShape w).2 (bufBytes t 7 1) = some eBufsize ∧
      r81 16 512 (mmaRows 0) (storeRowBytes 0 0) (bufBytes t 7 1) = some eAlign ∧
      rngsBusy c 9 (mmaRngs c 7 { w with wor := false, woff := 0 }) = false ∧ (firnRow c 0 127).zero = false ∧
      (firnRow c 0 127).isInt ≠ (w.afmt == 7) := by decide +kernel

/-- A load for the background set, behind an MMA whose loads are done; a set that is taken. -/
theorem witness_MmaIssue_load :
    let w : MmaWord := ⟨true, false, 0, 0, 7, 7, 0, 0, 1, false, false, 0, 128, none⟩
    let a : MmaJob := ⟨7, 3, w, 0, 0, 0, [], 1, 0⟩
    let b : MmaJob := ⟨7, 4, w, 0, 0, 0, [.reset], 0, 0⟩
    live.mat.bgFor = none ∧ (∀ x ∈ [a], x.loads = []) ∧ (∀ x ∈ [a] ++ [], x.seq ≠ b.seq) ∧ b.loads = .reset :: [] ∧
      ({ live.mat with bgFor := some 4 } : Mat).bgFor ≠ none := by decide +kernel

theorem witness_MmaIssue_sets :
    (0 : Nat) < mmaBlocks 0 * 3 ∧ (3 : Nat) ≤ (3 : BitVec 2).toNat ∧ (127 : Nat) < 128 ∧ (0 : BitVec 3) ≠ 5 ∧
      (List.replicate 128 1).length = 128 := by decide +kernel

theorem witness_MmaSums :
    let w : MmaWord := ⟨true, false, 0, 0, 7, 7, 3, 1920, 1, false, false, 0, 512, none⟩
    w.src = false ∧ w.shape = 0 ∧ w.afmt = 7 ∧ w.wfmt = 7 ∧ w.ovw = true ∧ w.frb.toNat + 128 ≤ 2048 ∧ Firn.wf live.firn = true ∧
      findBuf live 7 w.wh.toNat = some ⟨some 7, 1, 65536, [2]⟩ ∧
      (getT (setT live 0 ⟨1, 1, 0, 7, true⟩) 0).shape = 0 ∧ (getT (setT live 0 ⟨1, 1, 0, 7, true⟩) 0).fmt = 7 := by
  decide +kernel

/-- The foreground set may be any set. -/
theorem witness_MmaSums_set (x : WeightSet) : fgSet { live.mat with setA := x, fgA := true } = x := rfl

/-- Products with a NaN, of an infinity and a zero, of infinities of both signs, with an infinity, finite ones whose sum is
0 and is not. -/
theorem witness_MmaSums_block :
    fmtIsInt .bf16 = false ∧ (∀ a ∈ [0x7FC0, 0x7F80, 0xFF80, 0x3F80, 0xBF80, 0], a < 2 ^ fmtBits .bf16) ∧
      fpIsNan .bf16 0x7FC0 = true ∧ fpIsNan .bf16 0x7F80 = false ∧ fpIsFinite .bf16 0x7F80 = false ∧ fpIsZero .bf16 0 = true ∧
      fpNegBit .bf16 0xFF80 = true ∧ fpNegBit .bf16 0x7F80 = false ∧ fpIsFinite .bf16 0xBF80 = true ∧
      ([(0x3F80, 0x3F80), (0x3F80, 0xBF80)].map fun p : Nat × Nat => ratOf .bf16 p.1 * ratOf .bf16 p.2).sum = 0 ∧
      ([(0x3F80, 0x3F80), (0x3F80, 0x3F80)].map fun p : Nat × Nat => ratOf .bf16 p.1 * ratOf .bf16 p.2).sum = 2 := by
  decide +kernel

/-- A NaN, an infinity, finite words whose sum is 0 and is not. -/
theorem witness_MmaSums_firn :
    fpIsNan .fp32 0x7FC00000 = true ∧ fpIsNan .fp32 0x7F800000 = false ∧ fpIsFinite .fp32 0x7F800000 = false ∧
      fpIsFinite .fp32 0x3F800000 = true ∧ ratOf .fp32 0x3F800000 + ratOf .fp32 0xBF800000 = 0 ∧
      ratOf .fp32 0x3F800000 + ratOf .fp32 0x3F800000 ≠ 0 := by decide +kernel

theorem witness_MmaSums_rows : (∀ k ∈ [0, 255] ++ [128], k < 256) ∧ Clean live ∧ Firn.wf live.firn = true ∧
    (1920 : BitVec 11).toNat + 127 < 2048 ∧ (∀ n < 128, bvGet ((mkWeightRow .int8 false (List.replicate 128 255)).w) (32 * n) 32 < 256) :=
  ⟨by decide +kernel, rfl, by decide +kernel, by decide, by decide +kernel⟩

/-- An operand whose high part overflows, one that is its own high part, one with a low part; an infinity against 0 and 1. -/
theorem witness_MmaSums_split :
    (∀ x ∈ [0x7F7FFFFF, 0x3F800000, 0x3F800001], x < 2 ^ 32 ∧ fpIsFinite .fp32 x = true ∧ ratOf .fp32 x ≠ 0) ∧
      (splitFp32 0x7F7FFFFF).1 = 0x7F80 ∧ fpIsFinite .bf16 0x7F80 = false ∧
      ratOf .fp32 0x3F800000 - ratOf .bf16 0x3F80 = 0 ∧ ratOf .fp32 0x3F800001 - ratOf .bf16 0x3F80 ≠ 0 ∧
      fpIsFinite .fp32 0x7F800000 = false ∧ fpIsNan .fp32 0x7F800000 = false ∧ fpIsFinite .fp32 0 = true := by decide +kernel

/-- With and without DV, up to the last vector register and the last row. -/
theorem witness_MmvEffects :
    let w : MmvWord := ⟨true, true, 0, 3, 7, 0, 0, 31, 1, false, false, 0, 128, 0, 0⟩
    let x := { w with dv := false, dst := 2047 }
    let t := setT live 0 ⟨1, 1, 3, 7, true⟩
    canIssue t .m 1 (.mmv w) [] = true ∧ canIssue t .m 1 (.mmv x) [] = true ∧ (getT t 0).full = true ∧
      (getT t 0).shape = w.shape ∧ (getT t 0).fmt = w.fmt ∧ r81 0 128 128 128 (bufBytes t 7 1) = none ∧
      rngsBusy t 9 [rTile 0 false, rBuf t 7 1 0 16384 false] = false ∧
      rngsBusy t 9 [rTile 0 false, rBuf t 7 1 0 16384 false, rFirn 2047 1 true] = false ∧
      hull 0 128 128 128 = (0, 16384) ∧ w.dst.toNat + w.mm.toNat < 32 ∧ x.dst.toNat + x.mm.toNat < 2048 := by decide +kernel

/-- An EMPTY register, one of another format, weights from S4 that are misaligned, a row of the other TYPE. -/
theorem witness_MmvEffects_faults :
    let w : MmvWord := ⟨false, false, 0, 3, 7, 0, 0, 2047, 1, true, false, 4, 128, 0, 0⟩
    let t := setT live 0 ⟨1, 1, 3, 7, true⟩
    let c := setFirnRow t 0 2047 ⟨false, false, 1, false, false, 0, 0, 0⟩
    canIssue live .m 1 (.mmv w) [4] = true ∧ (getT live 0).full = false ∧ (getT (setT live 0 ⟨1, 1, 3, 4, true⟩) 0).fmt ≠ w.fmt ∧
      canIssue t .m 1 (.mmv w) [4] = true ∧ r81 16 128 128 128 (bufBytes t 7 1) = some eAlign ∧
      rngsBusy c 9 [rTile 0 false, rBuf c 7 1 0 16384 false, rFirn 2047 1 true] = false ∧ (firnRow c 0 2047).zero = false ∧
      (firnRow c 0 2047).isInt ≠ (w.fmt == 7) := by decide +kernel

/-- No MMA, one whose load the background set holds and one that still takes rows; no ready clause, a ready one whose rows are
free, and one whose buffer is held by an earlier clause. -/
theorem witness_StorePath :
    let w : MmaWord := ⟨true, false, 0, 0, 7, 7, 0, 0, 1, false, false, 0, 128, none⟩
    let j : MmaJob := ⟨7, 4, w, 0, 0, 0, [], 0, 0⟩
    let k := { j with w := { w with src := true }, blk := 1, taken := 127 }
    let mma := fun j => { live with mat := { live.mat with jobs := [j], bgFor := some 4 } }
    let one := { live with mat := { live.mat with stores := [pend] } }
    let two := { live with mat := { live.mat with stores := [{ pend with seq := 2, ready := false }, pend] } }
    swapDue live = none ∧ swapDue (mma j) = some j ∧ swapDue (mma k) = none ∧ swapDue (mma { k with taken := 128 }) ≠ none ∧
      (∀ x ∈ (mma j).mat.jobs.drop 1, x.seq ≠ j.seq) ∧ (∀ q ∈ live.mat.stores, q.ready = false) ∧
      one.mat.stores.find? (·.ready) = some pend ∧ rngsBusy one pend.seq (storeRngs one pend) = false ∧
      two.mat.stores.find? (·.ready) = some pend ∧ rngsBusy two pend.seq (storeRngs two pend) = true := by decide +kernel

/-- A row of the clause, of a run that goes on and of one that has ended; the last row of the buffer. -/
theorem witness_StorePath_row :
    let u := checkReads live ((List.range pend.narr).map fun a => (a, pend.frb + 127)) pend.uid
    runAlive live 7 = true ∧ runAlive { live with seq := { live.seq with insts := [] } } 7 = false ∧ pend.w.dest = false ∧
      findBuf u 7 pend.w.sh.toNat = some ⟨some 7, 1, 65536, [2]⟩ ∧ Pad.wf u.pad = true ∧ 1 ≤ pend.narr ∧ pend.narr ≤ 4 ∧
      (pend.off + (127 : Int) * pend.str).toNat + 128 * pend.narr * tileBits pend.w.ofmt / 8 ≤ 65536 := by decide +kernel

/-- Mask, first member and tag of a route of four clusters; no member; a tile register to send. -/
theorem witness_RingSending :
    let s := setS (setS live 1 0xF) 2 0x70003
    canIssue s .s 1 (.rroute ⟨1, 2, 3, 1⟩) [1, 2] = true ∧ canIssue s .s 1 (.rroute ⟨0, 2, 3, 1⟩) [0, 2] = true ∧
      bvGet (getS s 2) 6 10 = 0 ∧ bvGet (getS s 2) 32 32 = 0 ∧ ((getS s 2).truncate 6 : BitVec 6).toNat < s.rev.n.toNat ∧
      s.feat.grant1.getLsbD 4 = true ∧ getS s 1 &&& (s.rev.ptMap ||| s.rev.zc3) = 0 ∧ getS s 1 ≠ 0 ∧ getS s 0 = 0 ∧
      inst.ringScene = false := by decide +kernel

theorem witness_RingSending_mask : ∀ c, (live.rev.n : BitVec 7).toNat ≤ c → (0xF : BitVec 64).getLsbD c = false := by
  intro c h
  have hn : live.rev.n.toNat = 16 := by decide +kernel
  by_cases hc : c < 64
  · exact (by decide : ∀ c < 64, 16 ≤ c → (0xF : BitVec 64).getLsbD c = false) c hc (hn ▸ h)
  · exact BitVec.getLsbD_of_ge _ _ (by omega)

/-- A route with a member beyond the ring of 16, one of two others without the grant, one that names a fenced cluster. -/
theorem witness_RingSending_faults :
    let s := setS (setS live 1 0x10000) 2 0x70003
    let many := { (setS (setS live 1 0xF) 2 0x70003) with feat := { live.feat with grant1 := 0 } }
    let part := { (setS (setS live 1 0xF) 2 0x70003) with rev := { live.rev with ptMap := 1 } }
    (∀ x ∈ [s, part], canIssue x .s 1 (.rroute ⟨1, 2, 3, 1⟩) [1, 2] = true) ∧ (getS s 1).getLsbD 16 = true ∧ s.rev.n.toNat ≤ 16 ∧
      canRun many run inst .s 1 (.rroute ⟨1, 2, 3, 1⟩) [1, 2] = true ∧
      1 < ((List.range 64).filter fun c => (getS many 1).getLsbD c && decide (c ≠ live.boot.ties.clusterId.toNat)).length ∧
      many.feat.grant1.getLsbD 4 = false ∧ getS part 1 &&& (part.rev.ptMap ||| part.rev.zc3) ≠ 0 := by decide +kernel

theorem witness_RingSending_send :
    let t := setT live 0 ⟨1, 1, 0, 2, true⟩
    canIssue t .d 1 (.rsend 0) [] = true ∧ canIssue live .d 1 (.rsend 0) [] = true ∧ (getT live 0).full = false ∧
      canIssue (setT live 0 ⟨1, 1, 5, 2, true⟩) .d 1 (.rsend 0) [] = true ∧ (getT t 0).full = true ∧ (getT t 0).shape ≠ 5 ∧
      (getT t 0).fmt ≠ 0 ∧ (getT t 0).fmt ≠ 1 ∧ rngsBusy t 9 [rTile 0 false] = false ∧ inst.ending = none := by decide +kernel

/-- A ring scene of clusters 2 and 3. -/
def ringInst : Inst := { inst with ringScene := true, gtag := 7, gmask := 0xC }
def ringRun : Run := { run with route := ⟨0xC, 2, 0, 1⟩ }
def ringLive : State := { live with seq := { live.seq with run := some ringRun, insts := [ringInst] } }

theorem witness_RingReduce :
    let w : RredWord := ⟨0, false, false, 1, 1, 0, 0, 0x8000, false, 256⟩
    canRun ringLive ringRun ringInst .d 1 (.rred w) [] = true ∧ rredFault ringLive ringRun ringInst w = none ∧
      ringLive.rev.red = none ∧ (ranksOf 0xC 2 16 = [2, 3]) ∧ ringInst.ending = none ∧
      rngsBusy ringLive 9 [rBuf ringLive 7 1 0 1024 false, rBuf ringLive 7 1 0x8000 0x8200 true] = false := by decide +kernel

/-- An instance without a group; a length from S4 that is no multiple of 256; no grant; an offset that is no multiple of 64; a
source of 65,536 bytes from offset 64. -/
theorem witness_RingReduce_faults :
    let w : RredWord := ⟨0, false, false, 1, 1, 0, 0, 0x8000, false, 256⟩
    let none_ := { ringLive with feat := { live.feat with grant1 := 0 } }
    canIssue live .d 1 (.rred w) [] = true ∧ inst.ringScene = false ∧
      canRun ringLive ringRun ringInst .d 1 (.rred { w with lr := true, len := 4 }) [4] = true ∧
      rredLen (setS ringLive 4 384) { w with lr := true, len := 4 } % 256 ≠ 0 ∧
      canRun none_ ringRun ringInst .d 1 (.rred w) [] = true ∧ none_.feat.grant1.getLsbD 5 = false ∧
      canRun ringLive ringRun ringInst .d 1 (.rred { w with lr := true, len := 4, soff := 64 }) [4] = true ∧
      canRun ringLive ringRun ringInst .d 1 (.rred { w with soff := 32 }) [] = true ∧ (32 : Nat) % 64 ≠ 0 ∧
      bufBytes ringLive 7 1 < 64 + 16384 * 4 ∧ 16384 % 256 = 0 := by decide +kernel

/-- The hop that is the last one and one that is not, in either direction. -/
theorem witness_RingReduce_hop :
    let r : Red := ⟨7, 9, ⟨1, false, false, 1, 1, 0, 0, 0x8000, false, 384⟩, 384, 3, 1, 0xE, 7, 0, [], 0, 1, 0, 0, [], []⟩
    redHop r r.gotE = (0, 0) ∧ redHop r r.gotW = (1, 0) ∧ (0 + 2 ≠ r.n) ∧ 1 + 2 = r.n ∧ r.w.op = 1 ∧
      ({ r with w := { r.w with op := 0 } }).w.op ≠ 1 := by decide +kernel

/-- A record of rule M: 128 FP32 elements, LR 1, and a protected one of version word 0x100400 with STEP 1. -/
def recM : BitVec 2048 :=
  let put := fun (r : BitVec 2048) (f : Nat × Nat × Nat) => bvPut r (8 * f.1) (8 * f.2.1) f.2.2
  [(4, 1, 1), (5, 1, 1), (8, 4, 128), (0x10, 8, 1), (0x20, 8, 0x10000), (0x28, 8, 0x80000), (0x30, 8, 0x10800),
   (0x38, 8, 0x80800), (0x48, 4, 0), (0x50, 4, 0x3F800000)].foldl put 0

def recProt : BitVec 2048 :=
  let put := fun (r : BitVec 2048) (f : Nat × Nat × Nat) => bvPut r (8 * f.1) (8 * f.2.1) f.2.2
  [(1, 1, 1), (0x18, 8, 0x100400), (0x20, 8, 0x100000), (0x28, 8, 0x101000), (0x30, 8, 0x102000), (0x38, 8, 0x103000)].foldl put recM

/-- `live` with the bytes of a record at the end of buffer 1, by their offsets. -/
def withRec (l : List (Nat × Byte)) : State :=
  { live with pad := ⟨l.map fun c => (196352 + c.1, c.2), bvSet 0 191 true, []⟩ }

def bytesM : List (Nat × Byte) :=
  [(4, 1), (5, 1), (8, 128), (0x10, 1), (0x22, 1), (0x2A, 8), (0x31, 8), (0x32, 1), (0x39, 8), (0x3A, 8), (0x52, 0x80), (0x53, 0x3F)]

def bytesProt : List (Nat × Byte) :=
  [(1, 1), (4, 1), (5, 1), (8, 128), (0x10, 1), (0x19, 4), (0x1A, 0x10), (0x22, 0x10), (0x29, 0x10), (0x2A, 0x10), (0x31, 0x20),
   (0x32, 0x10), (0x39, 0x30), (0x3A, 0x10), (0x52, 0x80), (0x53, 0x3F)]

def updOf (r : BitVec 2048) : Upd :=
  ⟨7, 9, 19, 1, r, 0, if bvGet r 8 1 == 1 then .version else .reads, false, false, 0, 0, [], [], [], false, false, false, none⟩

theorem witness_UpdateIssue :
    ∀ x ∈ [(recM, bytesM), (recProt, bytesProt)], let r := x.1
      let s := withRec x.2
      canIssue s .d 1 (.upd ⟨1, false, 65280, 19⟩) [19] = true ∧ (65280 : Nat) % 64 = 0 ∧ 65280 + 256 ≤ bufBytes s 7 1 ∧
        rngsBusy s 9 [rBuf s 7 1 65280 65536 false] = false ∧ updFault s run inst r = none ∧
        s.upd.cur = none ∧ s.upd.record.length < 16 ∧ rngsBusy s 9 (updRngs s (updOf r)) = false ∧ inst.ending = none := by
  decide +kernel

theorem witness_UpdateIssue_record : ∀ x ∈ [(recM, bytesM), (recProt, bytesProt)],
    BitVec.ofNat 2048 (leNat (bufRead (withRec x.2) 7 1 65280 256)) = x.1 := by decide +kernel

/-- An offset in S4 that is misaligned, and one whose record would end beyond the buffer; a record whose rule is not granted, one
with an undefined source of its gradient, a misaligned tensor, a gradient beyond its buffer, a tensor outside the sets, and the
17th protected update; an earlier computation. -/
theorem witness_UpdateIssue_faults :
    canIssue live .d 1 (.upd ⟨1, true, 4, 19⟩) [4, 19] = true ∧ offVal (setS live 4 32) true 4 % 64 ≠ 0 ∧
      (bufBytes live 7 1 : Int) < offVal (setS live 4 65344) true 4 + 256 ∧
      updFault { live with feat := { live.feat with grant1 := 0 } } run inst recM = some eFeature ∧
      updFault live run inst (bvPut recM 32 8 2) = some eBadval ∧ updFault live run inst (bvPut recM (8 * 0x20) 8 4) = some eAlign ∧
      updFault live run inst (bvPut recM (8 * 0x48) 32 65536) = some eBufsize ∧
      updFault live run inst (bvPut recM (8 * 0x30) 57 0x200000) = some eOutset ∧
      updFault live { run with nProt := 16 } inst recProt = some eUpdlimit ∧
      canIssue { live with upd := { live.upd with cur := some { updOf recM with seq := 3, uid := 6 } } } .d 1
        (.upd ⟨1, false, 65280, 19⟩) [19] = true := by decide +kernel

theorem witness_UpdateIssue_checks :
    updFieldsOk recM = true ∧ updAlignOk recM = true ∧ updBufOk live 7 recM = true ∧ updSetsOk scene.sets recM = true ∧
      (∀ x ∈ updNeeds recM, ctxGranted (runCtx live inst) x = true) ∧ updFieldsOk (bvPut recM 32 8 2) = false ∧
      updAlignOk (bvPut recM (8 * 0x20) 8 4) = false ∧ updBufOk live 7 (bvPut recM (8 * 0x48) 32 65536) = false ∧
      updSetsOk scene.sets (bvPut recM (8 * 0x30) 57 0x200000) = false := by decide +kernel

/-- An update that is ready, with a gradient of zeros, and one that waits for its gradient. -/
theorem witness_UpdateResults :
    let u := { updOf recM with phase := .ready }
    let s := { live with upd := { live.upd with cur := some u } }
    updGrad s u = List.replicate 128 0 ∧ (updOf recM).phase = .reads ∧
      ({ updOf recM with phase := .gradient, grad := [0] }).grad ≠ [] := by decide +kernel

/-- A gradient that begins with an infinity, from the buffer and from the ring. -/
theorem witness_UpdateResults_skip :
    let v := { updOf (bvPut recProt 9 1 1) with phase := .ready }
    let z := { (bufWrite live 7 1 0 [0, 0, 0x80, 0x7F]) with upd := { live.upd with cur := some v } }
    updGrad z v = 0x7F800000 :: List.replicate 127 0 ∧ fpIsFinite .fp32 0x7F800000 = false ∧ fpIsFinite .fp32 0 = true ∧
      bvGet v.recd 9 1 = 1 ∧ byteField v.recd 4 1 = 1 ∧ byteField (bvPut v.recd 32 8 0) 4 1 ≠ 1 ∧ bvGet recProt 9 1 = 0 := by
  decide +kernel

/-- A record of rule A, of rule F with 2 rows of 64 columns, and matrices of rule P. -/
theorem witness_UpdateResults_rules :
    let f := bvPut (bvPut recM 0 8 2) (8 * 0x0C) 32 64
    byteField (bvPut recM 0 8 1) 0 1 = 1 ∧ bvGet (bvPut recM 0 8 1) 12 1 = 0 ∧ 0 < updC f ∧ updN f = 2 * updC f ∧
      (List.replicate 128 0).length = updN f ∧
      (∀ m ∈ [List.replicate 4 (List.replicate 4 0)], m.length = 4 ∧ ∀ l ∈ m, l.length = 4) ∧
      (∀ op < 8, (op + 16) % 16 = op) := by decide +kernel

/-- A version word with the same STEP, a smaller one, a greater one, and a reserved bit. -/
theorem witness_UpdateResults_version :
    let u := updOf recProt
    u.phase = .version ∧ bvGet (1 : DWord) 0 48 = byteField u.recd 0x10 8 ∧ bvGet (0 : DWord) 0 48 < byteField u.recd 0x10 8 ∧
      byteField u.recd 0x10 8 < bvGet (2 : DWord) 0 48 ∧ bvGet (0x4000000000001 : DWord) 50 14 ≠ 0 ∧
      bvGet (0x3000000000001 : DWord) 50 14 = 0 := by decide +kernel

/-- A commit of a draining scene without writes; the second of two waits. -/
theorem witness_UpdateResults_commit :
    let c : Commit := ⟨7, 9, 0, 0x100400, 1, 1, false⟩
    let drain := { live with seq := { live.seq with insts := [{ inst with st := .draining }] } }
    let s := fun l => { drain with upd := { drain.upd with commits := l } }
    commitReady (s []) = none ∧ commitReady (s [c]) = some c ∧ commitReady (s [{ c with seq := 10 }, c]) = some { c with seq := 10 } := by
  decide +kernel


/-! ## Streams -/

/-- A descriptor of eight fields. -/
def imgOf (l : List Nat) : BitVec 512 := (l.zipIdx).foldl (fun r f => bvPut r (64 * f.2) 57 f.1) 0

/-- A dense read of one row of 256 bytes from 0x10000 into buffer 1. -/
def imgRead : BitVec 512 := imgOf [0x4080, 0x10000, 0, 256, 0x100000100, 0x1000001, 0x100010001]

/-- The same as a write to 0x80000. -/
def imgWrite : BitVec 512 := bvPut (bvPut imgRead 0 2 1) 64 57 0x80000

/-- Two batches of 64 rows of 128 bytes, tiles of 32 rows of 64 bytes in groups of 2 by 2, in place and transposed by pairs. -/
def imgDense : BitVec 512 := imgOf [0x4080, 0x10000, 0, 128, 64 * 2 ^ 24 + 128, 32 * 2 ^ 24 + 64, 0x200020002, 8192]
def imgXp : BitVec 512 := bvPut imgDense 2 3 3

/-- A gather of two rows of 128 bytes with indices at 0x8000 of buffer 1, and the same through the sorter. -/
def imgGather : BitVec 512 := imgOf [0x4082, 0x10000, 2 ^ 25 + 2 ^ 46, 256, 128 * 2 ^ 24 + 128, 2 ^ 24 + 2, 4]
def imgSort : BitVec 512 := bvPut imgGather 5 1 1

def stream (img : BitVec 512) : Stream := ⟨4, 7, 3, 1, 5, img, 0, [], [], [], [], [], [], [], none, false, false, none⟩

/-- `live` with streams open, the pages of its sets in the TLB. -/
def open_ (l : List Stream) : State :=
  { live with strm := { live.strm with streams := l, rootEn := true, tlb := [⟨0, 21, 0x40000000, true⟩] } }

/-- Patches of one field from S4, and its value. -/
def patchOne (f : BitVec 3) : Patches := ⟨⟨true, f, 4⟩, noPatch, noPatch, noPatch⟩

theorem witness_StreamOpen :
    canIssue live .d 5 (.dstr 47 noPatches imgRead) [] = true ∧ slotStream live 7 47 = none ∧
      canIssue (open_ [stream imgRead]) .d 5 (.dstr 3 noPatches imgRead) [] = true ∧
      slotStream (open_ [stream imgRead]) 7 3 = some (stream imgRead) ∧ streamComplete (open_ [stream imgRead]) (stream imgRead) = false ∧
      streamComplete live { stream imgRead with next := 4 } = true := by decide +kernel

theorem witness_StreamOpen_checks : ([imgRead, imgWrite, imgDense, imgXp, imgGather, imgSort].all fun img =>
    openCheck live inst (patched live noPatches img) == none) = true := by decide +kernel

theorem witness_StreamOpen_regs : patchRegs ⟨⟨true, 1, 4⟩, ⟨true, 1, 5⟩, noPatch, ⟨true, 7, 6⟩⟩ = [4, 5, 6] := by decide +kernel

/-- KIND 3; the sorter without its grant; a misaligned base; BOFF at the end of the buffer; a base outside the sets: each from a
patched field. -/
theorem witness_StreamOpen_faults :
    let at_ := fun v => setS live 4 v
    let off := { (at_ 0x40A2) with feat := { live.feat with grant1 := 0 } }
    let img := fun s f x => patched s (patchOne f) x
    (∀ x ∈ [(at_ 0x4083, (0 : BitVec 3), imgRead), (off, 0, imgGather), (at_ 0x10001, 1, imgRead), (at_ 65536, 2, imgRead),
        (at_ 0x300000, 1, imgRead)], canIssue x.1 .d 5 (.dstr 47 (patchOne x.2.1) x.2.2) [4] = true) ∧
      imageOk (img (at_ 0x4083) 0 imgRead) = false ∧ imageOk (img off 0 imgGather) = true ∧
      (imageNeeds (img off 0 imgGather)).all (ctxGranted (runCtx off inst)) = false ∧
      imageAligned (img (at_ 0x10001) 1 imgRead) = false ∧ imageNeeds imgRead = [] ∧
      (descOf (img (at_ 65536) 2 imgRead)).boff = 65536 ∧ descLen (descOf imgRead) = 256 ∧ ctxSize (runCtx live inst) 1 = some 65536 ∧
      openCheck (at_ 0x300000) inst (img (at_ 0x300000) 1 imgRead) = some eOutset := by decide +kernel

/-- Each patch alone, and none, for field 1. -/
theorem witness_StreamOpen_patched :
    let p : Patches := ⟨⟨true, 1, 4⟩, ⟨true, 2, 5⟩, ⟨true, 3, 6⟩, ⟨true, 4, 7⟩⟩
    p.pt0.idx.toNat = 1 ∧ p.pt1.idx.toNat = 2 ∧ p.pt2.idx.toNat = 3 ∧ p.pt3.idx.toNat = 4 ∧ noPatches.pt0.en = false := by decide

/-- The last unit of the last tile of the last batch; an element of the last transposed tile; both rows of the gather. -/
theorem witness_StreamOpen_geometry :
    let d := descOf imgDense
    let x := descOf imgXp
    let g := descOf imgGather
    d.kind ≠ 2 ∧ imageOk imgDense = true ∧ imageAligned imgDense = true ∧ d.nb = 2 ∧ d.rows / d.tr / d.sr * (d.cols / d.tc / d.sc) = 1 ∧
      d.sr * d.sc = 4 ∧ d.tr = 32 ∧ d.tc = 64 ∧ d.xp = false ∧ d.cvt = false ∧
      x.xp = true ∧ imageOk imgXp = true ∧ imageAligned imgXp = true ∧ 7 * (x.tr * x.tc) < lenG x ∧ x.tc / 2 ^ x.esz = 32 ∧
      2 ^ x.esz = 2 ∧ g.kind = 2 ∧ imageOk imgGather = true ∧ imageAligned imgGather = true ∧ g.rows = 2 ∧ g.cols = 128 := by
  decide +kernel

/-- A Cue in the stream and one at its length, immediate and from a register; no stream, a write stream, four Cues. -/
theorem witness_CuesAndWaits :
    let st := stream imgRead
    let s := open_ [st]
    let four := { st with cues := List.replicate 4 ⟨64, 6⟩ }
    canIssue s .d 1 (.cue 3 false 192) [] = true ∧ canIssue s .d 1 (.cue 3 true 5) [5] = true ∧
      canIssue (open_ [four]) .d 1 (.cue 3 false 192) [] = true ∧ canIssue s .d 1 (.cue 3 false 256) [] = true ∧
      canIssue live .d 1 (.cue 3 false 192) [] = true ∧ canIssue live .d 1 (.waitq 3 7) [] = true ∧ slotStream live 7 3 = none ∧
      canIssue s .d 1 (.waitq 3 7) [] = true ∧ slotStream s 7 3 = some st ∧ slotStream (open_ [four]) 7 3 = some four ∧
      streamComplete s st = false ∧ streamComplete s { st with next := 4 } = true ∧
      canIssue (open_ [{ st with next := 4 }]) .d 1 (.waitq 3 7) [] = true ∧ descReads (descOf st.image) = true ∧
      descReads (descOf imgWrite) = false ∧ descLen (descOf st.image) = 256 := by decide +kernel

/-- `live` with a WAITQ on slot 3 queued at place 4, holding every queue. -/
def waitE : Queued := ⟨.waitq 3 7, .d, 7, 4, 16, 1, [], ⟨0, 0, 0, 0⟩⟩
def waiting (now : Option Queued) (l : List Stream) : State :=
  { (open_ l) with seq := { live.seq with queue := [waitE], issuing := now } }

/-- The WAITQ at its turn, on a stream that is not complete and on one that is. -/
theorem witness_CuesAndWaits_held :
    let st := stream imgRead
    (waiting none [st]).seq.run = some run ∧ findInst (waiting none [st]) 7 = some inst ∧ waitE ∈ (waiting none [st]).seq.queue ∧
      (∀ k < 3, (7 : BitVec 3).getLsbD k = true) ∧ issueReady (waiting (some waitE) [st]) waitE = true ∧
      issueReady (waiting (some waitE) [{ st with next := 4 }]) waitE = true ∧
      slotStream (waiting (some waitE) [st]) 7 3 = some st ∧ streamComplete (waiting (some waitE) [st]) st = false ∧
      streamComplete (waiting (some waitE) [st]) { st with next := 4 } = true := by decide +kernel

/-- A Cue in the next unit of a stream and in the last byte of a transposed tile; a granule at a Cue's position. -/
theorem witness_CuesAndWaits_holds :
    nextUnit (stream imgRead) = some 0 ∧ (63 : Nat) < 64 * (0 + 1) ∧ nextUnit (stream imgXp) = some 0 ∧
      (2047 : Nat) < (64 * 0 / (32 * 64) + 1) * (32 * 64) ∧ (descOf imgXp).tr = 32 ∧ (descOf imgXp).tc = 64 ∧
      (⟨63, 8⟩ : Cue) ∈ ({ stream imgRead with cues := [⟨63, 8⟩] }).cues := by decide +kernel

/-- A Cue whose earlier work is complete, one with an earlier store clause, no Cue. -/
theorem witness_CuesAndWaits_satisfied :
    let st := { stream imgRead with cues := [⟨64, 8⟩, ⟨128, 9⟩] }
    let s := open_ [st]
    s.strm.streams.find? (fun st => st.phys == (1 : BitVec 6).toNat && !st.cues.isEmpty) = some st ∧
      workDone s 7 8 (some 4) = true ∧ workDone { s with mat := { s.mat with stores := [pend] } } 7 8 (some 4) = false ∧
      (∀ x ∈ (open_ [stream imgRead]).strm.streams, x.cues = []) := by
  decide +kernel

/-- No stream; the next unit of a read, four units of one request, and of a write. -/
theorem witness_StreamRequests :
    let rd := stream imgRead
    let wr := stream imgWrite
    let s := open_ [rd]
    let t := open_ [wr]
    readyStream s 1 true = some rd ∧ readyStream s 1 false = none ∧ readyStream s 2 true = none ∧ nextUnit rd = some 0 ∧
      cueHolds rd 0 = false ∧ (descOf rd.image).kind ≠ 2 ∧ (descOf rd.image).sort = false ∧ unitAddr s rd 0 = some 0x10000 ∧
      xlLookup s 0x10000 false = .hit 0x40010000 ∧ tagOk s rd = true ∧ runLen s rd 0 0x10000 3 = 4 ∧
      lowestFree (s.strm.reqs.map (·.tag) ++ s.strm.landed.map (·.req.tag) ++ s.strm.orphans) 0 4096 = some 0 ∧
      readyStream t 1 false = some wr ∧ nextUnit wr = some 0 ∧ xlLookup t 0x80000 true = .hit 0x40080000 ∧
      (denseAddr (descOf imgWrite) 0).toNat = 0x80000 ∧ (findBuf t 7 1).isSome = true ∧ t.chk.marks = [] ∧
      rngsBusy t wr.seq (rGlob (descExtent (descOf imgWrite)).1 (descExtent (descOf imgWrite)).2 true ::
        unitsRngs t wr 0 (runLen t wr 0 0x80000 3) false) = false := by decide +kernel

/-- `live` whose gather has an index at ILIM in its first row. -/
def gatherLive : State :=
  { (open_ [stream imgGather]) with pad := ⟨[(163840, 4)], bvSet 0 160 true, []⟩ }

/-- The row of zeros, whose granules an earlier store clause holds or nothing holds. -/
theorem witness_StreamRequests_zero :
    let st := stream imgGather
    let s := gatherLive
    let held := { s with mat := { s.mat with stores := [{ pend with seq := 2 }] } }
    s.chk.marks = [] ∧ nextUnit st = some 0 ∧ st.refetch = [] ∧ cueHolds st 0 = false ∧ (descOf st.image).kind = 2 ∧
      rngsBusy s st.seq (indexRngs s st 0) = false ∧ rngsBusy s st.seq (unitsRngs s st 0 (rowUnits (descOf st.image)) true) = false ∧
      findBuf s 7 1 = some ⟨some 7, 1, 65536, [2]⟩ ∧
      rngsBusy held st.seq (unitsRngs held st 0 (rowUnits (descOf st.image)) true) = true ∧
      Pad.wf s.pad = true := by decide +kernel

theorem witness_StreamRequests_zero_index : unitAddr gatherLive (stream imgGather) 0 = none := by decide +kernel

/-- A write of one byte at the end of a block and of a whole block; a TLB hit with and without the write permission, and a
miss; the first walker tag. -/
theorem witness_StreamRequests_paths :
    let s := open_ []
    let ro := { s with strm := { s.strm with tlb := [⟨0, 21, 0x40000000, false⟩] } }
    0x400000FF % 256 + ([7] : List Byte).length ≤ 256 ∧ 0x40000000 % 256 + (List.replicate 256 (1 : Byte)).length ≤ 256 ∧
      s.strm.tlb.find? (fun e => decide (e.va ≤ 0x1FFFFF ∧ 0x1FFFFF < e.va + 2 ^ e.bits)) = some ⟨0, 21, 0x40000000, true⟩ ∧
      (∀ e ∈ s.strm.tlb, ¬ (e.va ≤ 0x200000 ∧ 0x200000 < e.va + 2 ^ e.bits)) ∧ s.strm.rootEn = true ∧ live.strm.rootEn = false ∧
      ro.strm.tlb.find? (fun e => decide (e.va ≤ 0 ∧ 0 < e.va + 2 ^ e.bits)) = some ⟨0, 21, 0x40000000, false⟩ ∧
      lowestFree (s.strm.reqs.map (·.tag) ++ s.strm.landed.map (·.req.tag) ++ s.strm.orphans) 4160 16 = some 4160 ∧
      findInst s (stream imgRead).uid = some inst := by decide +kernel

/-- A request in the sorter, free and held by a Cue. -/
theorem witness_StreamRequests_sorter :
    let st := stream imgSort
    let e : SortEntry := ⟨4, 0, 2, 0x40010000⟩
    let s := { (open_ [st]) with strm := { (open_ [st]).strm with sorter := [e, e] } }
    s.strm.streams.find? (fun st => st.id == e.id) = some st ∧ sortHeld st e = false ∧ tagOk s st = true ∧
      sortHeld { st with cues := [⟨64, 8⟩] } e = true ∧
      lowestFree (s.strm.reqs.map (·.tag) ++ s.strm.landed.map (·.req.tag) ++ s.strm.orphans) 0 4096 = some 0 := by decide +kernel

/-! ## Asides, synchronization, answers -/

/-- An Aside entry of the run, tag 63, and `live` with entries open and the TLB filled; every tag
held by an orphan. -/
def asideOf (k : AsideKind) (len : Nat) (sd : Option (BitVec 5)) : Aside :=
  ⟨63, 7, 3, k, 0x10040, 1, 0, len, 5, 6, sd, none, false, true, false, false, none⟩
def withAside (a : Aside) : State := { (open_ []) with strm := { (open_ []).strm with asides := [a] } }
def allAsides : State := { live with strm := { live.strm with orphans := (List.range 64).map (4096 + ·) } }

/-- An Aside read of 8 bytes and a write of 248. -/
def asideRd : BitVec 128 := BitVec.ofNat 128 (0x10000 + 2 ^ 58 + 2 ^ 64)
def asideWr : BitVec 128 := BitVec.ofNat 128 (0x80000 + 2 ^ 57 + 31 * 2 ^ 58 + 2 ^ 64)

/-- Every tag held, one free; the ranges of the transfer free, and held by an earlier store clause; a pending ACQ on the range. -/
theorem witness_AsidePath_aside :
    let held := { live with mat := { live.mat with stores := [pend] } }
    let acq := withAside (asideOf (.acq 0 0x10000 64) 8 (some 4))
    canIssue live .d 2 (.aside noPatches asideRd) [] = true ∧ canIssue live .d 2 (.aside noPatches asideWr) [] = true ∧
      canIssue allAsides .d 2 (.aside noPatches asideRd) [] = true ∧ canIssue held .d 2 (.aside noPatches asideRd) [] = true ∧
      canIssue acq .d 2 (.aside noPatches asideRd) [] = true ∧
      asideCheck live inst asideRd = none ∧ asideCheck live inst asideWr = none ∧ asideFields asideWr = (0x80000, true, 248, 1, 0) ∧
      rngsBusy live 9 [rBuf live 7 1 0 248 false, rGlob 0x80000 0x800F8 true] = false ∧
      rngsBusy live 9 [rBuf live 7 1 0 8 true, rGlob 0x10000 0x10008 false] = false ∧
      rngsBusy held 9 [rBuf held 7 1 0 8 true, rGlob 0x10000 0x10008 false] = true ∧
      rngsBusy acq 9 [rBuf acq 7 1 0 8 true, rGlob 0x10000 0x10008 false] = false ∧
      acqMeets acq 7 0x10000 0x10008 = true ∧ acqMeets live 7 0x10000 0x10008 = false ∧
      asideTag live = some 0 ∧ asideTag allAsides = none := by decide +kernel

/-- LEN 0; no grant; an address, BOFF and a block that are misaligned; an end beyond the buffer; an address outside the sets. -/
theorem witness_AsidePath_aside_faults :
    let at_ := fun v => setS live 4 v
    let off := { (at_ (0x10000 + 2 ^ 58)) with feat := { live.feat with grant1 := 0 } }
    let img := fun s f => patched s (patchOne f) asideRd
    (canIssue (at_ 0x10000) .d 2 (.aside (patchOne 0) asideRd) [4] && canIssue (at_ (65536 * 64 + 1)) .d 2 (.aside (patchOne 1) asideRd) [4]
      && canIssue off .d 2 (.aside (patchOne 0) asideRd) [4]) = true ∧
      asideOk (img (at_ 0x10000) 0) = false ∧ asideOk (img off 0) = true ∧ off.feat.grant1.getLsbD 0 = false ∧
      live.feat.grant1.getLsbD 0 = true ∧ asideOk (img (at_ (0x10004 + 2 ^ 58)) 0) = true ∧
      (asideFields (img (at_ (0x10004 + 2 ^ 58)) 0)).1 % 8 ≠ 0 ∧ asideOk (img (at_ (65536 * 64 + 1)) 1) = true ∧
      asideFields (img (at_ (65536 * 64 + 1)) 1) = (0x10000, false, 8, 1, 65536) ∧ ctxSize (runCtx live inst) 1 = some 65536 ∧
      asideCheck (at_ (0x300000 + 2 ^ 58)) inst (img (at_ (0x300000 + 2 ^ 58)) 0) = some eOutset := by decide +kernel

/-- The last aligned address of 57 bits; an empty range, and one that ends at 2^57; the least and the greatest count of
a CLAIM; every tag held; no free place for a lease, in the first run and where the log has the result. -/
theorem witness_AsidePath_sync :
    let regs := fun s => setS (setS (setS s 1 0x1FFFFFFFFFFFFF8) 5 0x1FFFFFFFFFFFFC0) 6 64
    let s := regs live
    let z := { s with seq := { s.seq with s := s.seq.s.set 8 0x1FFFFFFFFFFFFF0 |>.set 9 1 |>.set 10 0xFFFF } }
    let l : Lease := ⟨0, 7, 0, 0, 0, 0, 1, 0, 0, false, false⟩
    let lim := { z with strm := { z.strm with leases := List.replicate 64 l } }
    ((List.range 4).all fun k => canIssue s .d 1 (.acq ⟨1, 2, BitVec.ofNat 2 k, 4, 5, 6⟩) [1, 2, 5, 6, 4]) = true ∧
      canIssue (regs allAsides) .d 1 (.acq ⟨1, 2, 1, 4, 5, 6⟩) [1, 2, 5, 6, 4] = true ∧
      canIssue s .d 1 (.rel ⟨1, 2, true, 4⟩) [1, 2, 4] = true ∧ canIssue s .d 1 (.rel ⟨1, 2, false, 0⟩) [1, 2] = true ∧
      ((List.range 11).all fun k => k == 9 || canIssue s .d 1 (.atom ⟨1, 2, 0, 4, BitVec.ofNat 4 k, true, true⟩) [1, 2, 4]) = true ∧
      canIssue s .d 1 (.atom ⟨1, 2, 3, 4, 9, false, false⟩) [1, 2, 4, 3] = true ∧
      canIssue z .d 1 (.claim ⟨8, 2, 9, 4, 1⟩) [8, 2, 9, 4] = true ∧ canIssue lim .d 1 (.claim ⟨8, 2, 9, 4, 1⟩) [8, 2, 9, 4] = true ∧
      (getS s 1).toNat < 2 ^ 57 ∧ (getS s 1).toNat % 8 = 0 ∧ (getS s 5).toNat + (getS s 6).toNat = 2 ^ 57 ∧
      (getS s 5).toNat % 64 = 0 ∧ (getS live 6).toNat = 0 ∧ asideTag (regs allAsides) = none ∧
      (getS z 8).toNat % 16 = 0 ∧ (getS z 9).toNat % 2 ^ 16 ≠ 0 ∧ (getS z 10).toNat % 2 ^ 16 = 65535 ∧
      leaseLoad (alogMiss z inst) < 64 ∧ 64 ≤ leaseLoad (alogMiss lim inst) ∧
      alogMatch inst 0x1FFFFFFFFFFFFF0 (alogOp (.claim 1)) 0 1 = none ∧ asideTag z = some 0 := by decide +kernel

/-- The first address beyond 57 bits, a misaligned one, a range that ends beyond, a misaligned range, a count of 0. -/
theorem witness_AsidePath_sync_faults :
    let s := setS (setS (setS (setS live 1 (2 ^ 57)) 3 0x10004) 5 0x1FFFFFFFFFFFFC0) 6 128
    (canIssue s .d 1 (.acq ⟨1, 2, 1, 4, 7, 7⟩) [1, 2, 7, 7, 4] && canIssue s .d 1 (.acq ⟨3, 2, 1, 4, 7, 7⟩) [3, 2, 7, 7, 4]
      && canIssue s .d 1 (.acq ⟨2, 2, 1, 4, 5, 6⟩) [2, 2, 5, 6, 4] && canIssue s .d 1 (.rel ⟨1, 2, false, 0⟩) [1, 2]
      && canIssue s .d 1 (.rel ⟨3, 2, true, 4⟩) [3, 2, 4] && canIssue s .d 1 (.atom ⟨1, 2, 0, 4, 0, true, false⟩) [1, 2, 4]
      && canIssue s .d 1 (.atom ⟨3, 2, 0, 4, 0, true, false⟩) [3, 2, 4] && canIssue s .d 1 (.claim ⟨2, 2, 2, 4, 1⟩) [2, 2, 2, 4]
      && canIssue s .d 1 (.claim ⟨3, 2, 3, 4, 1⟩) [3, 2, 3, 4]) = true ∧
      (getS s 1).toNat = 2 ^ 57 ∧ (getS s 3).toNat % 8 = 4 ∧ (getS s 3).toNat % 2 ^ 16 ≠ 0 ∧ (getS s 2).toNat = 0 ∧
      2 ^ 57 < (getS s 5).toNat + (getS s 6).toNat := by decide +kernel

/-- A REL that waits for an earlier write, and one that does not. -/
theorem witness_AsidePath_release :
    let a := { asideOf (.rel false) 8 none with seq := 8, rls := true }
    writesDone (withAside a) 7 8 = true ∧ writesDone (withAside (asideOf .write 8 none)) 7 8 = false ∧ a.rls = true := by
  decide +kernel

/-- A replay whose next entry matches, and one whose does not. -/
theorem witness_AsidePath_log :
    let e : AlogEntry := ⟨0, 0x100, alogOp (.atom 8 true), 5, 0, 77, none⟩
    let i := { inst with alog := [e], alogReplay := true }
    i.alog[i.alogPos]? = some e ∧ e.opsA ≠ 6 ∧ inst.alogReplay = false ∧ findInst live inst.uid = some inst ∧
      i.alog.drop i.alogPos = [e] := by decide +kernel

/-- Every kind of entry, translated by the TLB; a cached line; a page without W, and no translation at all. -/
theorem witness_AsideRequests :
    let kinds : List AsideKind := [.read, .write, .atom 9 true, .claim 5, .acq 1 0x10000 64, .rel true, .rel false]
    let a := asideOf .read 16 none
    let c := { (withAside a) with strm := { (withAside a).strm with dcache := [(0x40010040, 0x10040, 7)] } }
    let ro := { (withAside a) with strm := { (withAside a).strm with tlb := [⟨0, 21, 0x40000000, false⟩] } }
    (kinds.all fun k => xlLookup (withAside (asideOf k 8 none)) 0x10040 (asideWrites k) == .hit 0x40010040) = true ∧
      ((withAside a).strm.asides.find? fun x => x.tag == a.tag) = some a ∧ (withAside a).chk.marks = [] ∧
      cachedBytes (withAside a) 0x40010040 16 = none ∧ (cachedBytes c 0x40010040 16).isSome = true ∧
      xlLookup c 0x10040 false = .hit 0x40010040 ∧ (findBuf c 7 1).isSome = true ∧ 0 + 16 ≤ 65536 ∧
      asideWrites .write = true ∧ xlLookup ro 0x10040 true = .fault 1 1 ∧ xlLookup live 0x10040 false = .fault 4 3 := by
  decide +kernel

/-- The first line that the sequencer needs, the last, and one beyond; an ACQ that waits; lines that hit, walk and fault. -/
theorem witness_AsideRequests_fill :
    let s := open_ []
    let a := { asideOf (.acq 0 0 0) 8 (some 4) with waiting := true }
    (s.seq.modl.bind fun m => m.scenes[inst.scene]?) = some scene ∧ s.seq.run = some run ∧ findInst s run.uid = some inst ∧
      (scene.codeOffset + run.pc) / 64 ≤ 0 ∧ (1 : Nat) ≤ (scene.codeOffset + run.pc + 79) / 64 ∧
      ¬ (2 : Nat) ≤ (scene.codeOffset + run.pc + 79) / 64 ∧ s.seq.icache = [] ∧ s.strm.walks = [] ∧ s.strm.reqs = [] ∧
      xlLookup s 64 false = .hit 0x40000040 ∧ xlLookup live 64 false = .fault 4 3 ∧
      xlLookup { live with strm := { live.strm with rootEn := true } } 64 false = .walk ∧
      (startWalk { live with strm := { live.strm with rootEn := true } } 64 false (.fill 64) (some 7)).isSome = true ∧
      lowestFree (s.strm.reqs.map (·.tag) ++ s.strm.landed.map (·.req.tag) ++ s.strm.orphans) 4176 16 = some 4176 ∧
      ((withAside a).strm.asides.find? fun a => a.tag == (63 : BitVec 6).toNat && a.waiting && runAlive (withAside a) a.uid)
        = some a := by decide +kernel

def reqOf (o : Owner) : Req := ⟨4096, 0, 0x40010000, 3, 0, false, 5, 0, 0, 0, 0, [], some 7, o⟩

/-- An answer to a request in flight, one to an orphan, and a stray one. -/
theorem witness_FabricAnswers :
    let a := asideOf (.claim 5) 16 (some 4)
    let q := reqOf (.aside 63)
    let s := { (withAside a) with strm := { (withAside a).strm with reqs := [q], orphans := [8191] } }
    (8191 ∈ s.strm.orphans) ∧ (4096 ∉ s.strm.orphans) ∧ (s.strm.reqs.find? fun q => q.tag == 4096) = some q ∧
      (∀ q ∈ s.strm.reqs, q.tag ≠ 0) ∧ s.seq.run = some run ∧ run.uid = a.uid ∧
      (s.strm.asides.find? fun x => x.tag == a.tag) = some a ∧
      (findBuf s 7 1) = some ⟨some 7, 1, 65536, [2]⟩ ∧ bvGet (0 : BitVec 2048) 48 2 = 0 ∧
      bvGet (BitVec.ofNat 2048 (2 ^ 49)) 48 2 ≠ 0 ∧ laneGet (BitVec.ofNat 2048 5) 0x40010000 8 = a.fv.toNat := by decide +kernel

/-- Reads in place whose granules are free, and held by an earlier store clause; a write; a transposed read. -/
theorem witness_FabricAnswers_stream :
    let st := { stream imgRead with next := 4 }
    let s := open_ [st]
    let held := { s with mat := { s.mat with stores := [pend] } }
    let gs := granRngs s st (gransUnder (descOf st.image) [0, 1, 2, 3]) true
    (landUnits [0] 4 [] 0x40010000 0).map (·.1) = [0, 1, 2, 3] ∧ rngsBusy s st.seq gs = false ∧ rngsBusy held st.seq gs = true ∧
      descReads (descOf imgWrite) = false ∧ descReads (descOf imgRead) = true ∧ (descOf imgRead).xp = false ∧
      (descOf imgXp).xp = true ∧ descReads (descOf imgXp) = true ∧ (s.strm.streams.find? fun x => x.id == st.id) = some st ∧
      (descOf imgRead).boff + 64 * (0 + 4) ≤ 65536 := by decide +kernel

/-- A transposed granule of which every unit has come, the same already written, and one of which none has. -/
theorem witness_FabricAnswers_granule :
    let d := descOf imgXp
    let st := { stream imgXp with next := 32, stage := (granUnits d 0).map fun u => (u, 0) }
    let s := open_ [st]
    granUnits d 0 ≠ [] ∧ (∀ u ∈ granUnits d 0, (kGet st.stage u).isSome = true) ∧ kGet (stream imgXp).stage ((granUnits d 0).headD 0) = none ∧
      rngsBusy s st.seq (granRngs s st [0] true) = false ∧ d.boff + 64 * (0 + 1) ≤ 65536 ∧
      (0 ∈ ({ st with wrote := [0] } : Stream).wrote) := by decide +kernel

/-- Entries of every shape, at levels 0, 1 and 2. -/
theorem witness_FabricAnswers_entry :
    (6 : Nat) % 2 = 0 ∧ (9 : Nat) / 8 % 32 ≠ 0 ∧ (3 : Nat) / 8 % 32 = 0 ∧ (3 : Nat) / 2 % 2 = 1 ∧ (3 + 2 ^ 16 : Nat) / 2 ^ 8 % 2 ^ 44 * 256 % 2 ^ 21 ≠ 0 ∧
      (7 : Nat) / 4 % 2 = 1 ∧ (3 : Nat) / 4 % 2 = 0 ∧ (1 : Nat) / 2 % 2 = 0 ∧ (1 + 2 ^ 8 : Nat) / 2 ^ 8 % 2 ^ 44 * 256 % 4096 ≠ 0 ∧
      walkEntry true 1 true 0x10040 (7 + 2 ^ 30) = .leaf (2 ^ 30 + 0x10040) 21 true ∧ walkEntry true 4 false 0 (1 + 2 ^ 12) = .next (2 ^ 12) := by
  decide +kernel

/-- A walk that goes on, to the next table, to a page of 64 KiB and to a fault; one to start again; one that nothing waits for; for a
fill; answers to a fill, to writes and to a read of an update. -/
theorem witness_FabricAnswers_walk :
    let w : Walk := ⟨11, 0x10040, false, 4, 0, .stream 4, some 7, false⟩
    let st := { stream imgRead with walking := true }
    let s := fun w l => { (open_ [st]) with strm := { (open_ [st]).strm with walks := [w], streams := l } }
    (((s w [st]).strm.walks.find? fun x => x.n == w.n) = some w) ∧ walkLive (s w [st]) w = true ∧ walkLive (s w []) w = false ∧
      (s w [st]).strm.rootEn = true ∧ walkEntry (feat1 (s w [st]) 2) 4 false w.va (1 + 2 ^ 12) = .next (2 ^ 12) ∧
      walkEntry (feat1 (s w [st]) 2) 0 false w.va 3 = .leaf 0x40 16 false ∧
      walkEntry (feat1 (s w [st]) 2) 4 false w.va 0 = .fault 0 ∧
      walkLive live { w with for_ := .fill 0x10040 } = true := by decide +kernel

theorem witness_FabricAnswers_update :
    let u := { updOf recProt with issued := true }
    let x : UpdWrite := ⟨3, 7, 9, 0, true, 0x102000, [], false, true, false, none⟩
    let s := { live with upd := { live.upd with cur := some u, writes := [x, { x with key := 4, commit := true }] } }
    (s.upd.writes.find? fun x => x.key == 3) = some x ∧ s.upd.cur = some u ∧ u.issued = true ∧ live.upd.cur = none ∧
      s.seq.run = some run ∧ run.fetching = true := by decide +kernel

/-! ## The target side -/

/-- A cluster whose module has a window buffer, frame 5, and requests to its first and last bytes. -/
def win : State := { live with strm := { live.strm with bufs := [⟨none, 0, 65536, [5]⟩] } }
def req (op : BitVec 4) (off : Nat) : TargetReq :=
  ⟨0, BitVec.ofNat 52 (winBase win + off), op, 0, 0, true, BitVec.allOnes 256, 0, 0⟩

theorem witness_WindowEffects :
    clusterUp win = true ∧ win.ctl.wipe = none ∧ Pad.wf win.pad = true ∧
      ([0, 2, 3].all fun op => windowOk win 0x5FFC0 (reachBytes (req op 0x5FFC0)) && requestLegal (req op 0x5FFC0)) = true ∧
      (windowOk win 0x5FFF8 8 && requestLegal (req 1 0x5FFF8) && requestLegal (req 4 0x5FFF8)) = true ∧
      (windowOk win 0x50000 16 && requestLegal (req 5 0x50000)) = true ∧
      apOffset win (req 0 0x5FFC0).addr.toNat = some 0x5FFC0 ∧ inUser 0x5FFC0 = false ∧ (req 0 0).tid = win.ctl.owner ∧
      ((List.range 11).all fun a => requestLegal { req 4 0x50004 with sz := false, aop := BitVec.ofNat 4 a }) = true := by decide +kernel

/-- A reset, another tenant, the wipe, operation 6, an address before the aperture, one beyond the window buffers, a
request across a block, a write marked uncorrectable; a request that the other command carries. -/
theorem witness_TargetRefusals :
    clusterUp State.reset = false ∧ (1 : BitVec 12) ≠ win.ctl.owner ∧
      apOffset win (winBase win - 64) = none ∧ apOffset win (winBase win + 0x20000000) = none ∧
      windowOk win 0x60000 64 = false ∧ requestLegal { req 0 0x500C0 with len := 1 } = false ∧
      windowOk win 0x500C0 128 = true ∧ (apOffset win (req 6 0x50000).addr.toNat).any inUser = false ∧ (req 2 0x50000).op ≠ 0 ∧
      windowOk win 0x50000 64 = true ∧ requestLegal (req 2 0x50000) = true := by decide +kernel

/-- The user mailbox: its slot 0, a granule without a register, a request across a block, partial and whole masks. -/
theorem witness_TargetRefusals_user :
    inUser 0x1F000000 = true ∧ inUser 0x1F00FFFF = true ∧ inUser 0x1F010000 = false ∧ inUser 0x1EFFFFFF = false ∧
      (List.range 256).any (fun g => userGranule win g) = true ∧ userGranule win 1023 = false ∧
      requestLegal { req 0 0x1F0000C0 with len := 1 } = false ∧ bvGet (req 2 0x1F000000).mask 0 4 = 15 ∧
      bvGet ({ req 2 0x1F000000 with mask := 1 } : TargetReq).mask 0 4 = 1 := by decide +kernel

/-! ## Check events, withdrawal, ticks, scenes -/

/-- `live` with a storage error. -/
def marked (p : Place) (hard : Bool) : State := { live with chk := { live.chk with marks := [⟨p, hard⟩] } }

/-- An uncorrectable word among those that a target request reaches. -/
theorem witness_WindowEffects_mark :
    let s := { win with chk := { win.chk with marks := [⟨.pad (0x50000 / 8 + 7), true⟩] } }
    (∃ m ∈ s.chk.marks, m.hard = true ∧ inPieces [(0x50000, 64)] m.place = true) ∧
      inPieces [(0x50000, 8)] (.pad (0x50000 / 8 + 1)) = false ∧ (req 0 0x50000).rs = 0 := by decide +kernel

/-- The first event, a fault history that is no hard fault, a run at counters 0 and 3, no run at all. -/
theorem witness_CheckEvents :
    let past : PastEvent := ⟨0, 7, 0⟩
    hardFault (live.chk.history ++ [past]) past = false ∧ live.chk.withdrawn = false ∧
      (some 7).bind (findInst live) = some inst ∧ instActive inst = true ∧ inst.ending = none ∧ inst.replays ≠ 3 ∧
      ({ inst with replays := 3 }).replays = 3 ∧
      (∀ i ∈ ({ live with seq := { live.seq with insts := [{ inst with st := .abandoned }] } }).seq.insts, instActive i = false) := by
  decide +kernel

/-- The last tick of each window and the first beyond it. -/
theorem witness_CheckEvents_hard :
    let e := fun t => (⟨t, 3, 5⟩ : PastEvent)
    let d := fun t => (⟨t, 7, 0⟩ : PastEvent)
    let x := fun t k => (⟨t, k, 0⟩ : PastEvent)
    hardFault [e 0, e 65535] (e 65535) = true ∧ hardFault [e 0, e 65536] (e 65536) = false ∧
      hardFault [d 0, d 1023] (d 1023) = true ∧ hardFault [d 0, d 1024] (d 1024) = false ∧
      hardFault ((List.range 8).map (x 0)) (x 1023 7) = true ∧ hardFault ((List.range 8).map (x 0)) (x 1024 7) = false := by
  decide +kernel

/-- A run that a check event has ended and that is quiescent, behind another instance. -/
theorem witness_CheckEvents_pending :
    let e : Ending := ⟨.check, 0x16, 0, false, true, some 1⟩
    let i := { inst with ending := some e }
    let j := { inst with uid := 8, st := .ready }
    let s := { live with seq := { live.seq with insts := [j, i] } }
    s.chk.withdrawn = false ∧ s.seq.insts = [j] ++ i :: [] ∧ (∀ x ∈ [j] ++ [], x.uid ≠ i.uid) ∧ (∀ x ∈ [j], x.ending = none) ∧
      i.ending = some e ∧ e.kind = .check ∧ quiesced s i.uid = true ∧ quiesced s 9 = true ∧
      quiesced { s with strm := { s.strm with reqs := [reqOf (.stream 4 [0] 1 [])] } } 7 = false := by decide +kernel

/-- Errors in buffer 1, in a Firn row, in a tile line and in a cache line, each read, and one elsewhere. -/
theorem witness_CheckEvents_storage :
    let c := { (marked (.dcache 0x40010040) true) with strm := { live.strm with dcache := [(0x40010040, 0x10040, 7)] } }
    (marked (.pad 16384) true).chk.marks = [⟨.pad 16384, true⟩] ∧ findBuf live 7 1 = some ⟨some 7, 1, 65536, [2]⟩ ∧
      (∃ k < 64, bufPhys ⟨some 7, 1, 65536, [2]⟩ (0 + k) / 8 = 16384) ∧ (1024 * 3 < 3072 + 1 ∧ 3072 < 1024 * (3 + 1)) ∧
      (lineGet c 0x40010040).isSome = true ∧ 0x40010040 < 0x4001007F + 1 ∧ 0x4001007F < 0x40010040 + 64 := by
  decide +kernel

/-- A command taken when the core stops, a LOAD in progress, neither; the restart that completes it. -/
theorem witness_CheckEvents_restart :
    let s := { live with ctl := { live.ctl with order := [(.user, 7)] } }
    clusterUp s = true ∧ s.ctl.restarting = false ∧ (nextDoorbell s).isSome = true ∧ (nextDoorbell live) = none ∧
      clusterUp State.reset = false ∧
      ({ s with ctl := { s.ctl with restarting := true, cut := some (.user, 7) } }).ctl.cut = some (.user, 7) := by decide +kernel

def lease0 : Lease := ⟨0, 7, 0x1FFFFFFFFFFFFF0, 1, 2, 3, 4, 5, 9, true, false⟩
def writeReq : Req := { reqOf (.stream 4 [0] 1 []) with op := 2 }

/-- Not withdrawn, withdrawn on a ring and on a line, waiting with and without a write in flight, timed out, returned. -/
theorem witness_Withdrawals :
    let w := { ringLive with chk := { live.chk with withdrawn := true } }
    let l := { w with rev := { w.rev with line := true } }
    let p := fun n l => { w with chk := { w.chk with wdPhase := n }, strm := { w.strm with reqs := l, leases := [lease0] } }
    live.chk.withdrawn = false ∧ w.chk.wdPhase = 0 ∧ w.chk.retValid = false ∧ w.rev.done = true ∧ w.rev.line = false ∧
      l.rev.line = true ∧ l.rev.east.dead = false ∧ l.rev.west.dead = false ∧ (∃ i ∈ w.seq.insts, inGroup i = true) ∧
      (∃ q ∈ (p 1 [writeReq]).strm.reqs, 2 ≤ q.op.toNat) ∧ (¬ ∃ q ∈ (p 1 []).strm.reqs, 2 ≤ q.op.toNat) ∧
      (p 2 [writeReq]).chk.wdPhase = 2 ∧ (p 1 []).strm.leases[0]? = some lease0 ∧ lease0.addr < 2 ^ 57 := by decide +kernel

/-- A stale tick, the next, a later one and the first; a chosen instance, one beside a RUNNING one, a hold, two of one priority. -/
theorem witness_TicksAndChoice :
    let s := fun st => { live with seq := { live.seq with run := none, insts := [{ inst with st := st, slots := [] }] } }
    let b := { (s .ready) with seq := { (s .ready).seq with
      insts := [{ inst with st := .ready, slots := [] }, { inst with uid := 8, st := .ready, slots := [] }] } }
    clusterUp live = true ∧ clusterUp State.reset = false ∧ live.pwr.firstTick = false ∧
      (0 : BitVec 64).toNat ≤ live.pwr.tickNum.toNat ∧
      live.pwr.tickNum.toNat < (2 : BitVec 64).toNat ∧ State.reset.pwr.firstTick = true ∧
      startBarred live = true ∧ startBarred (s .ready) = false ∧ sceneOf live inst = some scene ∧
      startFits (s .ready) scene = true ∧ ((s .replayPending).seq.insts.find? fun i => i.st == .replayPending) ≠ none ∧
      (s .ready).seq.held = false ∧ startFits { (s .ready) with pwr := { live.pwr with capin := 0 } } scene = false ∧
      (∀ i ∈ (s .ready).seq.insts, i.st ≠ .replayPending) ∧ chooseStart b = some 7 := by
  decide +kernel

/-- The instance chosen at the tick, for a start and for a replay; a clause that still stores. -/
theorem witness_SceneStarts :
    let s := fun st => { live with
      seq := { live.seq with run := none, insts := [{ inst with st := st, slots := [] }], startSel := some 7 }
      strm := { live.strm with bufs := [] } }
    chosen live .ready = none ∧ chosen (s .ready) .ready = some ({ inst with st := .ready, slots := [] }, scene) ∧
      chosen (s .replayPending) .replayPending = some ({ inst with st := .replayPending, slots := [] }, scene) ∧
      chosen live .replayPending = none ∧ startFits (s .ready) scene = true ∧
      chosen { (s .ready) with mat := { live.mat with stores := [pend] } } .ready = none ∧ Pad.wf (s .ready).pad = true := by
  decide +kernel

/-- A late run, a lease that is due, a draining instance without work, a quiet cluster. -/
theorem witness_SceneReleases :
    let d := { inst with st := .draining }
    let s := { live with seq := { live.seq with run := none, insts := [d] } }
    let q := { live with seq := { live.seq with run := none, insts := [] } }
    s.seq.insts[(0 : BitVec 8).toNat]? = some d ∧ s.seq.insts[(255 : BitVec 8).toNat]? = none ∧ releasable s d = true ∧
      releasable live inst = false ∧ 7 ∈ ({ s.seq with lateDue := [7] }).lateDue ∧ 7 ∉ s.seq.lateDue ∧ lease0.due = true ∧
      clusterUp q = true ∧ q.boot.released = true ∧ q.strm.streams = [] ∧ q.upd.cur = none ∧
      (∀ k : BitVec 3, ∀ m ∈ [Mbx.mgmt, .user], slotState q m k ≠ .posted ∧ slotState q m k ≠ .busy) := by decide +kernel

/-! ## Power, resets, bring-up, the ring's links -/

/-- Temperatures at the limit, 20 below it and between; a cluster that a Curtain acts on, and each bar to it. -/
theorem witness_SensorsAndCurtain :
    live.pwr.tempLimit.toNat ≤ (0x1A4 : BitVec 10).toNat ∧ (0x190 : BitVec 10).toNat + 20 ≤ live.pwr.tempLimit.toNat ∧
      (0x1A3 : BitVec 10).toNat < live.pwr.tempLimit.toNat ∧ live.pwr.tempLimit.toNat < (0x1A3 : BitVec 10).toNat + 20 ∧
      live.pwr.stopEvent = false ∧ live.chk.withdrawn = false ∧ live.boot.released = true ∧ live.boot.poreset = true ∧
      live.boot.clreset = true ∧ State.reset.boot.released = false ∧
      ({ live.pwr with curtainIn := true }).curtainIn = true ∧ live.pwr.curtainIn = false ∧
      (∀ j ∈ live.seq.insts, ∀ k ∈ live.seq.insts, j.st = .running → k.st = .running → j = k) := by decide +kernel

theorem witness_Resets :
    State.reset.boot.poreset = false ∧ live.boot.poreset = true ∧ live.boot.clreset = true ∧ live.rev.done = true ∧
      live.rev.line = false ∧ (∃ i ∈ ringLive.seq.insts, i.ringScene = true ∧ instActive i = true) ∧
      ({ live.boot with clreset := false }).clreset = false ∧
      ({ live.rev with line := true }).west.dead = false ∧
      (∃ q ∈ ({ live with strm := { live.strm with reqs := [writeReq] } }).strm.reqs, q.tag = 4096) := by decide +kernel

set_option maxRecDepth 20000 in
/-- Fuse values whose CRC agrees, and values whose CRC does not. -/
theorem witness_BringUp_fuses :
    let b := BitVec.ofNat 1024 ((fuseCrc 0).toNat * 2 ^ 992)
    let s := { State.reset with boot := { State.reset.boot with poreset := true } }
    s.boot.fusesIn = false ∧ bvGet b 992 32 = (fuseCrc b).toNat ∧
      bvGet (b ^^^ 1) 992 32 ≠ (fuseCrc (b ^^^ 1)).toNat ∧ bvGet (BitVec.ofNat 1024 (3 * 2 ^ 384)) 384 2 = 3 := by decide +kernel

/-- Bring-up after the fuses, with two copies. -/
def booting : State :=
  { live with boot := { live.boot with released := false, fusesIn := true, ties := { live.boot.ties with imgCopies := 1 } } }

/-- The turn of copy 0; an image that its header promises, of which 256 bytes are there; one whose read has failed. -/
theorem witness_BringUp_copies :
    let head := (List.replicate 256 (0 : Byte)).set 0 0x2E |>.set 1 0x5A |>.set 2 0x43 |>.set 3 0x49 |>.set 13 0x10
    let s := { booting with boot := { booting.boot with reads := [⟨0, [], false, 2⟩] } }
    clusterUp booting = true ∧ booting.boot.fusesIn = true ∧ booting.boot.chosen = false ∧ booting.boot.reads = [] ∧
      booting.boot.copies.length = (0 : BitVec 2).toNat ∧ imageBusyRead booting = false ∧ (0 : BitVec 2).toNat ≤ 1 ∧
      (let tags := booting.strm.reqs.map (·.tag) ++ booting.strm.landed.map (·.req.tag) ++ booting.strm.orphans
       (lowestFree tags (4176 + (2 : BitVec 4).toNat) (16 - (2 : BitVec 4).toNat) <|> lowestFree tags 4176 16) = some 4178) ∧
      s.boot.reads = [⟨0, [], false, 2⟩] ∧ (reqOf (.image 0 0)).owner = .image 0 0 ∧ copyHeadOk head = true ∧
      ¬ leAt head 0x0C 4 ≤ head.length ∧ copyHeadOk (head.set 0 0) = false ∧ Answer.tenant ≠ .ok := by decide +kernel

/-- A choice among two copies, equal generations of different content, none valid; a release that is cold, of a ring that has
trained and of one that has not, and one that is warm. -/
theorem witness_BringUp_release :
    let c : Copy := ⟨true, 7, 1, 2, []⟩
    let s := booting
    let x := { s with boot := { s.boot with copies := [(0, { c with gen := 6 }), (1, c)] } }
    let y := { s with boot := { s.boot with copies := [(0, { c with digest := 5 }), (1, c)] } }
    let z := { x with boot := { x.boot with chosen := true } }
    x.boot.copies.length = x.boot.ties.imgCopies.toNat + 1 ∧ (6 : BitVec 16).toNat < c.gen.toNat ∧
      (∃ a ∈ y.boot.copies, ∃ d ∈ y.boot.copies, a.2.gen = d.2.gen ∧ a.2.digest ≠ d.2.digest ∧
        ∀ e ∈ y.boot.copies, e.2.gen.toNat ≤ a.2.gen.toNat) ∧
      (∀ c ∈ [(0, badCopy), (1, badCopy)], c.2.valid = false) ∧
      clusterUp z = true ∧ z.chk.cfgState = 0 ∧ z.boot.released = false ∧ z.boot.cold = true ∧ z.rev.done = true ∧
      Rev.reset.done = false ∧ ({ z.boot with cold := false }).cold = false := by decide +kernel

/-- An entry for either stepping, and weights at 64 and beyond. -/
theorem witness_BringUp_weights :
    (∃ e : BitVec 64, (byteField e 0 1, byteField e 1 1) = (match Config.stepping with
      | .b1 => (2, 1)
      | .c0 => (3, 0)) ∧ byteField e 2 1 = 64 ∧ byteField e 5 1 = 65) ∧ (∀ e ∈ ([] : List (BitVec 64)), e ≠ e) := by
  refine ⟨?_, by simp⟩
  cases h : Config.stepping
  · exact ⟨0x410101400102, by decide⟩
  · exact ⟨0x410101400003, by decide⟩

/-- A flit of channel `vc` to the clusters of `mask` with its CRC, at sequence number 0, on a link of generation 2. -/
def flit (vc : BitVec 2) (mask : BitVec 64) : LinkFlit :=
  let f : Flit := ⟨bvPut (bvPut 0 0 2 vc.toNat) 12 64 mask.toNat, 0⟩
  ⟨f, 0, 0, flitCrc f⟩

/-- Flits of each channel, expected and not, for this cluster and for another, behind an earlier one of its sender or not; a
message of this stop; a failing CRC. -/
theorem witness_FlitReception :
    ([0, 1, 2].all fun vc : BitVec 2 => decide (flVc (flit vc 8).flit = vc.toNat) && (flMask (flit vc 8).flit).getLsbD 3
      && !(flMask (flit vc 4).flit).getLsbD 3 && (flit vc 8).seq == live.rev.west.rxSeq) = true ∧
      live.boot.ties.clusterId.toNat = 3 ∧ live.rev.gen ≠ 1 ∧ ({ live.rev with gen := 1 }).gen = 1 ∧
      live.rev.west.dead = false ∧ live.rev.east.dead = false ∧ (1 : BitVec 5) ≠ live.rev.west.rxSeq ∧
      passThrough live = false ∧ passThrough State.reset = true ∧ staleFlit live (flit 0 8).flit = false ∧
      staleFlit { ringLive with seq := { ringLive.seq with insts := [{ ringInst with gtag := 0, grun := 1 }] } } (flit 0 8).flit = true ∧
      currentFlit { ringLive with seq := { ringLive.seq with insts := [{ ringInst with gtag := 0 }] } } (flit 1 8).flit = true ∧
      flSrc (flit 2 8).flit ≠ 3 ∧ flSrc (⟨bvPut (bvPut 0 0 2 2) 4 6 3, 0⟩ : Flit) = 3 ∧
      (∃ y ∈ [(flit 0 8).flit], flSrc (flit 0 4).flit = flSrc y ∧ flCh (flit 0 4).flit = flCh y) := by decide +kernel

set_option maxRecDepth 20000 in
theorem witness_FlitReception_crc : flitCrc (flit 0 8).flit = (flit 0 8).crc ∧ flitCrc (flit 0 8).flit ≠ (flit 0 8).crc + 1 := by
  decide +kernel

/-- An MMA of the ring that takes rows of channel 1: its flit behind one of another channel; a flit for this cluster alone and
one that goes on; another behind an earlier one of its own sender and channel. -/
theorem witness_FlitReception_used :
    let w : MmaWord := ⟨true, true, 0, 0, 2, 2, 0, 0, 1, false, false, 0, 256, none⟩
    let j : MmaJob := ⟨7, 9, w, 1, 7, 0, [], 1, 0⟩
    let f := fun ch mask => (⟨bvPut (bvPut (bvPut 0 10 2 ch) 12 64 mask) 76 16 7, 0⟩ : Flit)
    let s := { ringLive with mat := { ringLive.mat with jobs := [j] }, rev := { ringLive.rev with rx0 := [f 0 8, f 1 12] } }
    s.mat.jobs = j :: [] ∧ findInst s j.uid = some ringInst ∧ j.w.src = true ∧ j.rxch = 1 ∧ j.blk ≠ 0 ∧
      j.taken < mmaRows j.w.shape ∧ ringInst.ringScene = true ∧ inst.ringScene = false ∧
      s.rev.rx0 = [f 0 8] ++ f 1 12 :: [] ∧ flCh (f 0 8) ≠ 1 ∧ flCh (f 1 12) = 1 ∧ namesUs s (f 1 12) = true ∧
      flGtag (f 1 12) = 7 ∧ flRun (f 1 12) = 0 ∧ flMask (f 1 12) = 12 ∧ namesUs s (f 1 4) = false ∧
      flSrc (f 1 4) = flSrc (f 1 12) := by
  decide +kernel

/-- A port with a forwarded flit that has its credit behind an injected one that has one of two, a flit to send again, a full retry
buffer; a channel served before others; the oldest entry of the retry buffer. -/
theorem witness_LinkSending :
    let o := fun inj => (⟨0, 1, inj, 7, 9, false, .flit (flit 0 8).flit⟩ : OutFlit)
    let p := { Port.reset with out := [o true, o false], cr := ⟨0, 1, 0, 0, 0, 0, 4⟩ }
    p.dead = false ∧ p.resend = [] ∧ p.out = [o true] ++ o false :: [] ∧ mayGo live p (o true) = false ∧
      mayGo live p (o false) = true ∧ mayGo live { p with cr := ⟨0, 2, 0, 0, 0, 0, 4⟩ } (o true) = true ∧
      p.turn = 0 ∧ p.retry.length < 16 ∧ creditOf Port.reset.cr 0 1 = 0 ∧
      (List.replicate 16 ((0 : BitVec 5), o true)).length = 16 ∧ (∀ e ∈ p.retry, e.1 ≠ (0 : BitVec 5)) ∧
      ({ p with resend := [(3, o true)] }).resend = (3, o true) :: [] ∧
      ({ p with retry := [(0, o true), (1, o true)] }).retry = [] ++ (0, o true) :: [(1, o true)] := by decide +kernel

/-- 15, 16, 64 and 65 stops in order; 16 with two exchanged; a stop of another die. -/
theorem witness_Training :
    let ids := fun n => (List.range n).map fun k => (⟨BitVec.ofNat 6 k, 2, 5, 64, 32, 16, 4⟩ : TrainId)
    live.rev.west.dead = false ∧ live.rev.west.rxSeq = 0 ∧ live.rev.ready = true ∧ State.reset.rev.ready = false ∧
      (ids 15).length < 16 ∧ (64 < (ids 65).length) ∧ 16 ≤ (ids 16).length ∧ (ids 64).length ≤ 64 ∧
      ((List.range 64).all fun k => ((ids 64)[k]?).map (fun x => x.cluster.toNat) == some k) = true ∧
      (((ids 16).reverse)[0]?).map (fun x => x.cluster.toNat) ≠ some 0 ∧ ((ids 64).all fun x => x.die == 5) = true ∧
      trainStatus ((ids 16).set 3 { (ids 16).headD default with cluster := 3, die := 6 }) = 4 ∧
      ((ids 16)[(3 + 1) % (ids 16).length]?).isSome = true ∧ ((ids 16)[(3 + (ids 16).length - 1) % (ids 16).length]?).isSome = true ∧
      State.reset.rev.done = false ∧ State.reset.rev.status = 1 ∧ live.boot.ties.clusterId ≠ 0 := by decide +kernel

/-- This cluster's own message and another's; a member run and one of another group; a member that has already ended, one of
another run; a run that ends already; a rejoin that is complete. -/
theorem witness_StageDoor :
    let e : Ending := ⟨.check, 0x16, 0, false, true, some 1⟩
    live.rev.west.dead = false ∧ live.rev.west.rxSeq = 0 ∧ live.boot.ties.clusterId = 3 ∧ (63 : BitVec 6) ≠ 3 ∧
      passThrough live = false ∧ passThrough State.reset = true ∧
      (ringLive.seq.insts.find? fun i => inGroup i && i.gtag == 7) = some ringInst ∧
      (ringLive.seq.insts.find? fun i => inGroup i && i.gtag == 7 && i.grun == 0) = some ringInst ∧ ringInst.grun ≠ 1 ∧
      (7, 0, 2) ∉ ringInst.gends ∧ (7, 0, 2) ∈ ({ ringInst with gends := [(7, 0, 2)] } : Inst).gends ∧
      (∀ i ∈ ringLive.seq.insts, ¬ (inGroup i = true ∧ i.gtag = 8 ∧ i.grun = 0)) ∧ ringInst.ending = none ∧
      ringInst.st ≠ .replayPending ∧ inGroup { ringInst with st := .replayPending } = true ∧
      inGroup { ringInst with ending := some e } = true ∧ e.kind = .check ∧
      ({ live.rev with rejoining := true, rejoinBack := true, rejoinTick := true }).rejoinBack = true := by decide +kernel

/-! ## The control core, registers, debug -/

/-- `live` with a posted command in slot 7 of the management mailbox. -/
def posted (w : BitVec 1024) : State :=
  { live with ctl := { live.ctl with order := [(.mgmt, 7)]
                                     mgmt := { live.ctl.mgmt with st := live.ctl.mgmt.st.set 7 .posted
                                                                  slots := live.ctl.mgmt.slots.set 7 w } } }

/-- A command at the head, one of an undefined operation; a cluster that holds, where a user doorbell waits before it; a core that
does not serve; commands that pass each row and that it refuses, through the debug port among them. -/
theorem witness_FirmwareTakes :
    let s := posted 0x302
    let h := { s with boot := { s.boot with released := false }, chk := { s.chk with cfgState := 3 },
                      ctl := { s.ctl with order := [(.user, 1), (.mgmt, 7)] } }
    let d := { s with ctl := { s.ctl with dport := 0x80 }, boot := { s.boot with dbgfuse := 1 }, pwr := { s.pwr with dbgReq := 1 } }
    nextDoorbell s = some ((.mgmt, 7), []) ∧ nextDoorbell h = some ((.mgmt, 7), [(.user, 1)]) ∧ nextDoorbell State.reset = none ∧
      byteField (slotWord s .mgmt 7) 0 1 = 2 ∧ byteField (0x30F : BitVec 1024) 0 1 = 15 ∧ acceptFault s .mgmt 7 0x302 = none ∧
      acceptFault s .mgmt 7 0x30F = some eBadval ∧ acceptFault h .mgmt 7 0x304 = some eNoimage ∧
      acceptFault s .user 7 0x302 = some ePort ∧ debugState d = 1 ∧ acceptFault d .mgmt 7 0x302 = none ∧
      acceptFault d .mgmt 7 0x304 = some ePort ∧
      acceptFault { s with chk := { s.chk with withdrawn := true } } .mgmt 7 0x304 = some eWithdrawn ∧
      acceptFault { s with feat := Feat.reset } .mgmt 7 0x104 = some eBadstate ∧
      16 ≤ slotBytes s ∧ slotBytes s ≤ 128 := by decide +kernel

/-- A module of one scene whose code is SCENE_END (Tables 2-2, 9-3, 9-4): 208 bytes. -/
def modImage : List Byte :=
  ([(0, 0x2E), (1, 0x47), (2, 0x4D), (3, 0x4F), (4, 2), (5, 3), (24, 1), (28, 64), (32, 128), (36, 208), (130, 2), (156, 192),
    (160, 16), (164, 192), (192, 0x1F)] : List (Nat × Byte)).foldl (fun l x => l.set x.1 x.2) (List.replicate 208 0)

/-- A LOAD of it from 0x80000, before its first read, after it and before its last, whose size is another, and that walks. -/
theorem witness_ModuleCommands_load :
    let cmd : BitVec 1024 := bvPut (bvPut (bvPut 0 64 64 0x80000) 128 32 208) 160 8 100
    let j : LoadJob := ⟨.mgmt, 7, 64, cmd, [], 64, false, false, 0⟩
    let s := fun j => { (open_ []) with seq := { Seq.reset with nextUid := 9 }, ctl := { live.ctl with load := some j } }
    let u := s { j with image := modImage ++ List.replicate 48 0, upto := 208 }
    (s j).seq.modl = none ∧ (s j).ctl.owner = 0 ∧ byteField cmd 8 8 = 0x80000 ∧ byteField cmd 0x10 4 = 208 ∧
      xlLookup (s j) 0x80000 false = .hit 0x40080000 ∧
      (let tags := (s j).strm.reqs.map (·.tag) ++ (s j).strm.landed.map (·.req.tag) ++ (s j).strm.orphans
       (lowestFree tags (4176 + j.first.toNat) (16 - j.first.toNat) <|> lowestFree tags 4176 16) = some 4176) ∧
      xlLookup live 0x80000 false = .fault 4 3 ∧
      xlLookup { live with strm := { live.strm with rootEn := true } } 0x80000 false = .walk ∧
      (startWalk { live with strm := { live.strm with rootEn := true } } 0x80000 false .load none).isSome = true ∧
      (reqOf (.load 0)).owner = .load j.image.length ∧ leAt (modImage.take 64) 0x24 4 = 208 ∧ (64 : Nat) < 208 ∧
      leAt ((modImage.set 0x24 0).take 64) 0x24 4 ≠ 208 ∧ loadCheck u 100 modImage 0x80000 = none ∧
      loadCheck u 100 (modImage.set 0 0) 0x80000 = some eBadval := by
  decide +kernel

/-- A cluster before its grant with a legal proposal and an illegal one; a module without instances and with 255; scenes
at the bound. -/
theorem witness_ModuleCommands :
    let s := { live with seq := { live.seq with insts := [] } }
    live.rev.done = true ∧ Seq.reset.modl = none ∧ otherUsed live .mgmt 7 = false ∧ (0x51 : DWord) &&& 0x18 ≠ 0 ∧
      (0x51 : DWord) &&& 7 ≠ 0 ∧ (0x51 : DWord) &&& 0x60 ≠ 0 ∧ (0 : DWord) &&& 7 = 0 ∧ (avail0 live &&& 0x51) = 0x51 ∧
      s.seq.modl ≠ none ∧ s.seq.insts = [] ∧ live.seq.insts ≠ [] ∧ (s.seq.modl.map (·.scenes.length)) = some 1 ∧
      (List.replicate 255 inst).length < 256 ∧ 256 ≤ (List.replicate 256 inst).length := by decide +kernel

/-- A running instance, an abandoned one behind another, a wipe, a fenced and a rejoining stop; an ending that is no check event. -/
theorem witness_ControlCommands :
    let a := { inst with st := .abandoned }
    let j := { inst with uid := 8, st := .ready }
    let s := { live with seq := { live.seq with run := none, insts := [j, a] } }
    let f := { live with rev := { live.rev with pt := true } }
    let e := fun k => (⟨k, eAborted, 0, true, false, none⟩ : Ending)
    let z := { live with seq := { live.seq with insts := [j, { inst with ending := some (e .abort) }] } }
    (∃ i ∈ live.seq.insts, i.st = .running ∧ i.ending = none) ∧ (∀ i ∈ s.seq.insts, ¬ (i.st = .running ∧ i.ending = none)) ∧
      s.seq.insts = [j] ++ a :: [] ∧ j.st ≠ .abandoned ∧ (s.seq.insts.map (·.uid)).Nodup ∧
      live.seq.modl ≠ none ∧ Seq.reset.modl = none ∧ live.ctl.wipe = none ∧
      ({ live.ctl with wipe := some (.mgmt, 7, 5) }).wipe = some (.mgmt, 7, 5) ∧ clusterUp live = true ∧
      live.pwr.stopEvent = false ∧ passThrough f = true ∧ f.rev.rejoining = false ∧ passThrough live = false ∧
      f.chk.withdrawn = false ∧ f.rev.down = false ∧ f.rev.done = true ∧ f.rev.line = false ∧
      (live.seq.insts.find? fun i => i.st == .running) = some inst ∧ instActive inst = true ∧ (e .check).kind = .check ∧
      quiesced z 7 = true ∧ z.chk.withdrawn = false ∧ (e .abort).kind ≠ .check ∧
      (∀ i ∈ live.seq.insts, i.ending = none) := by decide +kernel

/-- A record that a stream holds, one that an Aside entry, an update and one of its writes holds, and one that nothing holds. -/
theorem witness_ControlCommands_records :
    let f : XltFault := ⟨0x10000, false, 0, 0, 127⟩
    let w : UpdWrite := ⟨3, 7, 9, 0, true, 0x102000, [], false, false, false, some f⟩
    let st := { stream imgRead with susp := some f }
    let a := { asideOf .read 8 none with susp := some f }
    let u := { updOf recProt with susp := some f }
    ([open_ [st], withAside a, { live with upd := { live.upd with cur := some u } },
        { live with upd := { live.upd with writes := [w] } }].all fun s => (heldRecords s).contains 127 && !(heldRecords s).contains 126)
      = true ∧ ((open_ [st]).strm.streams.find? fun x => hasRecord 127 x.susp) = some st ∧
      ((withAside a).strm.asides.find? fun x => hasRecord 127 x.susp) = some a ∧ updCommits recProt = true ∧
      ([w].find? fun x => hasRecord 127 x.susp) = some w := by decide +kernel

/-- Registers of 32 and of 64 bits, read-only and not; an offset without a register; a refused and a locked value. -/
theorem witness_CsrAccess :
    clusterUp live = true ∧ clusterUp State.reset = false ∧ csrValue live 0 ≠ none ∧ csrWide 0 = false ∧ csrReserved 0 = none ∧
      (csrValue live 0x90010).isSome = true ∧ csrWide 0x90010 = false ∧ csrWide 0x1000 = true ∧ csrReserved 0x1000 = none ∧
      csrWide 0x60008 = true ∧ csrValue live 0x60008 = some 0 ∧ csrValue live 0x6000C = none ∧ csrWide 0x6000C = false ∧
      csrReserved 0x60008 = some 0xFFF0000000000FFE ∧ csrIllegal live 0x60008 0x1001 = false ∧ maskLocked live = true ∧
      maskLocked State.reset = false ∧ csrValue live 0xFFFFFC = none ∧ csrWide 0xFFFFF8 = false ∧
      csrReserved 0x100010 ≠ none ∧ ((csrReserved 0xA0008).any fun m => 0x80000000 &&& m != 0) = true := by decide +kernel

/-- Slot numbers 7 and 8; slots that are EMPTY, POSTED and DONE; the last word of the last slot. -/
theorem witness_ActingRegisters :
    clusterUp live = true ∧ (7 : Word).toNat < 8 ∧ 8 ≤ (8 : Word).toNat ∧ slotState live .mgmt 7 = .empty ∧
      slotState (posted 0x302) .mgmt 7 = .posted ∧
      slotState { live with ctl := { live.ctl with mgmt := { live.ctl.mgmt with st := live.ctl.mgmt.st.set 7 .done } } } .mgmt 7
        = .done ∧ (0x3FC : BitVec 10).toNat % 4 = 0 ∧
      (live.ctl.mgmt.head - live.ctl.mgmt.tail).toNat < ((1 : Word) - live.ctl.mgmt.tail).toNat ∧
      ((0 : Word) - live.ctl.mgmt.tail).toNat ≤ (live.ctl.mgmt.head - live.ctl.mgmt.tail).toNat ∧
      (1 : Word).toNat &&& 0xFFFFFFFE = 0 ∧ (2 : Word).toNat &&& 0xFFFFFFFE ≠ 0 ∧ 16 ≤ (16 : Word).toNat := by decide +kernel

/-- Debug state FULL and idle at the last word of each target; LOCKED, OBSERVE, ACCESS selected. -/
theorem witness_DebugAccess :
    let s := { live with seq := { live.seq with insts := [] }, boot := { live.boot with dbgfuse := 2 },
                         pwr := { live.pwr with dbgReq := 2 }, dbg := { live.dbg with addr := 0x7FFFFF, ir := 0x10 } }
    clusterUp s = true ∧ (2 ≤ s.boot.dbgfuse.toNat ∧ 2 ≤ s.pwr.dbgReq.toNat ∧ s.ctl.owner = 0) ∧
      (∀ i ∈ s.seq.insts, i.st ≠ .running) ∧ s.ctl.wipe = none ∧ s.dbg.addr.toNat * 4 = 0x1FFFFFC ∧
      (0x3FFFF : BitVec 23).toNat * 4 = 0xFFFFC ∧ (0x3FFF : BitVec 23).toNat * 4 = 0xFFFC ∧ debugState s = 2 ∧
      debugState live = 0 ∧ debugState { s with pwr := { s.pwr with dbgReq := 1 } } = 1 ∧ s.dbg.ir = 0x10 ∧
      slotState s .mgmt (BitVec.ofNat 3 (7 : Word).toNat) = .empty ∧
      (marked (.pad (0x1FFFFFC / 8)) true).chk.marks = [⟨.pad (0x1FFFFFC / 8), true⟩] ∧
      State.reset.boot.poreset = false := by decide +kernel

theorem witness_StepRunsFront : ({ live with pending := [.swap, .release] }).pending = .swap :: [.release] := rfl

/-- A quiet cycle; a queue with an instruction at its head behind one of another queue; a held fault whose earlier work is not
complete, and one whose is. -/
theorem witness_QuietCycle :
    let e : Queued := ⟨.rsend 0, .d, 7, 6, 32, 1, [], ⟨0, 0, 0, 0⟩⟩
    let f : HeldFault := ⟨8, eBadval, 32, none⟩
    let s := { live with seq := { live.seq with queue := [waitE, { e with c := .vadd (vw 0 1 2 3 0), q := .v }, e]
                                                run := some { run with fault := some f, fetching := false } } }
    live.pending = [] ∧ s.seq.queue = [waitE] ++ { e with c := .vadd (vw 0 1 2 3 0), q := .v } :: [e] ∧ waitE.q ≠ .v ∧
      (∀ x ∈ s.seq.queue, x.q ≠ .m) ∧ s.seq.run = some { run with fault := some f, fetching := false } ∧
      issuedDone s 7 8 = false ∧ issuedDone { s with seq := { s.seq with queue := [] } } 7 8 = true := by decide +kernel

/-- A storage error in buffer 1, which no frame of the pad holds otherwise, in a tile line, and in the decoder; two of them strike. -/
theorem witness_QuietCycle_upset :
    let s := { live with pad := ⟨[], bvSet 0 128 true, []⟩ }
    upsetPlace s ⟨3, 16384, 0, true, 1⟩ = some (.pad 16384) ∧ upsetPlace live ⟨3, 0, 0, true, 1⟩ = none ∧
      upsetPlace live ⟨7, 0, 0, true, 1⟩ = some .decode ∧ live.seq.run = some run ∧ Pad.wf s.pad = true ∧
      upsetPlace (setT live 0 ⟨1, 1, 0, 2, true⟩) ⟨5, 0, 0, false, 0⟩ = some (.tile 0 0) ∧
      upsetPlace live ⟨9, 65535, 0, false, 0⟩ = some (.sram 65535) := by decide +kernel

/-- A canonical state that steps to a next state. -/
theorem witness_CanonicalKept : Canonical live ∧ ∃ t, step { live with pending := [.vadd (vw 0 1 2 3 0)] } = .next t :=
  ⟨⟨by decide +kernel, by
    intro b hb
    have : b = ⟨some 7, 1, 65536, [2]⟩ := by
      have h : live.strm.bufs = [⟨some 7, 1, 65536, [2]⟩] := rfl
      rw [h] at hb
      exact List.mem_singleton.mp hb
    subst this
    exact ⟨by decide, by decide, by decide⟩, by decide +kernel, by decide +kernel⟩, _, rfl⟩

/-- No run; a word beyond the code, the last one, and one that a check refuses; cached code that says the word, another and no word;
a WAITQ that holds the fetch; a full queue; an instruction at its turn. -/
theorem witness_IssueFaults :
    let v := Instr.vadd (vw 0 1 2 3 0)
    let line := fun w : Nat => { live with seq := { live.seq with icache := [(0, BitVec.ofNat 512 (w * 2 ^ 256))] } }
    let e := fun q => (⟨v, q, 7, 9, 32, 1, [], run.route⟩ : Queued)
    State.reset.seq.run = none ∧ v.isProgram = true ∧ live.seq.run = some run ∧ findInst live run.uid = some inst ∧
      run.fetching = true ∧ codeLen live inst < 65536 + 16 * (encode v).length ∧
      65520 + 16 * (encode v).length ≤ codeLen live inst ∧
      executeCheck (runCtx live inst) (.vadd (vw 2 1 2 3 0)) = some eBadval ∧ executeCheck (runCtx live inst) v = none ∧
      fetchOf live inst run.pc v = .this ∧ fetchOf (line ((encode v).headD 0).toNat) inst run.pc v = .this ∧
      fetchOf (line ((encode .sceneEnd).headD 0).toNat) inst run.pc v = .other ∧ fetchOf (line 0) inst run.pc v = .illegal ∧
      waitHolds (.waitq 3 4) .s = true ∧ issueReady live (e .v) = true ∧
      ¬ ((List.replicate 32 (e .v)).filter fun a => a.q == (e .v).q).length < 32 ∧ heldBy live (e .d) (e .d) = true ∧
      issuedDone live 7 9 = true ∧ inst.ending = none ∧ live.chk.withdrawn = false := by decide +kernel

/-- Instructions of which the earlier writes what the later reads, a register and a range of the buffer. -/
theorem witness_IssueFaults_held :
    let a : Queued := ⟨.vst (vw 0 1 2 3 0) ⟨1, false, false, 0, 1⟩, .v, 7, 4, 16, 1, [], run.route⟩
    let b : Queued := ⟨.rred ⟨0, false, false, 1, 1, 0, 0, 0x8000, false, 256⟩, .d, 7, 5, 32, 1, [], run.route⟩
    let c : Queued := ⟨.sread 4 0, .s, 7, 6, 48, 1, [4], run.route⟩
    (∃ x ∈ touches live 7 a.c, ∃ y ∈ touches live 7 b.c, rngConflict x y = true) ∧ (destReg c.c).isSome = true := by
  decide +kernel

theorem witness_DecodeEncode :
    (Instr.salu ⟨13, 6, 0, 0, true, 0xFFFFFFFFFFFFFFFF⟩).isProgram = true ∧
      (Instr.salu ⟨13, 6, 0, 0, true, 0xFFFFFFFFFFFFFFFF⟩).wf = true := by decide
/-! ## Single steps, with results by hand from the rules named -/

/-- `live` with V2 and V3 holding one value in every 32-bit lane below 2. -/
def two (a b : Nat) : State :=
  setV (setV live 2 (BitVec.ofNat 16384 (a + a * 2 ^ 32))) 3 (BitVec.ofNat 16384 (b + b * 2 ^ 32))

def lane (s : State) (v : BitVec 5) (n : Nat) : Nat := vElem (getV s v) 32 n

/-- INT32 sums wrap (R169). -/
theorem test_vadd_wraps : lane (next (.vadd (vw 1 1 2 3 0)) (two 0xFFFFFFFF 1)) 1 1 = 0 := by decide +kernel

/-- 1.0 + 1.0 = 2.0, an exact sum (R51). -/
theorem test_vadd_fp32 : let t := next (.vadd (vw 0 1 2 3 0)) (two 0x3F800000 0x3F800000)
    lane t 1 0 = 0x40000000 ∧ t.vec.numstat = 0 ∧ (t.seq.run.map (·.pc)) = some 48 := by decide +kernel

/-- x - x is +0 under RNE (R51). -/
theorem test_vsub_fp32_zero : lane (next (.vsub (vw 0 1 2 3 0)) (two 0x40490FDB 0x40490FDB)) 1 0 = 0 := by decide +kernel

theorem test_vmul_fp32 : lane (next (.vmul (vw 0 1 2 3 0)) (two 0x3FC00000 0x3FC00000)) 1 0 = 0x40100000 := by decide +kernel

/-- A source that is also the destination is read first (R163). -/
theorem test_vadd_same_register : lane (next (.vadd (vw 1 2 2 2 0)) (two 5 0)) 2 0 = 10 := by decide +kernel

theorem test_vsra_sign : lane (next (.vsra (vw 1 1 2 3 0)) (two 0xFFFFFFF8 33)) 1 0 = 0xFFFFFFFC := by decide +kernel

/-- 500.0 saturates to 448 in E4M3 (03, R57 and R62). -/
theorem test_vcvt_e4m3_saturates :
    vElem (getV (next (.vcvt { vw 0 1 2 0 0 with t2 := 4, sat := true }) (two 0x43FA0000 0)) 1) 8 0 = 0x7E := by decide +kernel

/-- An index of E gives 0 and INVALID (R175). -/
theorem test_vperm_out_of_range : let t := next (.vperm (vw 0 1 2 3 0)) (two 0x3F800000 512)
    lane t 1 0 = 0 ∧ t.vec.numstat = flInvalid := by decide +kernel

/-- -1 < 0 for INT32, and not the other way round (R172). -/
theorem test_vcmp_lt : (getK (next (.vcmp 2 (vw 1 1 2 3 0)) (two 0xFFFFFFFF 0)) 1).getLsbD 0 = true ∧
    (getK (next (.vcmp 2 (vw 1 1 2 3 0)) (two 0 0xFFFFFFFF)) 1).getLsbD 0 = false := by decide +kernel

/-- SETVL of a register value above 512 sets 512 (R165). -/
theorem test_setvl_caps : let t := next (.setvl (vw 0 0 0 0 0) ⟨0, true, 4, 5⟩) (setS live 4 600)
    t.vec.vl = 512 ∧ getS t 5 = 512 := by decide +kernel

/-- Bytes are stored in ascending order of weight (R6, R181). -/
theorem test_vst_byte_order :
    let s := two 0x04030201 0
    let t := next (.vst (vw 0 0 2 0 0) ⟨1, false, false, 0, 4⟩) { s with vec := { s.vec with vl := 2 } }
    bufRead t 7 1 0 8 = [1, 2, 3, 4, 1, 2, 3, 4] := by decide +kernel

theorem test_salu_slt : getS (next (.salu ⟨9, 1, 2, 3, false, 0⟩) (setS live 2 (-1))) 1 = 1 := by decide +kernel

theorem test_salu_sltu : getS (next (.salu ⟨10, 1, 2, 3, false, 0⟩) (setS live 2 (-1))) 1 = 0 := by decide +kernel

theorem test_sread_cluster : getS (next (.sread 0 1) live) 1 = 3 := by decide +kernel

theorem test_br_back : ((next (.br ⟨0, 0, 0, false, 0, -32⟩) live).seq.run.map (·.pc)) = some 0 := by decide +kernel

/-- A branch out of the code is a precise fault: the instance is ABANDONED, SEQ_FAULT names it (R221, R462). -/
theorem test_br_fault : let t := next (.br ⟨0, 0, 0, false, 0, -48⟩) live
    t.seq.fault = ⟨true, 0, eBadval, 32⟩ ∧ t.seq.insts.map (·.st) = [.abandoned] := by decide +kernel

theorem test_tcfg : getT (next (.tcfg 3 1 7) live) 3 = ⟨0, 0, 1, 7, false⟩ := by decide +kernel

theorem test_rroute : let t := next (.rroute ⟨1, 2, 3, 1⟩) (setS (setS live 1 0xF) 2 0x70003)
    t.seq.insts.map (fun i => (i.ringScene, i.gtag, i.gmask)) = [(true, 7, 0xF)] ∧
      t.seq.run.map (·.route) = some ⟨0xF, 3, 3, 1⟩ := by decide +kernel

theorem test_dstr_opens : (next (.dstr 3 noPatches imgRead) live).strm.streams.map (fun x => (x.slot, x.phys, x.next)) = [(3, 0, 0)] := by
  decide +kernel

/-- One request of four units of one block, READ, to the translated address (R253). -/
theorem test_stream_read : (next (.streamReadRequest 1) (open_ [stream imgRead])).strm.reqs.map (fun q => (q.op, q.addr, q.len))
    = [(0, 0x40010000, 3)] := by decide +kernel

/-- ADD on 8 bytes answers the old value and leaves the sum (Table 12-3). -/
theorem test_window_add : let w := { win with pad := padWrite win.pad 0x50000 [7] }
    let t := next (.windowAtomic { req 4 0x50000 with data := 5 }) w
    t.strm.rspData = 7 ∧ padRead t.pad 0x50000 2 = [12, 0] := by decide +kernel

/-- CLAIM of 5 units at NEXT 2 with LIMIT 4 grants 2 (R321). -/
theorem test_window_claim : let w := { win with pad := padWrite win.pad 0x50000 [2, 0, 0, 0, 1, 0, 0, 0, 4] }
    let t := next (.windowAtomic { req 5 0x50000 with data := 0x50001 }) w
    t.strm.rspData.toNat = 2 + 2 * 2 ^ 32 ∧ padRead t.pad 0x50000 4 = [4, 0, 0, 0] := by decide +kernel

/-- Another tenant is refused (R97). -/
theorem test_window_tenant : (next (.windowAccess { req 0 0x50000 with tid := 1 }) win).strm.rsp = 2 := by decide +kernel

theorem test_tick_caps : let t := next (.tick 7 120) live
    t.pwr.tickNum = 7 ∧ t.pwr.capin = 100 ∧ t.pwr.jump = 1 := by decide +kernel

theorem test_temp_hysteresis : (next (.tempIn 0x191) (next (.tempIn 0x1A4) live)).pwr.thermal = true ∧
    (next (.tempIn 0x190) (next (.tempIn 0x1A4) live)).pwr.thermal = false := by decide +kernel

/-- CHIP_ID (R21) and the reset value of PERIOD read through the management port. -/
theorem test_csr_read : (next (.csrRead 0) live).dbg.mg.rdata = 0x0C044B43 ∧
    (next (.csrRead 0xA0008) live).dbg.mg.rdata = 0x64 ∧ (next (.csrRead 0xFFFFFC) live).dbg.mg.err = true := by decide +kernel

theorem test_doorbell : let t := next (.mbxDoorbell 7) live
    slotState t .mgmt 7 = .posted ∧ t.ctl.order = [(.mgmt, 7)] := by decide +kernel

/-- An undefined operation completes with E_BADVAL (Table 15-4). -/
theorem test_query_undefined : let t := next (.query .mgmt 7) (posted 0x30F)
    slotState t .mgmt 7 = .done ∧ byteField (slotWord t .mgmt 7) 4 4 = eBadval.toNat := by decide +kernel

/-- A stray answer is counted as a check event (R458). -/
theorem test_stray_answer : (next (.fabricResponse 9 0 0 0) live).chk.events = 1 := by decide +kernel

/-- A lockstep divergence restarts the control core and ends the run (R353). -/
theorem test_lockstep : let t := next (.lockstepDivergence 0 false) live
    t.ctl.restarting = true ∧ t.chk.events = 1 ∧ t.seq.insts.map (fun i => i.ending.isSome || i.st != .running) = [true] := by
  decide +kernel

theorem test_reset_clears : let t := next .clresetNFall (two 1 2)
    getV t 2 = 0 ∧ t.seq.insts = [] ∧ t.boot.released = false ∧ t.rev.n = 16 := by decide +kernel

/-- The collecting round leaves with this stop's entry at its end (R278). -/
theorem test_train_collect : ((next (.train ⟨⟨.west, 0, true⟩, .collect [⟨0, 2, 5, 64, 32, 16, 4⟩]⟩) live).rev.east.out.map (·.body))
    = [.stage (.train (.collect [⟨0, 2, 5, 64, 32, 16, 4⟩, ⟨3, 2, 5, 64, 32, 16, 4⟩]))] := by decide +kernel

theorem test_credit : (next (.creditReturn .east 0 1) live).rev.east.cr.c1 = 1 := by decide +kernel

theorem test_fence : (next (.fence ⟨⟨.west, 0, true⟩, 9⟩) live).rev.ptMap = 0x200 := by decide +kernel

theorem test_step_takes_front : (match step { live with pending := [.swap, .release] } with
    | .next t => t.pending
    | _ => []) = [.release] := by decide +kernel


/-- A FENCE whose CRC fails is refused and changes nothing else (R430). -/
theorem test_fence_crc : let t := next (.fence ⟨⟨.west, 0, false⟩, 9⟩) live
    t.rev.ptMap = 0 ∧ t.rev.west.koNak = true ∧ t.rev.west.rxSeq = 0 := by decide +kernel

/-- The first read of an image copy: 256 bytes of tenant 0 at IMG_BASE + n × 0x40000 (R394). -/
theorem test_copy_examine : let s := { booting with boot := { booting.boot with ties := { booting.boot.ties with imgBase := 3 } } }
    (next (.copyExamine 0 2) s).strm.reqs.map (fun q => (q.addr, q.len, q.tid, q.tag)) = [(0xC0000, 3, 0, 4178)] := by decide +kernel

/-- LOAD reads its first 64 bytes through the translation (R369, R377). -/
theorem test_load_reads :
    let w : BitVec 1024 := bvPut (bvPut (bvPut (bvPut 0x303 64 64 0x80000) 128 32 208) 160 8 100) 0 16 0x303
    let s := { (posted w) with seq := Seq.reset, strm := { (open_ []).strm with bufs := [] } }
    (next (.load .mgmt 7 0) s).strm.reqs.map (fun q => (q.addr, q.len)) = [(0x40080000, 0)] := by decide +kernel

/-- An instruction behind a busy buffer waits in its queue, and the next word is fetched (R213). -/
theorem test_vld_waits : let t := next (.vld (vw 0 1 0 0 0) ⟨1, false, false, 0, 4⟩) { live with mat := { live.mat with stores := [pend] } }
    t.seq.queue.map (·.pc) = [32] ∧ t.seq.run.map (·.pc) = some 48 := by decide +kernel

/-- A correctable error in a word that is read is counted (14, R351). -/
theorem test_corrected : let t := next (.vld (vw 0 1 0 0 0) ⟨1, false, false, 0, 4⟩) (marked (.pad 16384) false)
    t.chk.corrS = 1 ∧ t.chk.events = 0 := by decide +kernel

end Sys2Proof.Tests
end

section
/-! The lane effects of element-wise vector instructions, INT32 lanes, and mask instructions (07, R162, R165, R169, R174). -/

namespace Sys2Proof.Machine

open Sys2Proof

/-! ## Lane effects (R162) -/

/-- The lanes that a result describes depend only on the mask and vector registers before it. -/
theorem laneResult_counted {s : State} {w : VecWord} {b e : Nat} {f : Nat → Nat × Flags} {v : VReg} {fl : Flags}
    (h : LaneResult (counted s) w b e f v fl) : LaneResult s w b e f v fl := by
  obtain ⟨hact, hidle, hrest, hfl⟩ := h
  simp only [getK_counted, getV_counted] at hact hidle hrest hfl
  exact ⟨hact, hidle, hrest, hfl⟩

/-- A vector instruction whose effect is one pass over the lanes has the lane effect of that pass. -/
theorem laneEffect_of_vecMap {c : Instr} {w : VecWord} {s : State} {r : Run} {i : Inst} {b e : Nat}
    {f : Nat → Nat × Flags} {g : State → State} (hexec : exec c s = vecPlain s c g)
    (hg : g (counted s) = vecMap (counted s) w b e f) (hb : 0 < b) (he : b * e ≤ 16384) :
    LaneEffect c [] w s (counted s) r i b e f := by
  intro hiss
  obtain ⟨v, fl, hmap, hres⟩ := vecMap_lanes (counted s) w b e f hb he
  refine ⟨v, fl, ?_, laneResult_counted hres⟩
  rw [hexec, vecPlain_issuable hiss, hg, hmap]

theorem vecE_counted (s : State) (t : BitVec 4) : vecE (counted s) (fmtBits (vfmt t)) = lanesOf s t := by
  simp [vecE, lanesOf]

theorem lanesOf_le (s : State) (t : BitVec 4) : fmtBits (vfmt t) * lanesOf s t ≤ 16384 := vecE_le s _

section
variable {c : Instr} {w : VecWord} {s : State} {r : Run} {i : Inst}

theorem laneEffect_vecUn {f : Nat → Nat × Flags} (h : exec c s = vecPlain s c (vecUn w f)) :
    LaneEffect c [] w s (counted s) r i (fmtBits (vfmt w.t)) (lanesOf s w.t) fun n =>
      f (vElem (getV s w.va) (fmtBits (vfmt w.t)) n) :=
  laneEffect_of_vecMap h (by simp only [vecUn, vecE_counted, getV_counted]) (fmtBits_pos _) (lanesOf_le _ _)

theorem laneEffect_vecBin {f : Nat → Nat → Nat × Flags} (h : exec c s = vecPlain s c (vecBin w f)) :
    LaneEffect c [] w s (counted s) r i (fmtBits (vfmt w.t)) (lanesOf s w.t) fun n =>
      f (vElem (getV s w.va) (fmtBits (vfmt w.t)) n) (vElem (getV s w.vb) (fmtBits (vfmt w.t)) n) :=
  laneEffect_of_vecMap h (by simp only [vecBin, vecE_counted, getV_counted]) (fmtBits_pos _) (lanesOf_le _ _)

theorem laneEffect_vecTern {f : Nat → Nat → Nat → Nat × Flags} (h : exec c s = vecPlain s c (vecTern w f)) :
    LaneEffect c [] w s (counted s) r i (fmtBits (vfmt w.t)) (lanesOf s w.t) fun n =>
      f (vElem (getV s w.va) (fmtBits (vfmt w.t)) n) (vElem (getV s w.vb) (fmtBits (vfmt w.t)) n)
        (vElem (getV s w.vc) (fmtBits (vfmt w.t)) n) :=
  laneEffect_of_vecMap h (by simp only [vecTern, vecE_counted, getV_counted]) (fmtBits_pos _) (lanesOf_le _ _)

/-- Two lane functions that agree on every lane have the same lane effect. -/
theorem LaneEffect.congr {regs : List (BitVec 5)} {u : State} {b e : Nat} {f g : Nat → Nat × Flags}
    (h : LaneEffect c regs w s u r i b e f) (hfg : ∀ n, f n = g n) : LaneEffect c regs w s u r i b e g := by
  rwa [← funext hfg]

/-- An INT32 instruction whose operation is `f` on codes and `g` on words has the lane effect of `g`. -/
theorem laneEffect_word (ht : w.t = 1) {f : Nat → Nat → Nat × Flags} {g : Word → Word → Word}
    (h : exec c s = vecPlain s c (vecBin w f))
    (hfg : ∀ a < 2 ^ 32, ∀ b < 2 ^ 32, f a b = ((g (BitVec.ofNat 32 a) (BitVec.ofNat 32 b)).toNat, 0)) :
    LaneEffect c [] w s (counted s) r i 32 (lanesOf s 1) fun n =>
      ((g (BitVec.ofNat 32 (vElem (getV s w.va) 32 n)) (BitVec.ofNat 32 (vElem (getV s w.vb) 32 n))).toNat, 0) := by
  have hlanes := laneEffect_vecBin (r := r) (i := i) h
  rw [ht] at hlanes
  exact hlanes.congr fun n => hfg _ (vElem_lt _ _ _) _ (vElem_lt _ _ _)

end

/-! ## INT32 lanes (R169) -/

/-- The signed value of a 32-bit code is that of the word. -/
theorem int32Val_eq_toInt {a : Nat} (ha : a < 2 ^ 32) : int32Val a = (BitVec.ofNat 32 a).toInt := by
  rw [int32Val, BitVec.toInt_ofNat', Int.bmod_def]
  omega

/-- The low 32 bits of an exact integer are those of the word. -/
theorem int32Code_eq_toNat (v : Int) : int32Code v = (BitVec.ofInt 32 v).toNat := by
  simp [int32Code]

/-- An INT32 operation whose exact result is `g`, modulo 2^32, on the signed values is `h` on words. -/
theorem intOp_eq_word {g : Int → Int → Int} {h : Word → Word → Word}
    (hgh : ∀ x y : Word, BitVec.ofInt 32 (g x.toInt y.toInt) = h x y) {a b : Nat} (ha : a < 2 ^ 32) (hb : b < 2 ^ 32) :
    intOp g a b = ((h (BitVec.ofNat 32 a) (BitVec.ofNat 32 b)).toNat, 0) := by
  rw [intOp, int32Val_eq_toInt ha, int32Val_eq_toInt hb, int32Code_eq_toNat, hgh]

theorem ofInt_sub_toInt (x y : Word) : BitVec.ofInt 32 (x.toInt - y.toInt) = x - y :=
  BitVec.eq_of_toInt_eq (by simp)

theorem ofInt_min_toInt (x y : Word) : BitVec.ofInt 32 (min x.toInt y.toInt) = if y.slt x then y else x := by
  by_cases h : y.toInt < x.toInt
  · simp [BitVec.slt_eq_decide, h, min_eq_right h.le]
  · simp [BitVec.slt_eq_decide, h, min_eq_left (not_lt.mp h)]

theorem ofInt_max_toInt (x y : Word) : BitVec.ofInt 32 (max x.toInt y.toInt) = if x.slt y then y else x := by
  by_cases h : x.toInt < y.toInt
  · simp [BitVec.slt_eq_decide, h, max_eq_right h.le]
  · simp [BitVec.slt_eq_decide, h, max_eq_left (not_lt.mp h)]

theorem byFmt_int {w : VecWord} (ht : w.t = 1) (f : Nat → Nat → Nat × Flags)
    (g : Fmt → Rm → Nat → Nat → Nat × Flags) : byFmt w f g = f := by
  funext a b; exact if_pos ht

theorem byFmt_float {w : VecWord} (ht : w.t ≠ 1) (f : Nat → Nat → Nat × Flags)
    (g : Fmt → Rm → Nat → Nat → Nat × Flags) : byFmt w f g = g (vfmt w.t) (rmOf w.rm) := by
  funext a b; exact if_neg ht

/-- Settles O1: the exact INT32 results taken modulo 2^32 are the word operations. -/
theorem vecInt32Lanes : Obligations.VecInt32Lanes := by
  intro s r i w ht eff
  have intLanes : ∀ {c : Instr} {g : Int → Int → Int} {f : Fmt → Rm → Nat → Nat → Nat × Flags}
      {h : Word → Word → Word},
      exec c s = vecPlain s c (vecBin w (byFmt w (intOp g) f)) →
      (∀ x y : Word, BitVec.ofInt 32 (g x.toInt y.toInt) = h x y) → eff c h := fun hexec hgh =>
    laneEffect_word ht (by rw [hexec, byFmt_int ht]) fun _ ha _ hb => intOp_eq_word hgh ha hb
  have bitLanes : ∀ {c : Instr} (h : Word → Word → Word),
      exec c s = vecPlain s c (vecBin w (bitOp h)) → eff c h := fun _ hexec => laneEffect_word ht hexec fun _ _ _ _ => rfl
  exact ⟨intLanes rfl fun _ _ => by simp [BitVec.ofInt_add], intLanes rfl ofInt_sub_toInt,
    intLanes rfl fun _ _ => by simp [BitVec.ofInt_mul], intLanes rfl ofInt_min_toInt, intLanes rfl ofInt_max_toInt,
    bitLanes (· &&& ·) rfl, bitLanes (· ||| ·) rfl, bitLanes (· ^^^ ·) rfl, bitLanes (fun a b => a <<< (b.toNat % 32)) rfl,
    bitLanes (fun a b => a >>> (b.toNat % 32)) rfl, bitLanes (fun a b => a.sshiftRight (b.toNat % 32)) rfl⟩

/-! ## Mask instructions, KPOP and SETVL (R165, R174) -/

section
variable {s : State} {r : Run} {i : Inst} {w : VecWord}

theorem vecEffect_maskOp {c : Instr} (f : Mask → Mask → Mask) (hexec : exec c s = vecPlain s c (maskOp w f)) :
    VecEffect c [] s r i (setK (counted s) (w.vd.truncate 3) (f (getK s (w.va.truncate 3)) (getK s (w.vb.truncate 3)))) := by
  intro hiss
  rw [hexec, vecPlain_issuable hiss, maskOp, getK_counted, getK_counted]

theorem vecEffect_kpop :
    VecEffect (.kpop w) [w.vd] s r i (setS (counted s) w.vd (BitVec.ofNat 64 (laneCount (getK s w.km) s.vec.vl.toNat))) := by
  intro hiss
  refine Eq.trans (b := execKpop w s) rfl (vecIssue_go hiss ?_)
  simp only [getK_counted, vl_counted]

/-- SETVL of a value above 0 sets VL and SD to it, at most 512. -/
theorem exec_setvl_pos {x : SetVlExt} {v : Int} (hv : v = if x.vs then (getS s x.ss).toInt else x.imm.toNat) (hpos : 0 < v)
    (hiss : Issuable s r i .v 1 (.setvl w x) (x.sd :: if x.vs then [x.ss] else [])) :
    exec (.setvl w x) s = .next (after (setS { counted s with vec := { (counted s).vec with
      vl := BitVec.ofNat 10 (min v 512).toNat } } x.sd (BitVec.ofNat 64 (min v 512).toNat)) r 1) := by
  refine Eq.trans (b := execSetvl w x s) rfl (vecIssue_go hiss ?_)
  simp only [getS_counted, ← hv, if_neg (not_le.mpr hpos)]

end

/-- Settles O5: a mask instruction, KPOP and SETVL each change one register, by what their bodies read. -/
theorem vecMasksAndVl : Obligations.VecMasksAndVl :=
  ⟨fun _ _ _ _ => ⟨vecEffect_maskOp (· &&& ·) rfl, vecEffect_maskOp (· ||| ·) rfl, vecEffect_maskOp (· ^^^ ·) rfl,
      vecEffect_maskOp (fun a b => a &&& ~~~b) rfl, vecEffect_maskOp (fun a _ => ~~~a) rfl, vecEffect_kpop⟩,
    fun _ _ _ _ _ _ hv hpos => exec_setvl_pos hv hpos⟩

end Sys2Proof.Machine
end

section
/-! Rounding on the real line: a mode sends a nonnegative real to a place of a strictly rising sequence of reals, the
multiples of a power of 2 or the values of a format's codes. The place is said by which places lie below it. -/

namespace Sys2Proof.Machine

open Sys2Proof

/-- The magnitude `y` of a value of sign `neg` is rounded to a place of `v` above `n` (03, R48, R49, Table 3-5). -/
def Beyond (rm : Rm) (neg : Bool) (v : ℕ → ℝ) (n : ℕ) (y : ℝ) : Prop :=
  match rm with
  | .rne => v n + v (n + 1) < 2 * y ∨ (v n + v (n + 1) = 2 * y ∧ n % 2 = 1)
  | .rtz => v (n + 1) ≤ y
  | .rdn => if neg then v n < y else v (n + 1) ≤ y
  | .rup => if neg then v (n + 1) ≤ y else v n < y

/-- The place `c` of `v` is the one to which the magnitude `y` of a value of sign `neg` is rounded. -/
def IsRounding (rm : Rm) (neg : Bool) (v : ℕ → ℝ) (y : ℝ) (c : ℕ) : Prop := ∀ n, n < c ↔ Beyond rm neg v n y

section
variable {rm : Rm} {neg : Bool} {v : ℕ → ℝ} {y : ℝ} {c n : ℕ}

theorem beyond_of_succ_le (hv : StrictMono v) (h : v (n + 1) ≤ y) : Beyond rm neg v n y := by
  have hlt : v n < v (n + 1) := hv n.lt_succ_self
  cases rm <;> simp only [Beyond]
  case rne => exact .inl (by linarith)
  case rtz => exact h
  case rdn => split <;> linarith
  case rup => split <;> linarith

theorem not_beyond_of_le (hv : StrictMono v) (h : y ≤ v n) : ¬ Beyond rm neg v n y := by
  have hlt : v n < v (n + 1) := hv n.lt_succ_self
  cases rm <;> simp only [Beyond]
  case rne => rintro (h' | ⟨h', -⟩) <;> linarith
  case rtz => linarith
  case rdn => split <;> linarith
  case rup => split <;> linarith

/-- Whether a value is rounded beyond a place depends on the two neighbouring places and the parity alone. -/
theorem beyond_congr {v' : ℕ → ℝ} {n' : ℕ} (hlo : v n = v' n') (hhi : v (n + 1) = v' (n' + 1)) (hpar : n % 2 = n' % 2) :
    Beyond rm neg v n y ↔ Beyond rm neg v' n' y := by
  simp only [Beyond, hlo, hhi, hpar]

theorem IsRounding.le_of_le (h : IsRounding rm neg v y c) (hv : StrictMono v) (hy : y ≤ v n) : c ≤ n :=
  not_lt.mp fun hlt => not_beyond_of_le hv hy ((h n).mp hlt)

theorem IsRounding.ge_of_ge (h : IsRounding rm neg v y c) (hv : StrictMono v) (hy : v n ≤ y) : n ≤ c := by
  cases n with
  | zero => exact c.zero_le
  | succ k => exact (h k).mpr (beyond_of_succ_le hv hy)

/-- A value at a place is rounded to that place. -/
theorem isRounding_self (hv : StrictMono v) (c : ℕ) : IsRounding rm neg v (v c) c := fun _ =>
  ⟨fun hlt => beyond_of_succ_le hv (hv.monotone hlt), fun hb => not_le.mp fun hle =>
    not_beyond_of_le hv (hv.monotone hle) hb⟩

/-- A value between two neighbouring places is rounded to one of them. -/
theorem isRounding_between (hv : StrictMono v) (hlo : v n ≤ y) (hhi : y < v (n + 1)) {up : Bool}
    (hup : up = true ↔ Beyond rm neg v n y) : IsRounding rm neg v y (n + if up then 1 else 0) := by
  intro k
  rcases lt_trichotomy k n with hk | rfl | hk
  · exact iff_of_true (by omega) (beyond_of_succ_le hv ((hv.monotone hk).trans hlo))
  · rw [← hup]; cases up <;> simp
  · exact iff_of_false (by split <;> omega) (not_beyond_of_le hv (hhi.le.trans (hv.monotone hk)))

/-- The place of a value is its own exactly when it is at a place. -/
theorem IsRounding.eq_iff (h : IsRounding rm neg v y c) (hv : StrictMono v) : (∃ n, y = v n) ↔ y = v c := by
  refine ⟨?_, fun hy => ⟨c, hy⟩⟩
  rintro ⟨n, rfl⟩
  rw [le_antisymm (h.le_of_le hv le_rfl) (h.ge_of_ge hv le_rfl)]

end

/-! ## Multiples of a power of 2 -/

theorem strictMono_mul_zpow (q : ℤ) : StrictMono fun n : ℕ => (n : ℝ) * 2 ^ q := fun _ _ h =>
  mul_lt_mul_of_pos_right (Nat.cast_lt.mpr h) (zpow_pos two_pos q)

/-- The bits `m` at weight `2^e` carry the value `y`: exactly, or as more than `k + 2` bits whose last is 1 and stands for a
remainder (the sticky bit). -/
def Carries (k m : ℕ) (e : ℤ) (y : ℝ) : Prop :=
  y = m * 2 ^ e ∨ (2 ^ (k + 2) ≤ m ∧ m % 2 = 1 ∧ ((m : ℝ) - 1) * 2 ^ e < y ∧ y < ((m : ℝ) + 1) * 2 ^ e)

section
variable {k m h : ℕ} {e : ℤ} {y : ℝ}

/-- The bits compare with an even number as the value does. -/
theorem Carries.lt_iff (hc : Carries k m e y) (he : y = m * 2 ^ e ∨ h % 2 = 0) : (h : ℝ) * 2 ^ e < y ↔ h < m := by
  have hp : (0 : ℝ) < 2 ^ e := zpow_pos two_pos e
  have exact_ : y = m * 2 ^ e → ((h : ℝ) * 2 ^ e < y ↔ h < m) := fun hy => by
    rw [hy, mul_lt_mul_iff_left₀ hp, Nat.cast_lt]
  rcases hc with hy | ⟨-, hodd, hlo, hhi⟩
  · exact exact_ hy
  rcases he with hy | heven
  · exact exact_ hy
  rcases lt_or_ge h m with hlt | hge
  · have : (h : ℝ) ≤ m - 1 := by rw [le_sub_iff_add_le]; exact_mod_cast hlt
    exact iff_of_true ((mul_le_mul_of_nonneg_right this hp.le).trans_lt hlo) hlt
  · have : (m : ℝ) + 1 ≤ h := by exact_mod_cast (by omega : m + 1 ≤ h)
    exact iff_of_false (not_lt.mpr (hhi.le.trans (mul_le_mul_of_nonneg_right this hp.le))) (not_lt.mpr hge)

theorem Carries.eq_iff (hc : Carries k m e y) (he : y = m * 2 ^ e ∨ h % 2 = 0) : (h : ℝ) * 2 ^ e = y ↔ h = m := by
  have hp : (0 : ℝ) < 2 ^ e := zpow_pos two_pos e
  have exact_ : y = m * 2 ^ e → ((h : ℝ) * 2 ^ e = y ↔ h = m) := fun hy => by
    rw [hy, mul_left_inj' hp.ne', Nat.cast_inj]
  rcases hc with hy | ⟨-, hodd, hlo, hhi⟩
  · exact exact_ hy
  rcases he with hy | heven
  · exact exact_ hy
  refine iff_of_false (fun hy => ?_) (by omega)
  rw [← hy, mul_lt_mul_iff_left₀ hp] at hlo hhi
  have h1 : m < h + 1 := by exact_mod_cast sub_lt_iff_lt_add.mp hlo
  have h2 : h < m + 1 := by exact_mod_cast hhi
  omega

theorem Carries.le_iff (hc : Carries k m e y) (he : y = m * 2 ^ e ∨ h % 2 = 0) : (h : ℝ) * 2 ^ e ≤ y ↔ h ≤ m := by
  rw [le_iff_lt_or_eq, hc.lt_iff he, hc.eq_iff he, le_iff_lt_or_eq]

/-- Bits that carry a remainder reach at least two places below the last of `k + 1` bits. -/
theorem Carries.exact_or_fine (hc : Carries k m e y) {q : ℤ} (hq : (Nat.log2 m : ℤ) + e - k ≤ q) :
    y = m * 2 ^ e ∨ e + 2 ≤ q := by
  rcases hc with hy | ⟨hm, -, -, -⟩
  · exact .inl hy
  · have hpos : m ≠ 0 := by have := Nat.two_pow_pos (k + 2); omega
    have := (Nat.le_log2 hpos).mpr hm
    omega

/-- Whether `roundAt` takes the multiple above `lo`, for a remainder `rem` of twice `half`. -/
def roundsUp (rm : Rm) (neg : Bool) (lo rem half : ℕ) : Bool :=
  match rm with
  | .rne => half < rem || (rem == half && lo % 2 == 1)
  | .rtz => false
  | .rdn => neg && rem != 0
  | .rup => !neg && rem != 0

/-- Rounding to a coarser exponent drops `d + 1` bits. -/
theorem roundAt_of_lt (rm : Rm) (neg : Bool) (m : ℕ) {e q : ℤ} {d : ℕ} (hd : q - e = d + 1) :
    roundAt rm neg m e q = (m / (2 * 2 ^ d) + (if roundsUp rm neg (m / (2 * 2 ^ d)) (m % (2 * 2 ^ d)) (2 ^ d) then 1 else 0),
      m % (2 * 2 ^ d) != 0) := by
  rw [← Nat.pow_succ', roundAt, if_neg (by omega), show (q - e).toNat = d + 1 by omega]
  rfl

/-- Rounding to an exponent that is no coarser is exact. -/
theorem roundAt_of_le (rm : Rm) (neg : Bool) (m : ℕ) {e q : ℤ} (hqe : q ≤ e) :
    (m : ℝ) * 2 ^ e = (roundAt rm neg m e q).1 * 2 ^ q ∧ (roundAt rm neg m e q).2 = false := by
  rw [roundAt, if_pos hqe]
  refine ⟨?_, rfl⟩
  push_cast
  rw [mul_assoc, ← zpow_natCast, ← zpow_add₀ two_ne_zero]
  congr 2
  omega

/-- Where the bits `m` are split at `d + 1` bits, a value that they carry compares with the multiples of the coarser weight, and
with the middle between two of them, as `m` does. -/
theorem Carries.split (hc : Carries k m e y) {q : ℤ} {d : ℕ} (hd : q - e = d + 1) (hfine : y = m * 2 ^ e ∨ e + 2 ≤ q)
    (lo : ℕ) :
    ((lo : ℝ) * 2 ^ q ≤ y ↔ 2 * (2 ^ d * lo) ≤ m) ∧ ((lo : ℝ) * 2 ^ q < y ↔ 2 * (2 ^ d * lo) < m) ∧
      ((lo : ℝ) * 2 ^ q + ((lo + 1 : ℕ) : ℝ) * 2 ^ q < 2 * y ↔ 2 * (2 ^ d * lo) + 2 ^ d < m) ∧
      ((lo : ℝ) * 2 ^ q + ((lo + 1 : ℕ) : ℝ) * 2 ^ q = 2 * y ↔ 2 * (2 ^ d * lo) + 2 ^ d = m) := by
  have hpow : (2 : ℝ) ^ q = 2 * 2 ^ d * 2 ^ e := by
    rw [show q = (d : ℤ) + 1 + e by omega, zpow_add₀ two_ne_zero, zpow_add₀ two_ne_zero, zpow_natCast]
    ring
  have hlo : (lo : ℝ) * 2 ^ q = ((2 * (2 ^ d * lo) : ℕ) : ℝ) * 2 ^ e := by
    rw [hpow]; push_cast; ring
  have hmid : (lo : ℝ) * 2 ^ q + ((lo + 1 : ℕ) : ℝ) * 2 ^ q = 2 * (((2 * (2 ^ d * lo) + 2 ^ d : ℕ) : ℝ) * 2 ^ e) := by
    rw [hpow]; push_cast; ring
  have heven : y = m * 2 ^ e ∨ (2 * (2 ^ d * lo) + 2 ^ d) % 2 = 0 := hfine.imp_right fun hfine => by
    obtain ⟨j, rfl⟩ : ∃ j, d = j + 1 := ⟨d - 1, by omega⟩
    have : 2 ^ (j + 1) = 2 * 2 ^ j := Nat.pow_succ'
    omega
  rw [hmid, hlo, mul_lt_mul_iff_right₀ (two_pos (α := ℝ)), mul_right_inj' (two_ne_zero (α := ℝ))]
  exact ⟨hc.le_iff (.inr (by omega)), hc.lt_iff (.inr (by omega)), hc.lt_iff heven, hc.eq_iff heven⟩

/-- The multiple of `2^q` that `roundAt` gives is the place of the value, and it is inexact where the value is none. -/
theorem roundAt_isRounding (rm : Rm) (neg : Bool) (hc : Carries k m e y) {q : ℤ} (hq : (Nat.log2 m : ℤ) + e - k ≤ q) :
    IsRounding rm neg (fun n => (n : ℝ) * 2 ^ q) y (roundAt rm neg m e q).1 ∧
      ((roundAt rm neg m e q).2 = true ↔ ∀ n : ℕ, y ≠ n * 2 ^ q) := by
  have hmono := strictMono_mul_zpow q
  have hfine := hc.exact_or_fine hq
  by_cases hqe : q ≤ e
  · obtain ⟨hval, hexact⟩ := roundAt_of_le rm neg m hqe
    rw [← hfine.resolve_right (by omega)] at hval
    exact ⟨hval ▸ isRounding_self hmono _, iff_of_false (by simp [hexact]) fun hall => hall _ hval⟩
  obtain ⟨d, hd⟩ : ∃ d : ℕ, q - e = d + 1 := ⟨(q - e - 1).toNat, by omega⟩
  rw [roundAt_of_lt rm neg m hd]
  have hm : 2 * (2 ^ d * (m / (2 * 2 ^ d))) + m % (2 * 2 ^ d) = m := by
    rw [← Nat.mul_assoc]
    exact Nat.div_add_mod m _
  have hrem : m % (2 * 2 ^ d) < 2 * 2 ^ d := Nat.mod_lt _ (by have := Nat.two_pow_pos d; omega)
  generalize m / (2 * 2 ^ d) = lo, m % (2 * 2 ^ d) = rem at hm hrem ⊢
  obtain ⟨hle, hlt, hmidlt, hmideq⟩ := hc.split hd hfine lo
  have hlow : (lo : ℝ) * 2 ^ q ≤ y := hle.mpr (by omega)
  have hhigh : y < ((lo + 1 : ℕ) : ℝ) * 2 ^ q :=
    not_le.mp ((hc.split hd hfine (lo + 1)).1.not.mpr (by rw [Nat.mul_add]; omega))
  have hat : (lo : ℝ) * 2 ^ q < y ↔ rem ≠ 0 := hlt.trans (by omega)
  refine ⟨isRounding_between hmono hlow hhigh ?_, ?_⟩
  · cases rm
    case rne =>
      simp only [roundsUp, Beyond, hmidlt, hmideq, Bool.or_eq_true, Bool.and_eq_true, decide_eq_true_eq, beq_iff_eq]
      omega
    case rtz => simpa [roundsUp, Beyond] using hhigh
    case rdn => cases neg <;> simp [roundsUp, Beyond, hat, -Nat.cast_add, hhigh]
    case rup => cases neg <;> simp [roundsUp, Beyond, hat, -Nat.cast_add, hhigh]
  · rw [bne_iff_ne, ← hat]
    refine ⟨fun hlt n hn => ?_, fun hall => lt_of_le_of_ne hlow fun h => hall lo h.symm⟩
    rw [hn] at hlt hhigh
    have h1 : lo < n := hmono.lt_iff_lt.mp hlt
    have h2 : n < lo + 1 := hmono.lt_iff_lt.mp hhigh
    omega

end

end Sys2Proof.Machine
end

section
/-! The floating-point formats as rising sequences: the magnitudes of the codes of one sign, continued past the largest
finite one with unbounded exponent (03, R44, Table 3-2). -/

namespace Sys2Proof.Machine

open Sys2Proof

/-- The significand of the code `n` of a positive value. -/
def codeSig (f : Fmt) (n : ℕ) : ℕ := if n < 2 ^ fmtM f then n else 2 ^ fmtM f + n % 2 ^ fmtM f

/-- The exponent of the least significant bit of the code `n` of a positive value. -/
def codeExp (f : Fmt) (n : ℕ) : ℤ := fmtQmin f + (n / 2 ^ fmtM f - 1 : ℕ)

/-- The magnitude of the code `n` of a positive value. -/
noncomputable def codeVal (f : Fmt) (n : ℕ) : ℝ := codeSig f n * 2 ^ codeExp f n

/-- A code of the format `f` from its magnitude part and its sign. -/
def signed (f : Fmt) (neg : Bool) (n : ℕ) : ℕ := n + if neg then fmtSign f else 0

/-- The code that `fpRound` gives for the place `c`; F4 has no negative zero. -/
def placeCode (f : Fmt) (neg : Bool) (c : ℕ) : ℕ := if f = .f4 ∧ c = 0 then 0 else signed f neg c

/-! ## The magnitudes -/

/-- The places of one exponent are the multiples of a power of 2, up to the first one of the next exponent. -/
theorem codeVal_binade (f : Fmt) {j i : ℕ} (hi : i ≤ 2 * 2 ^ fmtM f) (hj : j = 0 ∨ 2 ^ fmtM f ≤ i) :
    codeVal f (2 ^ fmtM f * j + i) = i * 2 ^ (fmtQmin f + j) := by
  have hB : 0 < 2 ^ fmtM f := Nat.two_pow_pos _
  unfold codeVal codeSig codeExp
  generalize 2 ^ fmtM f = B at *
  rcases lt_or_ge i B with hlt | hge
  · obtain rfl : j = 0 := hj.resolve_right (by omega)
    simp [hlt, Nat.div_eq_of_lt hlt]
  rw [if_neg (by nlinarith [Nat.zero_le (B * j)]), Nat.mul_add_div hB, Nat.mul_add_mod]
  rcases Nat.lt_or_ge i (2 * B) with hlt | hge2
  · have hdiv : i / B = 1 := Nat.div_eq_of_lt_le (by omega) (by omega)
    have hmod : B + i % B = i := by rw [Nat.mod_eq_sub_mod hge, Nat.mod_eq_of_lt (by omega)]; omega
    rw [hdiv, hmod, Nat.add_sub_cancel]
  · obtain rfl : i = 2 * B := by omega
    rw [Nat.mul_div_cancel _ hB, Nat.mul_mod_left, show j + 2 - 1 = j + 1 by omega, Nat.cast_add j 1, ← add_assoc,
      zpow_add₀ two_ne_zero _ (1 : ℕ)]
    push_cast
    ring

/-- Each magnitude lies one unit in the last place below the next. -/
theorem codeVal_succ (f : Fmt) (n : ℕ) : codeVal f (n + 1) = codeVal f n + 2 ^ codeExp f n := by
  have hB : 0 < 2 ^ fmtM f := Nat.two_pow_pos _
  obtain ⟨j, i, rfl, hexp, hi, hj⟩ : ∃ j i, n = 2 ^ fmtM f * j + i ∧ codeExp f n = fmtQmin f + j ∧ i < 2 * 2 ^ fmtM f ∧
      (j = 0 ∨ 2 ^ fmtM f ≤ i) := by
    have hdm := Nat.div_add_mod n (2 ^ fmtM f)
    have hmod := Nat.mod_lt n hB
    unfold codeExp
    cases hq : n / 2 ^ fmtM f with
    | zero => exact ⟨0, n, by simp, by simp, by rw [hq] at hdm; omega, .inl rfl⟩
    | succ j =>
      rw [hq, Nat.mul_add] at hdm
      exact ⟨j, 2 ^ fmtM f + n % 2 ^ fmtM f, by omega, by simp, by omega, .inr (by omega)⟩
  rw [hexp, Nat.add_assoc, codeVal_binade f (by omega) (hj.imp_right (by omega)),
    codeVal_binade f (by omega) hj]
  push_cast
  ring

theorem codeVal_strictMono (f : Fmt) : StrictMono (codeVal f) := strictMono_nat_of_lt_succ fun n => by
  rw [codeVal_succ]
  exact lt_add_of_pos_right _ (zpow_pos two_pos _)

@[simp] theorem codeVal_zero (f : Fmt) : codeVal f 0 = 0 := by
  simp [codeVal, codeSig]

theorem codeVal_nonneg (f : Fmt) (n : ℕ) : 0 ≤ codeVal f n := by
  unfold codeVal; positivity

theorem codeVal_eq_zero {f : Fmt} {n : ℕ} : codeVal f n = 0 ↔ n = 0 := by
  rw [← codeVal_zero f, (codeVal_strictMono f).injective.eq_iff]

/-! ## The shape of a code (Tables 3-1 and 3-2) -/

theorem two_pow_fmtBits (f : Fmt) : 2 ^ fmtBits f = 2 * fmtSign f := by
  cases f <;> decide

section
variable {f : Fmt} (hf : fmtIsInt f = false)
include hf

theorem fmtM_le : fmtM f ≤ 52 := by
  cases f <;> revert hf <;> decide

theorem fmtSign_eq : fmtSign f = 2 ^ fmtM f * 2 ^ fmtE f := by
  cases f <;> revert hf <;> decide

theorem fmtSign_even : fmtSign f % 2 = 0 := by
  cases f <;> revert hf <;> decide

theorem fmtMaxCode_lt_sign : fmtMaxCode f < fmtSign f := by
  cases f <;> revert hf <;> decide

theorem two_pow_fmtM_le_max : 2 ^ fmtM f ≤ fmtMaxCode f := by
  cases f <;> revert hf <;> decide

/-- The largest finite magnitude and the one before it have the same exponent. -/
theorem codeExp_max_pred : codeExp f (fmtMaxCode f - 1) = codeExp f (fmtMaxCode f) := by
  cases f <;> revert hf <;> decide

theorem two_pow_fmtM_even : 2 ^ fmtM f % 2 = 0 := by
  cases f <;> revert hf <;> decide

omit hf in
/-- Every code is a magnitude part below the sign bit, and a sign. -/
theorem exists_signed {c : ℕ} (hc : c < 2 ^ fmtBits f) : ∃ neg n, n < fmtSign f ∧ c = signed f neg n := by
  rw [two_pow_fmtBits f] at hc
  by_cases h : c < fmtSign f
  · exact ⟨false, c, h, by simp [signed]⟩
  · exact ⟨true, c - fmtSign f, by omega, by simp only [signed, if_true]; omega⟩

omit hf in
theorem signed_lt {neg : Bool} {n : ℕ} (hn : n < fmtSign f) : signed f neg n < 2 ^ fmtBits f := by
  rw [two_pow_fmtBits f, signed]
  split <;> omega

omit hf in
theorem fmtSign_pos : 0 < fmtSign f := Nat.two_pow_pos _

omit hf in
theorem fpNegBit_signed {neg : Bool} {n : ℕ} (hn : n < fmtSign f) : fpNegBit f (signed f neg n) = neg := by
  unfold fpNegBit signed
  cases neg
  · simp [Nat.div_eq_of_lt hn]
  · simp [Nat.add_div_right _ fmtSign_pos, Nat.div_eq_of_lt hn]

/-- The exponent and fraction fields of a code are those of its magnitude part. -/
theorem fields_signed {neg : Bool} {n : ℕ} (hn : n < fmtSign f) :
    signed f neg n / 2 ^ fmtM f % 2 ^ fmtE f = n / 2 ^ fmtM f ∧ signed f neg n % 2 ^ fmtM f = n % 2 ^ fmtM f := by
  have hB : 0 < 2 ^ fmtM f := Nat.two_pow_pos _
  rw [fmtSign_eq hf] at hn
  have hdiv : n / 2 ^ fmtM f < 2 ^ fmtE f := Nat.div_lt_of_lt_mul hn
  unfold signed
  rw [fmtSign_eq hf]
  cases neg
  · simp [Nat.mod_eq_of_lt hdiv]
  · simp [Nat.add_mul_div_left _ _ hB, Nat.mod_eq_of_lt hdiv]

/-- The largest finite code comes before the codes whose exponent field is all ones, in the formats with an infinity. -/
theorem fmtMaxCode_succ (h4 : f ≠ .f4) (h43 : f ≠ .e4m3) : fmtMaxCode f + 1 = (2 ^ fmtE f - 1) * 2 ^ fmtM f := by
  cases f <;> revert hf h4 h43 <;> decide

theorem exponent_ones_iff {n : ℕ} (hn : n < fmtSign f) :
    (f ≠ .f4 ∧ f ≠ .e4m3 ∧ n / 2 ^ fmtM f = 2 ^ fmtE f - 1) ↔ (f ≠ .f4 ∧ f ≠ .e4m3 ∧ fmtMaxCode f < n) := by
  refine and_congr_right fun h4 => and_congr_right fun h43 => ?_
  rw [fmtSign_eq hf] at hn
  have hdiv : n / 2 ^ fmtM f < 2 ^ fmtE f := Nat.div_lt_of_lt_mul hn
  rw [← Nat.succ_le_iff, Nat.succ_eq_add_one, fmtMaxCode_succ hf h4 h43, ← Nat.le_div_iff_mul_le (Nat.two_pow_pos _)]
  omega

/-- Decoding of a code by its sign and its magnitude part: a NaN, an infinity, or a place of the format. -/
theorem fpDecode_signed {neg : Bool} {n : ℕ} (hn : n < fmtSign f) : fpDecode f (signed f neg n) =
    if f = .f4 ∧ neg = true ∧ n = 0 then .nan true
    else if f = .e4m3 ∧ n = 127 then .nan true
    else if f ≠ .f4 ∧ f ≠ .e4m3 ∧ fmtMaxCode f < n then
      if n % 2 ^ fmtM f = 0 then .inf neg else .nan (n % 2 ^ fmtM f / 2 ^ (fmtM f - 1) % 2 == 1)
    else .fin neg (codeSig f n) (codeExp f n) := by
  obtain ⟨hexp, hfrac⟩ := fields_signed hf (neg := neg) hn
  have hneg : (signed f neg n / 2 ^ (fmtBits f - 1) % 2 == 1) = neg := fpNegBit_signed hn
  have hf4 : (f = .f4 ∧ signed f neg n = 8) ↔ (f = .f4 ∧ neg = true ∧ n = 0) := by
    refine and_congr_right ?_
    rintro rfl
    have hn8 : n < 8 := hn
    have hsign : fmtSign .f4 = 8 := rfl
    cases neg
    · simp [signed, hn8.ne]
    · simp [signed, hsign]
  have he4m3 : (f = .e4m3 ∧ n / 2 ^ fmtM f = 15 ∧ n % 2 ^ fmtM f = 7) ↔ (f = .e4m3 ∧ n = 127) := by
    refine and_congr_right ?_
    rintro rfl
    simp only [fmtM]
    omega
  have hfin : (if n / 2 ^ fmtM f = 0 then FVal.fin neg (n % 2 ^ fmtM f) (fmtQmin f)
      else .fin neg (2 ^ fmtM f + n % 2 ^ fmtM f) (fmtQmin f + (n / 2 ^ fmtM f - 1 : ℕ))) =
      .fin neg (codeSig f n) (codeExp f n) := by
    simp only [codeSig, codeExp, Nat.div_eq_zero_iff_lt (Nat.two_pow_pos _)]
    split
    next h => simp [Nat.mod_eq_of_lt h, Nat.div_eq_of_lt h]
    next => rfl
  simp only [fpDecode, hf, Bool.false_eq_true, if_false, hexp, hfrac, hneg, hf4, he4m3, exponent_ones_iff hf hn, hfin]

/-- The finite codes are those whose magnitude part is at most the largest finite one; F4 has no negative zero. -/
theorem fpDecode_finite {neg : Bool} {n : ℕ} (hn : n ≤ fmtMaxCode f) (h4 : f = .f4 → neg = true → n ≠ 0) :
    fpDecode f (signed f neg n) = .fin neg (codeSig f n) (codeExp f n) := by
  rw [fpDecode_signed hf (hn.trans_lt (fmtMaxCode_lt_sign hf)), if_neg (by tauto), if_neg, if_neg (by omega)]
  rintro ⟨rfl, rfl⟩
  exact absurd hn (by decide)

theorem exists_of_finite {c : ℕ} (hc : c < 2 ^ fmtBits f) (hfin : fpIsFinite f c = true) :
    ∃ neg n, n ≤ fmtMaxCode f ∧ c = signed f neg n ∧ fpDecode f c = .fin neg (codeSig f n) (codeExp f n) := by
  obtain ⟨neg, n, hn, rfl⟩ := exists_signed hc
  have hdec := fpDecode_signed hf (neg := neg) hn
  by_cases hmax : n ≤ fmtMaxCode f
  · refine ⟨neg, n, hmax, rfl, fpDecode_finite hf hmax fun h4 hneg h0 => ?_⟩
    rw [if_pos ⟨h4, hneg, h0⟩] at hdec
    simp [fpIsFinite, hdec] at hfin
  have h4 : f ≠ .f4 := by
    rintro rfl
    exact hmax (Nat.lt_succ_iff.mp hn)
  have h43 : f = .e4m3 → n = 127 := by
    rintro rfl
    have hlt : n < 128 := hn
    have hgt : ¬ n ≤ 126 := hmax
    omega
  rw [if_neg (by tauto)] at hdec
  by_cases h43' : f = .e4m3
  · rw [if_pos ⟨h43', h43 h43'⟩] at hdec
    simp [fpIsFinite, hdec] at hfin
  · rw [if_neg (by tauto), if_pos ⟨h4, h43', not_le.mp hmax⟩] at hdec
    unfold fpIsFinite at hfin
    split at hdec <;> simp [hdec] at hfin

theorem ratOf_signed {neg : Bool} {n : ℕ} (hn : n ≤ fmtMaxCode f) (h4 : f = .f4 → neg = true → n ≠ 0) :
    (ratOf f (signed f neg n) : ℝ) = (if neg then -1 else 1) * codeVal f n := by
  rw [ratOf, fpDecode_finite hf hn h4, codeVal]
  cases neg <;> push_cast <;> simp

end

end Sys2Proof.Machine
end

section
/-! `fpRound` rounds once: its code is the place of the exact value among the magnitudes of the format, and its flags are
those of R50 (03, R48 to R50, R57 to R61). -/

namespace Sys2Proof.Machine

open Sys2Proof

/-! ## The place -/

/-- The exponent of the last of the `fmtM f + 1` leading bits of a value whose bits are `m` at weight `2^e`. -/
def leadExp (f : Fmt) (m : ℕ) (e : ℤ) : ℤ := Nat.log2 m + e - fmtM f

/-- The exponent at which `fpRound` rounds: that of the leading bits, or of a subnormal. -/
def roundExp (f : Fmt) (m : ℕ) (e : ℤ) : ℤ := max (leadExp f m e) (fmtQmin f)

/-- The place that `fpRound` gives, continued past the largest finite one. -/
def roundPlace (f : Fmt) (rm : Rm) (neg : Bool) (m : ℕ) (e : ℤ) : ℕ :=
  2 ^ fmtM f * (roundExp f m e - fmtQmin f).toNat + (roundAt rm neg m e (roundExp f m e)).1

/-- The code of the value rounded with unbounded exponent, negative below the least normal place. -/
def unboundedPlace (f : Fmt) (rm : Rm) (neg : Bool) (m : ℕ) (e : ℤ) : ℤ :=
  (leadExp f m e - fmtQmin f) * 2 ^ fmtM f + (roundAt rm neg m e (leadExp f m e)).1

/-- The value is rounded, with unbounded exponent, to the least normal value or beyond it. -/
def ReachesNormal (f : Fmt) (rm : Rm) (neg : Bool) (y : ℝ) : Prop :=
  Beyond rm neg (fun n => (n : ℝ) * 2 ^ (fmtQmin f - 1)) (2 * 2 ^ fmtM f - 1) y

section
variable {f : Fmt} {rm : Rm} {neg : Bool} {m : ℕ} {e : ℤ} {y : ℝ} (hm : m ≠ 0) (hc : Carries (fmtM f) m e y)
include hm hc

theorem leadExp_bounds : ((2 ^ fmtM f : ℕ) : ℝ) * 2 ^ leadExp f m e ≤ y ∧
    y < ((2 * 2 ^ fmtM f : ℕ) : ℝ) * 2 ^ leadExp f m e := by
  have hlead : ∀ k : ℕ, ((2 ^ fmtM f * k : ℕ) : ℝ) * 2 ^ leadExp f m e = ((2 ^ Nat.log2 m * k : ℕ) : ℝ) * 2 ^ e := fun k => by
    have hpow : (2 : ℝ) ^ fmtM f * 2 ^ leadExp f m e = 2 ^ Nat.log2 m * 2 ^ e := by
      rw [← zpow_natCast, ← zpow_natCast, ← zpow_add₀ two_ne_zero, ← zpow_add₀ two_ne_zero]
      congr 1
      unfold leadExp
      omega
    push_cast
    linear_combination (k : ℝ) * hpow
  have hfine : y = m * 2 ^ e ∨ 2 ^ Nat.log2 m % 2 = 0 := hc.imp_right fun ⟨hbig, _⟩ => by
    have hle := (Nat.le_log2 hm).mpr hbig
    obtain ⟨k, hk⟩ := Nat.exists_eq_add_of_le (show 1 ≤ Nat.log2 m by omega)
    rw [hk, Nat.pow_add]
    omega
  have h1 := hlead 1
  have h2 := hlead 2
  rw [Nat.mul_one, Nat.mul_one] at h1
  rw [Nat.mul_comm 2, h1, h2, hc.le_iff hfine, ← not_le, hc.le_iff (.inr (by omega)), not_le, ← Nat.pow_succ]
  exact ⟨Nat.log2_self_le hm, Nat.lt_log2_self⟩

omit hm in
theorem roundAt_leadExp : IsRounding rm neg (fun n => (n : ℝ) * 2 ^ leadExp f m e) y (roundAt rm neg m e (leadExp f m e)).1 :=
  (roundAt_isRounding rm neg hc le_rfl).1

omit hm in
theorem roundAt_roundExp :
    IsRounding rm neg (fun n => (n : ℝ) * 2 ^ roundExp f m e) y (roundAt rm neg m e (roundExp f m e)).1 ∧
    ((roundAt rm neg m e (roundExp f m e)).2 = true ↔ ∀ n : ℕ, y ≠ n * 2 ^ roundExp f m e) :=
  roundAt_isRounding rm neg hc (le_max_left _ _)

theorem roundAt_leadExp_bounds : 2 ^ fmtM f ≤ (roundAt rm neg m e (leadExp f m e)).1 ∧
    (roundAt rm neg m e (leadExp f m e)).1 ≤ 2 * 2 ^ fmtM f :=
  have hb := leadExp_bounds hm hc
  ⟨(roundAt_leadExp hc).ge_of_ge (strictMono_mul_zpow _) hb.1, (roundAt_leadExp hc).le_of_le (strictMono_mul_zpow _) hb.2.le⟩

/-- Below the least normal value, the place is at most that of the least normal value. -/
theorem roundAt_subnormal (h : leadExp f m e < fmtQmin f) :
    y < ((2 ^ fmtM f : ℕ) : ℝ) * 2 ^ fmtQmin f ∧ roundExp f m e = fmtQmin f ∧
      (roundAt rm neg m e (roundExp f m e)).1 ≤ 2 ^ fmtM f := by
  have hexp : roundExp f m e = fmtQmin f := max_eq_right h.le
  have hy : y < ((2 ^ fmtM f : ℕ) : ℝ) * 2 ^ fmtQmin f := by
    refine (leadExp_bounds hm hc).2.trans_le ?_
    have hpow : (2 : ℝ) ^ (leadExp f m e + 1) ≤ 2 ^ fmtQmin f := zpow_le_zpow_right₀ one_le_two (by omega)
    rw [zpow_add_one₀ two_ne_zero] at hpow
    push_cast
    nlinarith [pow_pos (two_pos (α := ℝ)) (fmtM f)]
  refine ⟨hy, hexp, (roundAt_roundExp hc).1.le_of_le (strictMono_mul_zpow _) ?_⟩
  rw [hexp]
  exact hy.le

/-- The significand that is rounded lies within one exponent's places. -/
theorem roundAt_range : (roundAt rm neg m e (roundExp f m e)).1 ≤ 2 * 2 ^ fmtM f ∧
    ((roundExp f m e - fmtQmin f).toNat = 0 ∨ ((2 ^ fmtM f : ℕ) : ℝ) * 2 ^ roundExp f m e ≤ y) ∧
    y < ((2 * 2 ^ fmtM f : ℕ) : ℝ) * 2 ^ roundExp f m e := by
  rcases lt_or_ge (leadExp f m e) (fmtQmin f) with hlt | hge
  · obtain ⟨hy, hexp, hr⟩ := roundAt_subnormal (rm := rm) (neg := neg) hm hc hlt
    refine ⟨by omega, .inl (by omega), hexp ▸ hy.trans_le ?_⟩
    gcongr
    omega
  · have hexp : roundExp f m e = leadExp f m e := max_eq_left hge
    rw [hexp]
    exact ⟨(roundAt_leadExp_bounds hm hc).2, .inr (leadExp_bounds hm hc).1, (leadExp_bounds hm hc).2⟩

theorem codeVal_roundPlace : codeVal f (roundPlace f rm neg m e) =
    (roundAt rm neg m e (roundExp f m e)).1 * 2 ^ roundExp f m e := by
  obtain ⟨hr, hlow, -⟩ := roundAt_range (rm := rm) (neg := neg) hm hc
  rw [roundPlace, codeVal_binade f hr (hlow.imp_right fun h => (roundAt_roundExp hc).1.ge_of_ge (strictMono_mul_zpow _) h)]
  have : fmtQmin f ≤ roundExp f m e := le_max_right _ _
  congr 2
  omega

/-- `fpRound` gives the place to which the mode rounds the exact value among the magnitudes of the format. -/
theorem roundPlace_isRounding (hf : fmtIsInt f = false) : IsRounding rm neg (codeVal f) y (roundPlace f rm neg m e) := by
  have hround := (roundAt_roundExp (rm := rm) (neg := neg) hc).1
  obtain ⟨hr, hlow, hhigh⟩ := roundAt_range (rm := rm) (neg := neg) hm hc
  have hmono := codeVal_strictMono f
  have hqmin : fmtQmin f ≤ roundExp f m e := le_max_right _ _
  have hplace : ∀ i ≤ 2 * 2 ^ fmtM f, ((roundExp f m e - fmtQmin f).toNat = 0 ∨ 2 ^ fmtM f ≤ i) →
      codeVal f (2 ^ fmtM f * (roundExp f m e - fmtQmin f).toNat + i) = i * 2 ^ roundExp f m e := fun i hi hj => by
    rw [codeVal_binade f hi hj]
    congr 2
    omega
  intro n
  unfold roundPlace
  generalize (roundExp f m e - fmtQmin f).toNat = j at *
  rcases lt_or_ge n (2 ^ fmtM f * j + 2 * 2 ^ fmtM f) with hn | hn
  · by_cases hin : j = 0 ∨ 2 ^ fmtM f * j + 2 ^ fmtM f ≤ n
    · obtain ⟨i, rfl⟩ : ∃ i, n = 2 ^ fmtM f * j + i := Nat.exists_eq_add_of_le (by rcases hin with rfl | h <;> omega)
      have hi : j = 0 ∨ 2 ^ fmtM f ≤ i := hin.imp_right (by omega)
      have hpar : (2 ^ fmtM f * j + i) % 2 = i % 2 := by
        rw [Nat.add_mod, Nat.mul_mod, two_pow_fmtM_even hf, Nat.zero_mul, Nat.zero_mod, Nat.zero_add, Nat.mod_mod]
      rw [Nat.add_lt_add_iff_left, hround i]
      exact (beyond_congr (hplace i (by omega) hi) (hplace (i + 1) (by omega) (hi.imp_right (by omega))) hpar).symm
    · have hfirst := hlow.resolve_left (by tauto)
      have hge := hround.ge_of_ge (strictMono_mul_zpow _) hfirst
      refine iff_of_true (by omega) (beyond_of_succ_le hmono ?_)
      calc codeVal f (n + 1) ≤ codeVal f (2 ^ fmtM f * j + 2 ^ fmtM f) := hmono.monotone (by omega)
        _ = ((2 ^ fmtM f : ℕ) : ℝ) * 2 ^ roundExp f m e := hplace _ (by omega) (.inr le_rfl)
        _ ≤ y := hfirst
  · refine iff_of_false (by omega) (not_beyond_of_le hmono (hhigh.le.trans ?_))
    rw [← hplace _ le_rfl (.inr (by omega))]
    exact hmono.monotone hn

theorem max_lt_unboundedPlace (hf : fmtIsInt f = false) :
    (fmtMaxCode f : ℤ) < unboundedPlace f rm neg m e ↔ fmtMaxCode f < roundPlace f rm neg m e := by
  have hmax := two_pow_fmtM_le_max hf
  unfold unboundedPlace roundPlace
  rcases lt_or_ge (leadExp f m e) (fmtQmin f) with hlt | hge
  · obtain ⟨-, hexp, hr⟩ := roundAt_subnormal (rm := rm) (neg := neg) hm hc hlt
    have hu := (roundAt_leadExp_bounds (rm := rm) (neg := neg) hm hc).2
    have hneg : (leadExp f m e - fmtQmin f) * 2 ^ fmtM f ≤ -1 * 2 ^ fmtM f :=
      mul_le_mul_of_nonneg_right (by omega) (by positivity)
    zify at hmax hu hr ⊢
    rw [show (roundExp f m e - fmtQmin f).toNat = 0 by omega]
    exact iff_of_false (by linarith) (by push_cast; linarith)
  · rw [show roundExp f m e = leadExp f m e from max_eq_left hge]
    zify
    rw [Int.toNat_of_nonneg (by omega), mul_comm]

theorem unboundedPlace_lt :
    unboundedPlace f rm neg m e < (2 ^ fmtM f : ℕ) ↔ ¬ ReachesNormal f rm neg y := by
  have hB := Nat.two_pow_pos (fmtM f)
  obtain ⟨hlo, hhi⟩ := roundAt_leadExp_bounds (rm := rm) (neg := neg) hm hc
  obtain ⟨hylo, hyhi⟩ := leadExp_bounds hm hc
  have hmono := strictMono_mul_zpow (fmtQmin f - 1)
  unfold unboundedPlace ReachesNormal
  rcases lt_trichotomy (leadExp f m e) (fmtQmin f - 1) with hlt | heq | hgt
  · have hneg : (leadExp f m e - fmtQmin f) * ((2 ^ fmtM f : ℕ) : ℤ) ≤ -2 * (2 ^ fmtM f : ℕ) :=
      mul_le_mul_of_nonneg_right (by omega) (by omega)
    refine iff_of_true (by push_cast at hneg ⊢; zify at hhi hB; linarith) (not_beyond_of_le hmono (hyhi.le.trans ?_))
    have hpow : (2 : ℝ) ^ (leadExp f m e + 1) ≤ 2 ^ (fmtQmin f - 1) := zpow_le_zpow_right₀ one_le_two (by omega)
    rw [zpow_add_one₀ two_ne_zero] at hpow
    have hsig : ((2 ^ fmtM f : ℕ) : ℝ) ≤ ((2 * 2 ^ fmtM f - 1 : ℕ) : ℝ) := by
      exact_mod_cast (by omega : 2 ^ fmtM f ≤ 2 * 2 ^ fmtM f - 1)
    calc ((2 * 2 ^ fmtM f : ℕ) : ℝ) * 2 ^ leadExp f m e = ((2 ^ fmtM f : ℕ) : ℝ) * (2 ^ leadExp f m e * 2) := by
          push_cast; ring
      _ ≤ ((2 * 2 ^ fmtM f - 1 : ℕ) : ℝ) * 2 ^ (fmtQmin f - 1) := by gcongr
  · rw [← heq, ← roundAt_leadExp hc (2 * 2 ^ fmtM f - 1), heq]
    have hcast : (2 : ℤ) ^ fmtM f = (2 ^ fmtM f : ℕ) := by norm_cast
    rw [hcast, show fmtQmin f - 1 - fmtQmin f = -1 by omega]
    omega
  · have hpos : 0 ≤ (leadExp f m e - fmtQmin f) * ((2 ^ fmtM f : ℕ) : ℤ) := mul_nonneg (by omega) (by omega)
    refine iff_of_false (by push_cast at hpos ⊢; zify at hlo; linarith) (not_not.mpr (beyond_of_succ_le hmono ?_))
    refine le_trans (le_of_eq ?_) (le_trans (mul_le_mul_of_nonneg_left
      (zpow_le_zpow_right₀ one_le_two (by omega : fmtQmin f ≤ leadExp f m e)) (Nat.cast_nonneg _)) hylo)
    rw [show 2 * 2 ^ fmtM f - 1 + 1 = 2 * 2 ^ fmtM f by omega, zpow_sub_one₀ two_ne_zero]
    push_cast
    ring

end

end Sys2Proof.Machine
end

section
/-! The rounding of `fpRound` is the one of the statements: its code is the nearest in the sense of Table 3-5, its overflow and
its tininess are those of R50 (03, R48 to R50, R58, R59). -/

namespace Sys2Proof.Machine

open Sys2Proof

/-! ## What `fpRound` answers -/

section
variable {f : Fmt} {rm : Rm} {neg : Bool} {m : ℕ} {e : ℤ} {y : ℝ}

/-- `fpRound` of a value that is not 0, by its place. -/
theorem fpRound_place (hm : m ≠ 0) (hc : Carries (fmtM f) m e y) (hf : fmtIsInt f = false) (ov : OvKind) :
    fpRound f rm ov neg m e =
      if fmtMaxCode f < roundPlace f rm neg m e then (ovCode f rm (decide (ov = .sat)) neg, flOverflow ||| flInexact)
      else (placeCode f neg (roundPlace f rm neg m e),
        flagIf (roundAt rm neg m e (roundExp f m e)).2 flInexact |||
          flagIf ((roundAt rm neg m e (roundExp f m e)).2 && decide (unboundedPlace f rm neg m e < (2 ^ fmtM f : ℕ)))
            flUnderflow) := by
  have hcode : ((roundExp f m e - fmtQmin f) * 2 ^ fmtM f + (roundAt rm neg m e (roundExp f m e)).1).toNat =
      roundPlace f rm neg m e := by
    have hq : fmtQmin f ≤ roundExp f m e := le_max_right _ _
    unfold roundPlace
    zify
    rw [Int.toNat_of_nonneg (by have : 0 ≤ roundExp f m e - fmtQmin f := by omega
                                positivity), Int.toNat_of_nonneg (by omega), mul_comm]
  simp only [← max_lt_unboundedPlace hm hc hf]
  rw [← hcode]
  simp only [fpRound, if_neg hm]
  by_cases hov : (fmtMaxCode f : ℤ) < unboundedPlace f rm neg m e
  · rw [if_pos hov]
    refine (if_pos hov).trans ?_
    cases ov
    case sat => rfl
    case ieee => cases rm <;> cases neg <;> rfl
  · rw [if_neg hov]
    refine (if_neg hov).trans ?_
    by_cases hzero : f = .f4 ∧ ((roundExp f m e - fmtQmin f) * 2 ^ fmtM f + (roundAt rm neg m e (roundExp f m e)).1).toNat = 0
    · rw [placeCode, if_pos hzero]
      exact if_pos hzero
    · rw [placeCode, if_neg hzero]
      exact if_neg hzero

/-- The result is inexact exactly when the value is no place of the format. -/
theorem inexact_iff (hm : m ≠ 0) (hc : Carries (fmtM f) m e y) :
    (roundAt rm neg m e (roundExp f m e)).2 = true ↔ y ≠ codeVal f (roundPlace f rm neg m e) := by
  obtain ⟨hround, hinex⟩ := roundAt_roundExp (rm := rm) (neg := neg) hc
  rw [hinex, codeVal_roundPlace hm hc, ← not_exists_not]
  simp only [not_not]
  exact (hround.eq_iff (strictMono_mul_zpow _)).not

/-- What `fpRound` answers for a value `y` of sign `neg` whose place is `c`: the code of an overflow, or that of the place with
the flags of R50. -/
structure RoundedAt (f : Fmt) (rm : Rm) (ov : OvKind) (neg : Bool) (y : ℝ) (c : ℕ) (r : ℕ × Flags) : Prop where
  place : IsRounding rm neg (codeVal f) y c
  ovfl  : fmtMaxCode f < c → r = (ovCode f rm (decide (ov = .sat)) neg, flOverflow ||| flInexact)
  code  : c ≤ fmtMaxCode f → r.1 = placeCode f neg c
  exact : c ≤ fmtMaxCode f → y = codeVal f c → r.2 = 0
  small : c ≤ fmtMaxCode f → y ≠ codeVal f c → ¬ ReachesNormal f rm neg y → r.2 = flInexact ||| flUnderflow
  large : c ≤ fmtMaxCode f → y ≠ codeVal f c → ReachesNormal f rm neg y → r.2 = flInexact

theorem fpRound_roundedAt (hm : m ≠ 0) (hc : Carries (fmtM f) m e y) (hf : fmtIsInt f = false) (ov : OvKind) :
    RoundedAt f rm ov neg y (roundPlace f rm neg m e) (fpRound f rm ov neg m e) := by
  have hinex := inexact_iff (rm := rm) (neg := neg) hm hc
  have htiny := unboundedPlace_lt (rm := rm) (neg := neg) hm hc
  have heq := fpRound_place (rm := rm) (neg := neg) hm hc hf ov
  refine ⟨roundPlace_isRounding hm hc hf, fun h => heq.trans (if_pos h), fun h => ?_, fun h hy => ?_, fun h hy ht => ?_,
    fun h hy ht => ?_⟩ <;> rw [heq, if_neg (not_lt.mpr h)]
  · rw [Bool.eq_false_iff.mpr (mt hinex.mp (not_not.mpr hy))]
    simp [flagIf]
  · rw [hinex.mpr hy, decide_eq_true (htiny.mpr ht)]
    rfl
  · rw [hinex.mpr hy, decide_eq_false (mt htiny.mp (not_not.mpr ht))]
    rfl

end

/-! ## Overflow and tininess (R50) -/

section
variable {f : Fmt} (hf : fmtIsInt f = false) {rm : Rm} {x : ℝ}
include hf

theorem ratOf_place {n : ℕ} (hn : n ≤ fmtMaxCode f) : (ratOf f n : ℝ) = codeVal f n := by
  simpa [signed] using ratOf_signed hf (neg := false) hn (by simp)

theorem overflows_iff (hx : x ≠ 0) :
    Overflows f rm x ↔ Beyond rm (decide (x < 0)) (codeVal f) (fmtMaxCode f) |x| := by
  have hmax := two_pow_fmtM_le_max hf
  have hpos := Nat.two_pow_pos (fmtM f)
  have hulp : codeVal f (fmtMaxCode f + 1) = codeVal f (fmtMaxCode f) +
      (codeVal f (fmtMaxCode f) - codeVal f (fmtMaxCode f - 1)) := by
    have hpred := codeVal_succ f (fmtMaxCode f - 1)
    rw [Nat.sub_add_cancel (by omega), codeExp_max_pred hf] at hpred
    rw [codeVal_succ, hpred]
    ring
  simp only [Overflows, ratOf_place hf le_rfl, ratOf_place hf (Nat.sub_le _ 1), Beyond, hulp]
  cases rm
  case rne =>
    simp only [awayFrom, towardZero, reduceCtorEq, false_and, or_false, true_and]
    refine or_congr ?_ (and_congr_left fun _ => ?_) <;> constructor <;> intro <;> linarith
  case rtz => simp [awayFrom, towardZero]
  case rdn => rcases hx.lt_or_gt with h | h <;> simp [awayFrom, towardZero, h, h.not_gt]
  case rup => rcases hx.lt_or_gt with h | h <;> simp [awayFrom, towardZero, h, h.not_gt]

theorem tiny_iff (hx : x ≠ 0) : Tiny f rm x ↔ ¬ ReachesNormal f rm (decide (x < 0)) |x| := by
  have hB := Nat.two_pow_pos (fmtM f)
  have hleast : (ratOf f (2 ^ fmtM f) : ℝ) = 2 * ((2 ^ fmtM f : ℕ) : ℝ) * 2 ^ (fmtQmin f - 1) := by
    rw [ratOf_place hf (two_pow_fmtM_le_max hf), zpow_sub_one₀ two_ne_zero]
    have := codeVal_binade f (j := 0) (i := 2 ^ fmtM f) (by omega) (.inl rfl)
    simp only [Nat.mul_zero, Nat.zero_add, Nat.cast_zero, add_zero] at this
    rw [this]
    ring
  have hstep : (ratOf f 1 : ℝ) = 2 * 2 ^ (fmtQmin f - 1) := by
    rw [ratOf_place hf (hB.trans_le (two_pow_fmtM_le_max hf)), zpow_sub_one₀ two_ne_zero]
    have := codeVal_binade f (j := 0) (i := 1) (by omega) (.inl rfl)
    simp only [Nat.mul_zero, Nat.zero_add, Nat.cast_zero, add_zero, Nat.cast_one, one_mul] at this
    rw [this]
    ring
  have hpred : ((2 * 2 ^ fmtM f - 1 : ℕ) : ℝ) = 2 * ((2 ^ fmtM f : ℕ) : ℝ) - 1 := by
    rw [Nat.cast_sub (by omega)]
    push_cast
    ring
  have hnext : ((2 * 2 ^ fmtM f - 1 + 1 : ℕ) : ℝ) = 2 * ((2 ^ fmtM f : ℕ) : ℝ) := by
    rw [Nat.sub_add_cancel (by omega)]
    push_cast
    ring
  simp only [Tiny, ReachesNormal, hleast, hstep, Beyond, hpred, hnext]
  cases rm
  case rne =>
    have hodd : (2 * 2 ^ fmtM f - 1) % 2 = 1 := by omega
    simp only [awayFrom, towardZero, reduceCtorEq, false_and, or_false, true_and, hodd, and_true, ← le_iff_lt_or_eq,
      not_le]
    constructor <;> intro <;> linarith
  case rtz => simp [awayFrom, towardZero]
  case rdn => rcases hx.lt_or_gt with h | h <;> simp [awayFrom, towardZero, h, h.not_gt, sub_mul]
  case rup => rcases hx.lt_or_gt with h | h <;> simp [awayFrom, towardZero, h, h.not_gt, sub_mul]

end

end Sys2Proof.Machine
end

section
/-! A rounding of the statements: the place of a value is the nearest of the format's values in the mode's sense, so `fpRound`
rounds the value that its bits carry (03, R48, R49). -/

namespace Sys2Proof.Machine

open Sys2Proof

/-! ## Places and neighbours -/

/-- `z` is a place of `v` or the opposite of one. -/
def IsPlace (v : ℕ → ℝ) (z : ℝ) : Prop := ∃ n, z = v n ∨ z = -v n

theorem IsPlace.neg {v : ℕ → ℝ} {z : ℝ} (h : IsPlace v z) : IsPlace v (-z) := by
  obtain ⟨n, hn⟩ := h
  exact ⟨n, by rwa [neg_inj, neg_eq_iff_eq_neg, or_comm]⟩

theorem IsPlace.abs {v : ℕ → ℝ} {z : ℝ} (h : IsPlace v z) : IsPlace v |z| := by
  rcases abs_choice z with hz | hz <;> rw [hz]
  · exact h
  · exact h.neg

section
variable {rm : Rm} {neg : Bool} {v : ℕ → ℝ} {y : ℝ} {c : ℕ} (hv : StrictMono v)
include hv

/-- To nearest: no place is closer, and a tie goes to the even place. -/
theorem IsRounding.nearest (h : IsRounding .rne neg v y c) (n : ℕ) :
    |v c - y| ≤ |v n - y| ∧ (|v c - y| = |v n - y| → n ≠ c → c % 2 = 0) := by
  rcases lt_trichotomy n c with hn | rfl | hn
  · obtain ⟨k, rfl⟩ : ∃ k, c = k + 1 := ⟨c - 1, by omega⟩
    have hb : v k + v (k + 1) ≤ 2 * y := ((h k).mp k.lt_succ_self).elim le_of_lt fun hb => hb.1.le
    have hnk : v n ≤ v k := hv.monotone (by omega)
    have hk : v k < v (k + 1) := hv k.lt_succ_self
    rw [abs_of_nonpos (by linarith : v n - y ≤ 0)]
    refine ⟨abs_le.mpr ⟨by linarith, by linarith⟩, fun heq _ => ?_⟩
    rcases (h k).mp k.lt_succ_self with hlt | ⟨-, hodd⟩
    · have : |v (k + 1) - y| < -(v n - y) := abs_lt.mpr ⟨by linarith, by linarith⟩
      linarith
    · omega
  · exact ⟨le_rfl, fun _ hne => absurd rfl hne⟩
  · have hb : ¬ Beyond .rne neg v c y := (h c).not.mp (lt_irrefl c)
    simp only [Beyond, not_or, not_lt, not_and] at hb
    obtain ⟨hle, hodd⟩ := hb
    have hnc : v (c + 1) ≤ v n := hv.monotone (by omega)
    have hc : v c < v (c + 1) := hv c.lt_succ_self
    rw [abs_of_nonneg (by linarith : 0 ≤ v n - y)]
    refine ⟨abs_le.mpr ⟨by linarith, by linarith⟩, fun heq _ => ?_⟩
    rcases hle.lt_or_eq with hlt | htie
    · have : |v c - y| < v n - y := abs_lt.mpr ⟨by linarith, by linarith⟩
      linarith
    · have := hodd htie.symm
      omega

/-- To nearest, where the places have opposites: none of these is closer either. -/
theorem IsRounding.nearest_signed (h : IsRounding .rne neg v y c) (h0 : v 0 = 0) (hy : 0 < y) {z : ℝ}
    (hz : IsPlace v z) : |v c - y| ≤ |z - y| ∧ (|v c - y| = |z - y| → z ≠ v c → c % 2 = 0) := by
  obtain ⟨n, rfl | rfl⟩ := hz
  · exact ⟨(h.nearest hv n).1, fun heq hne => (h.nearest hv n).2 heq fun hn => hne (hn ▸ rfl)⟩
  obtain ⟨hle, htie⟩ := h.nearest hv 0
  have hn : 0 ≤ v n := h0 ▸ hv.monotone n.zero_le
  rw [h0, abs_of_neg (by linarith : (0 : ℝ) - y < 0)] at hle htie
  rw [abs_of_neg (by linarith : -v n - y < 0)]
  refine ⟨by linarith, fun heq hne => htie (by linarith) ?_⟩
  rintro rfl
  exact hne (by linarith)

/-- Toward zero, where the places have opposites: the greatest of all these not above the magnitude. -/
theorem floor_place (h : ∀ n, n < c ↔ v (n + 1) ≤ y) (h0 : v 0 = 0) (hy : 0 < y) :
    v c ≤ y ∧ ∀ z, IsPlace v z → z ≤ y → z ≤ v c := by
  refine ⟨?_, ?_⟩
  · cases c with
    | zero => exact h0.trans_le hy.le
    | succ k => exact (h k).mp k.lt_succ_self
  have hnn : ∀ n, 0 ≤ v n := fun n => h0 ▸ hv.monotone n.zero_le
  rintro z ⟨n, rfl | rfl⟩ hz
  · refine hv.monotone ?_
    cases n with
    | zero => exact c.zero_le
    | succ k => exact (h k).mpr hz
  · linarith [hnn n, hnn c]

/-- Away from zero, where the places have opposites: the least of all these not below the magnitude. -/
theorem ceil_place (h : ∀ n, n < c ↔ v n < y) (h0 : v 0 = 0) (hy : 0 < y) :
    y ≤ v c ∧ ∀ z, IsPlace v z → y ≤ z → v c ≤ z := by
  refine ⟨not_lt.mp ((h c).not.mp (lt_irrefl c)), ?_⟩
  rintro z ⟨n, rfl | rfl⟩ hz
  · exact hv.monotone (not_lt.mp ((h n).not.mpr (not_lt.mpr hz)))
  · have : 0 ≤ v n := h0 ▸ hv.monotone n.zero_le
    linarith

end

/-! ## The nearest code -/

section
variable {f : Fmt} (hf : fmtIsInt f = false) {rm : Rm} {x : ℝ} {c : ℕ}
include hf

/-- A finite value is a magnitude of the format or its opposite. -/
theorem isPlace_ratOf {z : ℕ} (hz : z < 2 ^ fmtBits f) (hfin : fpIsFinite f z = true) :
    IsPlace (codeVal f) (ratOf f z) := by
  obtain ⟨neg, n, -, -, hdec⟩ := exists_of_finite hf hz hfin
  refine ⟨n, ?_⟩
  rw [ratOf, hdec, codeVal]
  cases neg <;> simp

theorem placeCode_spec (neg : Bool) (hc : c ≤ fmtMaxCode f) :
    placeCode f neg c < 2 ^ fmtBits f ∧ fpIsFinite f (placeCode f neg c) = true ∧
      (ratOf f (placeCode f neg c) : ℝ) = (if neg then -1 else 1) * codeVal f c ∧ placeCode f neg c % 2 = c % 2 := by
  have hlt := hc.trans_lt (fmtMaxCode_lt_sign hf)
  unfold placeCode
  split
  next h =>
    obtain ⟨rfl, rfl⟩ := h
    have hdec := fpDecode_finite hf (neg := false) hc (by simp)
    have hrat := ratOf_place hf hc
    exact ⟨by decide, by decide, by simp [hrat], rfl⟩
  next h =>
    have h4 : f = .f4 → neg = true → c ≠ 0 := fun h4 _ h0 => h ⟨h4, h0⟩
    refine ⟨signed_lt hlt, by simp [fpIsFinite, fpDecode_finite hf hc h4], ratOf_signed hf hc h4, ?_⟩
    have := fmtSign_even hf
    unfold signed
    split <;> omega

theorem codeVal_eq_zero_of_ratOf {neg : Bool} (hc : c ≤ fmtMaxCode f) (h : ratOf f (placeCode f neg c) = 0) :
    codeVal f c = 0 := by
  have hval := (placeCode_spec hf neg hc).2.2.1
  rw [h, Rat.cast_zero] at hval
  cases neg <;> simpa using hval.symm

omit hf in
theorem placeCode_zero (neg : Bool) : placeCode f neg 0 = if neg = true ∧ f ≠ .f4 then fmtSign f else 0 := by
  cases neg <;> by_cases h : f = .f4 <;> simp [placeCode, signed, h]

/-- The code of the place to which a positive value is rounded is the nearest in the mode's sense. -/
theorem nearest_of_pos (hx : 0 < x) (h : IsRounding rm false (codeVal f) x c) (hc : c ≤ fmtMaxCode f) :
    Nearest f rm x (placeCode f false c) := by
  obtain ⟨hlt, hfin, hval, hpar⟩ := placeCode_spec hf false hc
  rw [if_neg Bool.false_ne_true, one_mul] at hval
  have hmono := codeVal_strictMono f
  have hzero := codeVal_zero f
  refine ⟨hlt, hfin, ?_, ?_, ?_, ?_, fun h0 => ⟨fun hneg => absurd hneg.1 hx.not_gt, fun _ => ?_⟩⟩
  · rintro rfl z hz hzf
    have hnear := h.nearest_signed hmono hzero hx (isPlace_ratOf hf hz hzf)
    rw [← hval] at hnear
    exact ⟨hnear.1, fun heq hne => hpar ▸ hnear.2 heq fun h => hne (by exact_mod_cast h)⟩
  · rintro rfl
    obtain ⟨hle, hmax⟩ := floor_place hmono (fun n => h n) hzero hx
    rw [hval, abs_of_nonneg (codeVal_nonneg f c), abs_of_pos hx]
    exact ⟨hle, mul_nonneg (codeVal_nonneg f c) hx.le, fun z hz hzf => hmax _ (isPlace_ratOf hf hz hzf).abs⟩
  · rintro rfl
    obtain ⟨hle, hmax⟩ := floor_place hmono (fun n => h n) hzero hx
    rw [hval]
    exact ⟨hle, fun z hz hzf => hmax _ (isPlace_ratOf hf hz hzf)⟩
  · rintro rfl
    obtain ⟨hge, hmin⟩ := ceil_place hmono (fun n => h n) hzero hx
    rw [hval]
    exact ⟨hge, fun z hz hzf => hmin _ (isPlace_ratOf hf hz hzf)⟩
  · rw [codeVal_eq_zero.mp (codeVal_eq_zero_of_ratOf hf hc h0), placeCode_zero]
    simp

/-- The code of the place to which a negative value's magnitude is rounded is the nearest in the mode's sense. -/
theorem nearest_of_neg (hx : x < 0) (h : IsRounding rm true (codeVal f) (-x) c) (hc : c ≤ fmtMaxCode f) :
    Nearest f rm x (placeCode f true c) := by
  obtain ⟨hlt, hfin, hval, hpar⟩ := placeCode_spec hf true hc
  rw [if_pos rfl, neg_one_mul] at hval
  have hmono := codeVal_strictMono f
  have hzero := codeVal_zero f
  have hpos : 0 < -x := neg_pos.mpr hx
  refine ⟨hlt, hfin, ?_, ?_, ?_, ?_, fun h0 => ?_⟩
  · rintro rfl z hz hzf
    have hnear := h.nearest_signed hmono hzero hpos (isPlace_ratOf hf hz hzf).neg
    rw [← neg_eq_iff_eq_neg.mpr hval, neg_sub_neg, neg_sub_neg, abs_sub_comm x, abs_sub_comm x] at hnear
    exact ⟨hnear.1, fun heq hne => hpar ▸ hnear.2 heq fun h => hne (by exact_mod_cast neg_inj.mp h)⟩
  · rintro rfl
    obtain ⟨hle, hmax⟩ := floor_place hmono (fun n => h n) hzero hpos
    rw [hval, abs_neg, abs_of_nonneg (codeVal_nonneg f c), abs_of_neg hx]
    exact ⟨hle, by nlinarith [codeVal_nonneg f c], fun z hz hzf => hmax _ (isPlace_ratOf hf hz hzf).abs⟩
  · rintro rfl
    obtain ⟨hge, hmin⟩ := ceil_place hmono (fun n => h n) hzero hpos
    rw [hval]
    exact ⟨neg_le.mp hge, fun z hz hzf hle => le_neg.mp (hmin _ (isPlace_ratOf hf hz hzf).neg (neg_le_neg hle))⟩
  · rintro rfl
    obtain ⟨hle, hmax⟩ := floor_place hmono (fun n => h n) hzero hpos
    rw [hval]
    exact ⟨le_neg.mp hle, fun z hz hzf hge => neg_le.mp (hmax _ (isPlace_ratOf hf hz hzf).neg (neg_le_neg hge))⟩
  · rw [codeVal_eq_zero.mp (codeVal_eq_zero_of_ratOf hf hc h0), placeCode_zero]
    exact ⟨fun h => if_pos ⟨rfl, h.2⟩, fun h => if_neg fun h' => h.elim hx.not_gt h'.2⟩

/-- `fpRound` rounds once the value that its bits carry. -/
theorem fpRound_roundsTo (rm : Rm) (ov : OvKind) (hx : x ≠ 0) {m : ℕ} {e : ℤ} (hcar : Carries (fmtM f) m e |x|) :
    RoundsTo f rm (decide (ov = .sat)) x (fpRound f rm ov (decide (x < 0)) m e) := by
  have hm : m ≠ 0 := by
    rintro rfl
    have hpos := abs_pos.mpr hx
    rcases hcar with hy | ⟨hbig, -⟩
    · simp [hy] at hpos
    · exact absurd hbig (Nat.two_pow_pos _).not_ge
  have hr := fpRound_roundedAt (rm := rm) (neg := decide (x < 0)) hm hcar hf ov
  generalize roundPlace f rm (decide (x < 0)) m e = c at hr
  have hover : Overflows f rm x ↔ fmtMaxCode f < c := (overflows_iff hf hx).trans (hr.place _).symm
  have htiny := tiny_iff hf (rm := rm) hx
  have hvalue : c ≤ fmtMaxCode f →
      ((ratOf f (fpRound f rm ov (decide (x < 0)) m e).1 : ℝ) = x ↔ |x| = codeVal f c) := fun h => by
    rw [hr.code h, (placeCode_spec hf _ h).2.2.1]
    rcases hx.lt_or_gt with hneg | hgt
    · rw [abs_of_neg hneg, decide_eq_true hneg, if_pos rfl, neg_one_mul, neg_eq_iff_eq_neg, eq_comm]
    · rw [abs_of_pos hgt, decide_eq_false hgt.not_gt, if_neg Bool.false_ne_true, one_mul, eq_comm]
  refine ⟨fun h hpos => ?_, fun h hneg => ?_, fun h => ?_, fun h hv => ?_, fun h hv ht => ?_, fun h hv ht => ?_⟩
  all_goals rw [hover] at h
  · rw [hr.ovfl h, decide_eq_false hpos.not_gt]
  · rw [hr.ovfl h, decide_eq_true hneg]
  · have hc := not_lt.mp h
    rw [hr.code hc]
    rcases hx.lt_or_gt with hneg | hgt
    · have hplace := hr.place
      rw [decide_eq_true hneg, abs_of_neg hneg] at hplace
      rw [decide_eq_true hneg]
      exact nearest_of_neg hf hneg hplace hc
    · have hplace := hr.place
      rw [decide_eq_false hgt.not_gt, abs_of_pos hgt] at hplace
      rw [decide_eq_false hgt.not_gt]
      exact nearest_of_pos hf hgt hplace hc
  · exact hr.exact (not_lt.mp h) ((hvalue (not_lt.mp h)).mp hv)
  · exact hr.small (not_lt.mp h) (mt (hvalue (not_lt.mp h)).mpr hv) (htiny.mp ht)
  · exact hr.large (not_lt.mp h) (mt (hvalue (not_lt.mp h)).mpr hv) (not_not.mp (mt htiny.mpr ht))

end

end Sys2Proof.Machine
end

section
/-! The arithmetic of finite operands: the exact value that each operation forms, and the bits that carry it to `fpRound`
(03, R51; 07, R167). -/

namespace Sys2Proof.Machine

open Sys2Proof

/-! ## Decoded values and dyadic numbers as reals -/

/-- The value of a finite decoded code. -/
noncomputable def finReal (n : Bool) (m : ℕ) (e : ℤ) : ℝ := (if n then -1 else 1) * m * 2 ^ e

/-- The value of an exact dyadic number. -/
noncomputable def dyReal (a : Dy) : ℝ := a.m * 2 ^ a.e

theorem ratOf_eq_finReal {f : Fmt} {c m : ℕ} {n : Bool} {e : ℤ} (h : fpDecode f c = .fin n m e) :
    (ratOf f c : ℝ) = finReal n m e := by
  rw [ratOf, h, finReal]
  cases n <;> push_cast <;> simp

theorem dyReal_ofFin (n : Bool) (m : ℕ) (e : ℤ) : dyReal (dyOfFin n m e) = finReal n m e := by
  cases n <;> simp [dyReal, dyOfFin, finReal]

/-- A dyadic number is its magnitude with its sign. -/
theorem dyOfFin_natAbs (a : Dy) : dyOfFin (decide (a.m < 0)) a.m.natAbs a.e = a := by
  obtain ⟨m, e⟩ := a
  have hsign : (if m < 0 then -(m.natAbs : ℤ) else m.natAbs) = m := by split <;> omega
  simp only [dyOfFin, decide_eq_true_eq, hsign]

theorem dyReal_add (a b : Dy) : dyReal (dyAdd a b) = dyReal a + dyReal b := by
  have hshift : ∀ (i : ℤ) {e k : ℤ}, k ≤ e → (i : ℝ) * 2 ^ (e - k).toNat * 2 ^ k = i * 2 ^ e := fun i e k hk => by
    rw [mul_assoc, ← zpow_natCast, ← zpow_add₀ two_ne_zero, Int.toNat_of_nonneg (by omega), Int.sub_add_cancel]
  simp only [dyReal, dyAdd]
  push_cast
  rw [add_mul, hshift _ (min_le_left _ _), hshift _ (min_le_right _ _)]

theorem finReal_mul (n n' : Bool) (m m' : ℕ) (e e' : ℤ) :
    finReal (n != n') (m * m') (e + e') = finReal n m e * finReal n' m' e' := by
  unfold finReal
  rw [zpow_add₀ two_ne_zero]
  cases n <;> cases n' <;> push_cast <;> simp <;> ring

theorem finReal_not (n : Bool) (m : ℕ) (e : ℤ) : finReal (!n) m e = -finReal n m e := by
  cases n <;> simp [finReal]

theorem finReal_eq_zero {n : Bool} {m : ℕ} {e : ℤ} : finReal n m e = 0 ↔ m = 0 := by
  cases n <;> simp [finReal, zpow_ne_zero]

theorem abs_finReal (n : Bool) (m : ℕ) (e : ℤ) : |finReal n m e| = m * 2 ^ e := by
  have : (0 : ℝ) ≤ m * 2 ^ e := by positivity
  cases n <;> simp [finReal, abs_of_nonneg this]

theorem finReal_neg_iff {n : Bool} {m : ℕ} {e : ℤ} (h : m ≠ 0) : finReal n m e < 0 ↔ n = true := by
  have hpos : (0 : ℝ) < m * 2 ^ e := by positivity
  cases n
  · simp [finReal, hpos.le]
  · simp [finReal, hpos]

theorem dyReal_eq_zero {a : Dy} : dyReal a = 0 ↔ a.m = 0 := by
  simp [dyReal, zpow_ne_zero]

/-! ## Rounding of exact values -/

section
variable {f : Fmt} (hf : fmtIsInt f = false) {rm : Rm} {ov : OvKind}
include hf

theorem fpRound_finReal {n : Bool} {m : ℕ} {e : ℤ} (h : finReal n m e ≠ 0) :
    RoundsTo f rm (decide (ov = .sat)) (finReal n m e) (fpRound f rm ov n m e) := by
  have hm : m ≠ 0 := mt finReal_eq_zero.mpr h
  have hr := fpRound_roundsTo hf rm ov h (.inl (abs_finReal n m e))
  rwa [show decide (finReal n m e < 0) = n by simp [finReal_neg_iff hm]] at hr

theorem dyRound_roundsTo {z : Bool} {a : Dy} (h : dyReal a ≠ 0) :
    RoundsTo f rm (decide (ov = .sat)) (dyReal a) (dyRound f rm ov z a) := by
  have hm : a.m ≠ 0 := mt dyReal_eq_zero.mpr h
  have hfin : dyReal a = finReal (decide (a.m < 0)) a.m.natAbs a.e := by rw [← dyReal_ofFin, dyOfFin_natAbs]
  rw [dyRound, if_neg hm, hfin]
  exact fpRound_finReal hf (hfin ▸ h)

omit hf in
theorem dyRound_zero {z : Bool} {a : Dy} (h : dyReal a = 0) :
    dyRound f rm ov z a = (if z ∧ f ≠ .f4 then fmtSign f else 0, 0) :=
  if_pos (dyReal_eq_zero.mp h)

end

/-! ## Operations on finite operands -/

section
variable {f : Fmt} {rm : Rm} {a b c m n k : ℕ} {x y z : Bool} {e g l : ℤ}

theorem fpIsNan_of_fin (h : fpDecode f a = .fin x m e) : fpIsNan f a = false := by simp [fpIsNan, h]

theorem fpNanOf_eq_none {cs : List ℕ} (h : ∀ c ∈ cs, fpIsNan f c = false) : fpNanOf f cs = none := by
  have hfind : cs.find? (fpIsNan f) = none := List.find?_eq_none.mpr fun c hc => by simp [h c hc]
  simp [fpNanOf, hfind]

/-- The sign of an operand is the sign bit of its code. -/
theorem fpNegBit_of_fin (hf : fmtIsInt f = false) (ha : a < 2 ^ fmtBits f) (h : fpDecode f a = .fin x m e) :
    fpNegBit f a = x := by
  obtain ⟨neg, n, hn, rfl, hdec⟩ := exists_of_finite hf ha (by simp [fpIsFinite, h])
  rw [fpNegBit_signed (hn.trans_lt (fmtMaxCode_lt_sign hf))]
  rw [hdec] at h
  exact (FVal.fin.inj h).1

/-- The significand of an operand has one bit more than its trailing part. -/
theorem significand_lt (hf : fmtIsInt f = false) (ha : a < 2 ^ fmtBits f) (h : fpDecode f a = .fin x m e) :
    m < 2 ^ (fmtM f + 1) := by
  obtain ⟨neg, n, hn, rfl, hdec⟩ := exists_of_finite hf ha (by simp [fpIsFinite, h])
  rw [hdec] at h
  have hB := Nat.two_pow_pos (fmtM f)
  have hmod := Nat.mod_lt n hB
  rw [← (FVal.fin.inj h).2.1, codeSig, Nat.pow_succ]
  split <;> omega

/-- Inverting the sign bit of a finite code inverts the sign of its value; F4 has no negative zero. -/
theorem fpDecode_negate (hf : fmtIsInt f = false) (h4 : f ≠ .f4) (ha : a < 2 ^ fmtBits f) (h : fpDecode f a = .fin x m e) :
    fpDecode f (fpNegate f a) = .fin (!x) m e := by
  obtain ⟨neg, n, hn, rfl, hdec⟩ := exists_of_finite hf ha (by simp [fpIsFinite, h])
  have hbit := fpNegBit_signed (neg := neg) (hn.trans_lt (fmtMaxCode_lt_sign hf))
  have hnot : fpNegate f (signed f neg n) = signed f (!neg) n := by
    cases neg <;> simp [fpNegate, hbit] <;> simp [signed]
  rw [hdec] at h
  obtain ⟨rfl, rfl, rfl⟩ := FVal.fin.inj h
  rw [hnot, fpDecode_finite hf hn fun h => absurd h h4]

theorem fpAdd_fin (ha : fpDecode f a = .fin x m e) (hb : fpDecode f b = .fin y n g) :
    fpAdd f rm a b = dyRound f rm .ieee (zeroSumNeg rm x y) (dyAdd (dyOfFin x m e) (dyOfFin y n g)) := by
  rw [fpAdd, fpNanOf_eq_none (by simp [fpIsNan_of_fin ha, fpIsNan_of_fin hb]), ha, hb]
  rfl

theorem fpSub_fin (ha : fpDecode f a = .fin x m e) (hb : fpDecode f b = .fin y n g)
    (hneg : fpDecode f (fpNegate f b) = .fin (!y) n g) :
    fpSub f rm a b = dyRound f rm .ieee (zeroSumNeg rm x (!y)) (dyAdd (dyOfFin x m e) (dyOfFin (!y) n g)) := by
  rw [fpSub, fpNanOf_eq_none (by simp [fpIsNan_of_fin ha, fpIsNan_of_fin hb]), ha, hneg]
  rfl

theorem fpMul_fin (ha : fpDecode f a = .fin x m e) (hb : fpDecode f b = .fin y n g) :
    fpMul f rm a b = fpRound f rm .ieee (x != y) (m * n) (e + g) := by
  rw [fpMul, fpNanOf_eq_none (by simp [fpIsNan_of_fin ha, fpIsNan_of_fin hb]), ha, hb]
  rfl

/-- The sign of an operand that an option negates. -/
def signIf (p x : Bool) : Bool := if p then !x else x

theorem finReal_signIf (p : Bool) : finReal (signIf p x) m e = if p then -finReal x m e else finReal x m e := by
  cases p <;> simp [signIf, finReal_not]

theorem fpFma_fin (np nc : Bool) (ha : fpDecode f a = .fin x m e) (hb : fpDecode f b = .fin y n g)
    (hc : fpDecode f c = .fin z k l) (hna : fpDecode f (fpNegate f a) = .fin (!x) m e)
    (hnc : fpDecode f (fpNegate f c) = .fin (!z) k l) :
    fpFma f rm np nc a b c = dyRound f rm .ieee (zeroSumNeg rm (signIf np x != y) (signIf nc z))
      (dyAdd (dyOfFin (signIf np x != y) (m * n) (e + g)) (dyOfFin (signIf nc z) k l)) := by
  have hp : fpDecode f (if np then fpNegate f a else a) = .fin (signIf np x) m e := by cases np <;> assumption
  have hq : fpDecode f (if nc then fpNegate f c else c) = .fin (signIf nc z) k l := by cases nc <;> assumption
  simp only [fpFma, fpIsNan_of_fin ha, fpIsNan_of_fin hb, fpIsNan_of_fin hc, hp, hq, hb, Bool.false_eq_true, if_false]
  rfl

theorem fpDiv_fin (ha : fpDecode f a = .fin x m e) (hb : fpDecode f b = .fin y n g) (hm : m ≠ 0) (hn : n ≠ 0) :
    fpDiv f rm a b = fpRound f rm .ieee (x != y) (divSticky m n) (e - g - 121) := by
  rw [fpDiv, fpNanOf_eq_none (by simp [fpIsNan_of_fin ha, fpIsNan_of_fin hb]), ha, hb]
  exact (if_neg hn).trans (if_neg hm)

theorem fpDiv_zero (ha : fpDecode f a = .fin x m e) (hb : fpDecode f b = .fin y 0 g) (hm : m ≠ 0) :
    fpDiv f rm a b = (fpInfCode f (x != y), flOverflow) := by
  rw [fpDiv, fpNanOf_eq_none (by simp [fpIsNan_of_fin ha, fpIsNan_of_fin hb]), ha, hb]
  exact (if_pos rfl).trans (if_neg hm)

theorem fpSqrt_fin (ha : fpDecode f a = .fin false m e) (hm : m ≠ 0) :
    fpSqrt f rm a = fpRound f rm .ieee false (sqrtSticky m e).1 (sqrtSticky m e).2 := by
  rw [fpSqrt, fpNanOf_eq_none (by simp [fpIsNan_of_fin ha]), ha]
  exact if_neg hm

theorem fpSqrt_neg (ha : fpDecode f a = .fin true m e) (hm : m ≠ 0) : fpSqrt f rm a = (fmtNan f, flInvalid) := by
  rw [fpSqrt, fpNanOf_eq_none (by simp [fpIsNan_of_fin ha]), ha]
  exact if_neg hm

end

/-! ## The sticky bits of a quotient and of a root -/

/-- A real between two integers, doubled, is carried by their odd middle. -/
theorem carries_between {k q : ℕ} {e : ℤ} {t : ℝ} (hbig : 2 ^ (k + 2) ≤ 2 * q + 1) (hlo : (q : ℝ) < t) (hhi : t < q + 1) :
    Carries k (2 * q + 1) e (2 * t * 2 ^ e) := by
  have hp : (0 : ℝ) < 2 ^ e := zpow_pos two_pos e
  refine .inr ⟨hbig, by omega, mul_lt_mul_of_pos_right ?_ hp, mul_lt_mul_of_pos_right ?_ hp⟩ <;> push_cast <;> linarith

/-- Dividing with a sticky last bit keeps enough bits of the quotient for one rounding. -/
theorem divSticky_carries {k m n : ℕ} {e g : ℤ} (hk : k ≤ 52) (hm : m ≠ 0) (hn : n ≠ 0) (hlt : n < 2 ^ 53) :
    Carries k (divSticky m n) (e - g - 121) ((m * 2 ^ e) / (n * 2 ^ g)) := by
  have hn0 : (0 : ℝ) < n := by exact_mod_cast Nat.pos_of_ne_zero hn
  have hval : ((m : ℝ) * 2 ^ e) / (n * 2 ^ g) = 2 * (((m * 2 ^ 120 : ℕ) : ℝ) / n) * 2 ^ (e - g - 121) := by
    rw [zpow_sub₀ two_ne_zero, zpow_sub₀ two_ne_zero]
    push_cast
    field_simp
    norm_num
  rw [hval]
  unfold divSticky
  generalize hd : m * 2 ^ 120 = d
  split
  next h =>
    refine .inl ?_
    rw [Nat.add_zero, ← Nat.cast_div (Nat.dvd_of_mod_eq_zero h) hn0.ne']
    push_cast
    ring
  next h =>
    have hmod := Nat.mod_lt d (Nat.pos_of_ne_zero hn)
    have hdiv := Nat.div_add_mod d n
    refine carries_between ?_ ?_ ?_
    · have hq : 2 ^ 67 ≤ d / n := (Nat.le_div_iff_mul_le (Nat.pos_of_ne_zero hn)).mpr (by omega)
      have hpow : 2 ^ (k + 2) ≤ 2 ^ 54 := Nat.pow_le_pow_right two_pos (by omega)
      omega
    · rw [lt_div_iff₀ hn0]
      exact_mod_cast (by rw [Nat.mul_comm]; omega : d / n * n < d)
    · rw [div_lt_iff₀ hn0]
      exact_mod_cast (by rw [Nat.mul_comm, Nat.mul_add]; omega : d < (d / n + 1) * n)

/-- The root by bits keeps the number between the squares of the root so far and of the root with all its bits to come. -/
theorem iroot_two_bounds (n : ℕ) : ∀ b r : ℕ, r ^ 2 ≤ n → n < (r + 2 ^ b) ^ 2 →
    iroot 2 n b r ^ 2 ≤ n ∧ n < (iroot 2 n b r + 1) ^ 2
  | 0, _, hlo, hhi => ⟨hlo, hhi⟩
  | b + 1, r, hlo, hhi => by
    rw [iroot]
    by_cases h : (r + 2 ^ b) ^ 2 ≤ n
    · rw [if_pos h]
      exact iroot_two_bounds n b _ h (by rwa [Nat.add_assoc, ← Nat.two_mul, ← Nat.pow_succ'])
    · rw [if_neg h]
      exact iroot_two_bounds n b r hlo (not_le.mp h)

theorem isqrt_eq (n : ℕ) : isqrt n = Nat.sqrt n := by
  have hhi : n < (0 + 2 ^ (Nat.log2 n / 2 + 1)) ^ 2 := by
    rw [Nat.zero_add, ← Nat.pow_mul]
    exact Nat.lt_log2_self.trans_le (Nat.pow_le_pow_right two_pos (by omega))
  obtain ⟨h1, h2⟩ := iroot_two_bounds n _ 0 (Nat.zero_le _) hhi
  exact Nat.eq_sqrt'.mpr ⟨h1, h2⟩

/-- The root with a sticky last bit keeps enough bits for one rounding. -/
theorem sqrtSticky_carries {k m : ℕ} {e : ℤ} (hk : k ≤ 52) (hm : m ≠ 0) :
    Carries k (sqrtSticky m e).1 (sqrtSticky m e).2 (Real.sqrt (m * 2 ^ e)) := by
  obtain ⟨sh, hsh, hge, h, hhalf⟩ : ∃ sh : ℕ, (if (e - 160) % 2 = 0 then 160 else 161) = sh ∧ 160 ≤ sh ∧
      ∃ h : ℤ, e - sh = 2 * h := by
    split
    next hpar => exact ⟨160, rfl, le_rfl, (e - 160) / 2, by omega⟩
    next hpar => exact ⟨161, rfl, by decide, (e - 161) / 2, by omega⟩
  have hval : Real.sqrt (m * 2 ^ e) = 2 * Real.sqrt ((m * 2 ^ sh : ℕ) : ℝ) * 2 ^ (h - 1) := by
    have hsplit : (m : ℝ) * 2 ^ e = ((m * 2 ^ sh : ℕ) : ℝ) * (2 ^ h) ^ 2 := by
      rw [← zpow_natCast, ← zpow_mul, show e = sh + h * (2 : ℕ) by push_cast; omega, zpow_add₀ two_ne_zero, zpow_natCast]
      push_cast
      ring
    rw [hsplit, Real.sqrt_mul (Nat.cast_nonneg _), Real.sqrt_sq (by positivity), zpow_sub_one₀ two_ne_zero]
    ring
  simp only [sqrtSticky, hsh, isqrt_eq, show (e - (sh : ℤ)) / 2 = h by omega, hval]
  generalize hn : m * 2 ^ sh = n
  split
  next hsq =>
    refine .inl ?_
    rw [Nat.add_zero, ← hsq, Nat.sqrt_eq]
    push_cast
    rw [Real.sqrt_mul_self (Nat.cast_nonneg _)]
  next hsq =>
    have hlo : Nat.sqrt n * Nat.sqrt n < n := lt_of_le_of_ne (Nat.sqrt_le n) hsq
    refine carries_between ?_ ?_ ?_
    · have hroot : 2 ^ 80 ≤ Nat.sqrt n := Nat.le_sqrt.mpr (by
        have := Nat.pow_le_pow_right two_pos hge
        nlinarith [Nat.pos_of_ne_zero hm])
      have hpow : 2 ^ (k + 2) ≤ 2 ^ 54 := Nat.pow_le_pow_right two_pos (by omega)
      omega
    · rw [Real.lt_sqrt (Nat.cast_nonneg _), sq]
      exact_mod_cast hlo
    · rw [Real.sqrt_lt' (by positivity), sq]
      exact_mod_cast Nat.lt_succ_sqrt n

end Sys2Proof.Machine
end

section
/-! The floating-point lane instructions (07, R51, R56, R167, R168). -/

namespace Sys2Proof.Machine

open Sys2Proof

/-! ## Sign-bit operations (R168) -/

section
variable {f : Fmt} {a : ℕ} (ha : a < 2 ^ fmtBits f)
include ha

theorem fpNegBit_eq_div : a / fmtSign f = if fpNegBit f a then 1 else 0 := by
  have hlt : a / fmtSign f < 2 := Nat.div_lt_of_lt_mul (by rw [Nat.mul_comm, ← two_pow_fmtBits]; exact ha)
  unfold fpNegBit
  rcases Nat.lt_succ_iff_lt_or_eq.mp hlt with h | h
  · simp [Nat.lt_one_iff.mp h]
  · simp [h]

theorem fpAbs_eq_mod : fpAbs f a = a % fmtSign f := by
  have hdm := Nat.div_add_mod a (fmtSign f)
  rw [fpNegBit_eq_div ha] at hdm
  unfold fpAbs
  split at hdm
  next hneg => rw [if_pos hneg]; omega
  next hneg => rw [if_neg hneg]; omega

theorem fpNegate_eq_mod : fpNegate f a = a % fmtSign f + (1 - a / fmtSign f) * fmtSign f := by
  have hdm := Nat.div_add_mod a (fmtSign f)
  rw [fpNegBit_eq_div ha] at hdm ⊢
  unfold fpNegate
  split at hdm
  next hneg => simp only [hneg, if_true]; omega
  next hneg => simp only [hneg, Bool.false_eq_true, if_false]; omega

end

theorem fpCopySign_eq_mod {f : Fmt} {a b : ℕ} (ha : a < 2 ^ fmtBits f) (hb : b < 2 ^ fmtBits f) :
    fpCopySign f a b = a % fmtSign f + b / fmtSign f * fmtSign f := by
  rw [fpCopySign, fpAbs_eq_mod ha, fpNegBit_eq_div hb]
  split <;> simp

/-! ## NaN operands (R51) -/

theorem fpNanOf_pair {f : Fmt} {a b : ℕ} (h : (fpIsNan f a || fpIsNan f b) = true) :
    fpNanOf f [a, b] =
      some (fpQuiet f (if fpIsNan f a then a else b), flagIf (fpIsSnan f a || fpIsSnan f b) flInvalid) := by
  cases ha : fpIsNan f a
  · have hb : fpIsNan f b = true := by simpa [ha] using h
    simp [fpNanOf, ha, hb]
  · simp [fpNanOf, ha]

theorem nan_operand {f : Fmt} (m : Rm) {a b : ℕ} (h : (fpIsNan f a || fpIsNan f b) = true) :
    let r := (fpQuiet f (if fpIsNan f a then a else b), flagIf (fpIsSnan f a || fpIsSnan f b) flInvalid)
    fpAdd f m a b = r ∧ fpSub f m a b = r ∧ fpMul f m a b = r ∧ fpDiv f m a b = r := by
  simp only [fpAdd, fpSub, fpMul, fpDiv, fpNanOf_pair h, and_self]

/-! ## Minimum and maximum (R56) -/

theorem dyLt_iff (a b : Dy) : dyLt a b = true ↔ dyReal a < dyReal b := by
  have hneg : dyReal (dyNeg a) = -dyReal a := by simp [dyReal, dyNeg]
  have hpos : 0 < dyReal (dyAdd b (dyNeg a)) ↔ 0 < (dyAdd b (dyNeg a)).m := by
    rw [dyReal, mul_pos_iff_of_pos_right (zpow_pos two_pos _), Int.cast_pos]
  rw [dyLt, decide_eq_true_eq, gt_iff_lt, ← hpos, dyReal_add, hneg, ← sub_eq_add_neg, sub_pos]

theorem fvLt_fin {f : Fmt} {a b m n : ℕ} {x y : Bool} {e g : ℤ} (ha : fpDecode f a = .fin x m e)
    (hb : fpDecode f b = .fin y n g) : fvLt (.fin x m e) (.fin y n g) = true ↔ ratOf f a < ratOf f b := by
  rw [fvLt, dyLt_iff, dyReal_ofFin, dyReal_ofFin, ← ratOf_eq_finReal ha, ← ratOf_eq_finReal hb, Rat.cast_lt]

section
variable {f : Fmt} {a b : ℕ}

/-- The order of decoded values is the numerical order, the infinities outermost. -/
theorem fvLt_iff_below (ha : fpIsNan f a = false) (hb : fpIsNan f b = false) :
    fvLt (fpDecode f a) (fpDecode f b) = true ↔ below f a b := by
  unfold below
  cases hda : fpDecode f a with
  | nan q => simp [fpIsNan, hda] at ha
  | inf x =>
    cases hdb : fpDecode f b with
    | nan q => simp [fpIsNan, hdb] at hb
    | inf y => simp [fvLt]
    | fin y n g => simp [fvLt]
  | fin x m e =>
    cases hdb : fpDecode f b with
    | nan q => simp [fpIsNan, hdb] at hb
    | inf y => simp [fvLt]
    | fin y n g => exact fvLt_fin hda hdb

theorem below_asymm (h : below f a b) : ¬ below f b a := by
  unfold below at h ⊢
  split at h
  next x y hda hdb => simp [hda, hdb, h]
  next x _ _ _ hda hdb => simp [hda, hdb, h]
  next _ _ _ y hda hdb => simp [hda, hdb, h]
  next hda hdb => simpa [hda, hdb] using h.le
  next => exact h.elim

/-- Of two operands that are not NaN, the second is the minimum and the first the maximum unless the first is the lesser. -/
theorem fpMinMax_not_nan (mx : Bool) (ha : fpIsNan f a = false) (hb : fpIsNan f b = false) :
    fpMinMax f mx a b = (if (fvLt (fpDecode f a) (fpDecode f b) || (fvEq (fpDecode f a) (fpDecode f b) &&
      fvNeg (fpDecode f a) && !fvNeg (fpDecode f b))) = mx then b else a, 0) := by
  simp [fpMinMax, ha, hb]

theorem fpMinMax_below (ha : fpIsNan f a = false) (hb : fpIsNan f b = false) (h : below f a b) :
    fpMinMax f false a b = (a, 0) ∧ fpMinMax f true a b = (b, 0) := by
  have hlt := (fvLt_iff_below ha hb).mpr h
  simp [fpMinMax_not_nan _ ha hb, hlt]

theorem fpMinMax_above (ha : fpIsNan f a = false) (hb : fpIsNan f b = false) (h : below f b a) :
    fpMinMax f false a b = (b, 0) ∧ fpMinMax f true a b = (a, 0) := by
  have hgt := (fvLt_iff_below hb ha).mpr h
  have hlt : fvLt (fpDecode f a) (fpDecode f b) = false :=
    Bool.eq_false_iff.mpr fun hlt => below_asymm h ((fvLt_iff_below ha hb).mp hlt)
  simp [fpMinMax_not_nan _ ha hb, hlt, hgt, fvEq]

/-- A code of value 0 is a bare sign bit. -/
theorem eq_signed_zero (hf : fmtIsInt f = false) (ha : a < 2 ^ fmtBits f) (hfin : fpIsFinite f a = true) (h : ratOf f a = 0) :
    ∃ neg e, a = signed f neg 0 ∧ fpNegBit f a = neg ∧ fpDecode f a = .fin neg 0 e := by
  obtain ⟨neg, n, -, rfl, hdec⟩ := exists_of_finite hf ha hfin
  have hreal := ratOf_eq_finReal hdec
  rw [h, Rat.cast_zero, eq_comm, finReal_eq_zero] at hreal
  have hn : n = 0 := by
    rw [← codeVal_eq_zero (f := f), codeVal, hreal, Nat.cast_zero, zero_mul]
  subst hn
  rw [hreal] at hdec
  exact ⟨neg, _, rfl, fpNegBit_signed fmtSign_pos, hdec⟩

/-- Of two zeros the negative one is the lesser. -/
theorem fpMinMax_zeros (hf : fmtIsInt f = false) (ha : a < 2 ^ fmtBits f) (hb : b < 2 ^ fmtBits f)
    (hfa : fpIsFinite f a = true) (hfb : fpIsFinite f b = true) (hza : ratOf f a = 0) (hzb : ratOf f b = 0) :
    fpMinMax f false a b = (if fpNegBit f a then a else b, 0) ∧ fpMinMax f true a b = (if fpNegBit f a then b else a, 0) := by
  obtain ⟨x, e, hax, hsa, hda⟩ := eq_signed_zero hf ha hfa hza
  obtain ⟨y, g, hby, hsb, hdb⟩ := eq_signed_zero hf hb hfb hzb
  have hlt : fvLt (fpDecode f a) (fpDecode f b) = false := by
    rw [hda, hdb, Bool.eq_false_iff, Ne, fvLt_fin hda hdb, hza, hzb]
    exact lt_irrefl 0
  have hgt : fvLt (fpDecode f b) (fpDecode f a) = false := by
    rw [hda, hdb, Bool.eq_false_iff, Ne, fvLt_fin hdb hda, hza, hzb]
    exact lt_irrefl 0
  have hsame : x = y → a = b := fun h => by rw [hax, hby, h]
  rw [fpMinMax_not_nan _ (fpIsNan_of_fin hda) (fpIsNan_of_fin hdb), fpMinMax_not_nan _ (fpIsNan_of_fin hda) (fpIsNan_of_fin hdb),
    fvEq, hlt, hgt, hda, hdb, hsa]
  cases x <;> cases y <;> simp [fvNeg, hsame]

end

/-! ## Finite operands (R50, R51, R61) -/

theorem fin_of_finite {f : Fmt} {a : ℕ} (h : fpIsFinite f a = true) : ∃ x m e, fpDecode f a = .fin x m e := by
  unfold fpIsFinite at h
  split at h
  next x m e hdec => exact ⟨x, m, e, hdec⟩
  next => exact absurd h Bool.false_ne_true

section
variable {f : Fmt} {rm : Rm} {a b c m n k : ℕ} {x y z : Bool} {e g l : ℤ} (hf : fmtIsInt f = false)
  (hda : fpDecode f a = .fin x m e) (hdb : fpDecode f b = .fin y n g) (hdc : fpDecode f c = .fin z k l)
  (hna : fpDecode f (fpNegate f a) = .fin (!x) m e) (hnb : fpDecode f (fpNegate f b) = .fin (!y) n g)
  (hnc : fpDecode f (fpNegate f c) = .fin (!z) k l)
include hda

section
include hf hdb

theorem fpAdd_roundsTo (h : (ratOf f a : ℝ) + ratOf f b ≠ 0) :
    RoundsTo f rm false (ratOf f a + ratOf f b) (fpAdd f rm a b) := by
  rw [ratOf_eq_finReal hda, ratOf_eq_finReal hdb, ← dyReal_ofFin, ← dyReal_ofFin, ← dyReal_add] at h ⊢
  rw [fpAdd_fin hda hdb]
  exact dyRound_roundsTo (ov := .ieee) hf h

include hnb in
theorem fpSub_roundsTo (h : (ratOf f a : ℝ) - ratOf f b ≠ 0) :
    RoundsTo f rm false (ratOf f a - ratOf f b) (fpSub f rm a b) := by
  rw [ratOf_eq_finReal hda, ratOf_eq_finReal hdb, sub_eq_add_neg, ← finReal_not, ← dyReal_ofFin, ← dyReal_ofFin,
    ← dyReal_add] at h ⊢
  rw [fpSub_fin hda hdb hnb]
  exact dyRound_roundsTo (ov := .ieee) hf h

theorem fpMul_roundsTo (h : (ratOf f a : ℝ) * ratOf f b ≠ 0) :
    RoundsTo f rm false (ratOf f a * ratOf f b) (fpMul f rm a b) := by
  rw [ratOf_eq_finReal hda, ratOf_eq_finReal hdb, ← finReal_mul] at h ⊢
  rw [fpMul_fin hda hdb]
  exact fpRound_finReal (ov := .ieee) hf h

include hdc hna hnc in
/-- The four fused forms round the exact sum of the product and the addend, each with the sign of its form. -/
theorem fpFma_roundsTo (np nc : Bool) {v : ℝ}
    (hv : v = (if np then -(ratOf f a : ℝ) else ratOf f a) * ratOf f b + if nc then -(ratOf f c : ℝ) else ratOf f c) (h : v ≠ 0) :
    RoundsTo f rm false v (fpFma f rm np nc a b c) := by
  rw [ratOf_eq_finReal hda, ratOf_eq_finReal hdb, ratOf_eq_finReal hdc, ← finReal_signIf, ← finReal_signIf, ← finReal_mul,
    ← dyReal_ofFin, ← dyReal_ofFin, ← dyReal_add] at hv
  subst hv
  rw [fpFma_fin np nc hda hdb hdc hna hnc]
  exact dyRound_roundsTo (ov := .ieee) hf h

theorem fpDiv_roundsTo (hb : b < 2 ^ fmtBits f) (h : (ratOf f a : ℝ) / ratOf f b ≠ 0) :
    RoundsTo f rm false (ratOf f a / ratOf f b) (fpDiv f rm a b) := by
  obtain ⟨hm, hn⟩ := div_ne_zero_iff.mp h
  have hsig : n < 2 ^ 53 := (significand_lt hf hb hdb).trans_le (Nat.pow_le_pow_right two_pos (by have := fmtM_le hf; omega))
  rw [ratOf_eq_finReal hda] at h hm ⊢
  rw [ratOf_eq_finReal hdb] at h hn ⊢
  have hm0 := mt finReal_eq_zero.mpr hm
  have hn0 := mt finReal_eq_zero.mpr hn
  have hneg : decide (finReal x m e / finReal y n g < 0) = (x != y) := by
    have hpos : 0 < (m : ℝ) * 2 ^ e / (n * 2 ^ g) := by positivity
    cases x <;> cases y <;> simp [finReal, neg_div, div_neg, hpos, hpos.le]
  have hr := fpRound_roundsTo hf rm .ieee h (m := divSticky m n) (e := e - g - 121) (by
    rw [abs_div, abs_finReal, abs_finReal]
    exact divSticky_carries (fmtM_le hf) hm0 hn0 hsig)
  rw [hneg] at hr
  rw [fpDiv_fin hda hdb hm0 hn0]
  exact hr

end

include hf in
theorem fpSqrt_roundsTo (h : (0 : ℝ) < ratOf f a) : RoundsTo f rm false (Real.sqrt (ratOf f a)) (fpSqrt f rm a) := by
  have hsqrt := Real.sqrt_pos.mpr h
  rw [ratOf_eq_finReal hda] at h hsqrt ⊢
  have hm := mt finReal_eq_zero.mpr h.ne'
  obtain rfl : x = false := Bool.eq_false_iff.mpr fun hx => h.not_gt ((finReal_neg_iff hm).mpr hx)
  have hr := fpRound_roundsTo hf rm .ieee hsqrt.ne' (m := (sqrtSticky m e).1) (e := (sqrtSticky m e).2) (by
    rw [abs_of_pos hsqrt, ← abs_of_pos h, abs_finReal]
    exact sqrtSticky_carries (fmtM_le hf) hm)
  rw [decide_eq_false hsqrt.not_gt] at hr
  rw [fpSqrt_fin hda hm]
  exact hr

theorem fpSqrt_of_neg (h : (ratOf f a : ℝ) < 0) : fpSqrt f rm a = (fmtNan f, flInvalid) := by
  rw [ratOf_eq_finReal hda] at h
  have hm := mt finReal_eq_zero.mpr h.ne
  obtain rfl := (finReal_neg_iff hm).mp h
  exact fpSqrt_neg hda hm

section
include hdb

theorem fpAdd_exact_zero (h4 : f ≠ .f4) (h : (ratOf f a : ℝ) + ratOf f b = 0) :
    fpAdd f rm a b = (if (if x = y then x else decide (rm = .rdn)) then fmtSign f else 0, 0) := by
  rw [ratOf_eq_finReal hda, ratOf_eq_finReal hdb, ← dyReal_ofFin, ← dyReal_ofFin, ← dyReal_add] at h
  rw [fpAdd_fin hda hdb, dyRound_zero h, zeroSumNeg]
  simp [h4]

theorem fpMul_exact_zero (h4 : f ≠ .f4) (h : (ratOf f a : ℝ) * ratOf f b = 0) :
    fpMul f rm a b = (if x = y then 0 else fmtSign f, 0) := by
  rw [ratOf_eq_finReal hda, ratOf_eq_finReal hdb, ← finReal_mul, finReal_eq_zero] at h
  rw [fpMul_fin hda hdb, h]
  cases x <;> cases y <;> simp [fpRound, h4]

theorem fpDiv_by_zero (hy : (ratOf f b : ℝ) = 0) (hx : (ratOf f a : ℝ) ≠ 0) :
    fpDiv f rm a b = (fpInfCode f (x != y), flOverflow) := by
  rw [ratOf_eq_finReal hdb, finReal_eq_zero] at hy
  rw [ratOf_eq_finReal hda] at hx
  subst hy
  exact fpDiv_zero hda hdb (mt finReal_eq_zero.mpr hx)

end

end

/-- The formats with an infinity are floating-point formats other than F4. -/
theorem float_of_fmtInf {f : Fmt} (h : fmtInf f ≠ none) : fmtIsInt f = false ∧ f ≠ .f4 := by
  cases f <;> revert h <;> decide

/-! ## The statement -/

/-- Settles O2: the lanes are those of the operations; a finite result is the exact value, whose bits `fpRound` rounds once. -/
theorem vecFloatLanes : Obligations.VecFloatLanes := by
  refine ⟨?_, ?_, fun f m a b _ => nan_operand m, ?_, ?_⟩
  · intro s r i w f m eff
    have bin : ∀ {c : Instr} {j : ℕ → ℕ → ℕ × Flags} {g : Fmt → Rm → ℕ → ℕ → ℕ × Flags}, w.t ≠ 1 →
        exec c s = vecPlain s c (vecBin w (byFmt w j g)) → eff c fun a b _ => g f m a b := fun ht hexec =>
      laneEffect_vecBin (by rw [hexec, byFmt_float ht])
    exact ⟨fun ht => ⟨bin ht rfl, bin ht rfl, bin ht rfl, bin (g := fun f _ => fpMinMax f false) ht rfl,
        bin (g := fun f _ => fpMinMax f true) ht rfl⟩,
      laneEffect_vecBin rfl, laneEffect_vecUn rfl, laneEffect_vecTern rfl, laneEffect_vecTern rfl, laneEffect_vecTern rfl,
      laneEffect_vecTern rfl⟩
  · intro s r i w b sg eff
    exact ⟨(laneEffect_vecUn rfl).congr fun _ => congrArg (·, 0) (fpAbs_eq_mod (vElem_lt _ _ _)),
      (laneEffect_vecUn rfl).congr fun _ => congrArg (·, 0) (fpNegate_eq_mod (vElem_lt _ _ _)),
      (laneEffect_vecBin rfl).congr fun _ => congrArg (·, 0) (fpCopySign_eq_mod (vElem_lt _ _ _) (vElem_lt _ _ _))⟩
  · intro f m a b c hinf ha hb hc hfa hfb hfc v₁ v₂ v₃ rounds
    obtain ⟨hf, h4⟩ := float_of_fmtInf hinf
    obtain ⟨x, mx, ex, hda⟩ := fin_of_finite hfa
    obtain ⟨y, my, ey, hdb⟩ := fin_of_finite hfb
    obtain ⟨z, mz, ez, hdc⟩ := fin_of_finite hfc
    have hna := fpDecode_negate hf h4 ha hda
    have hnb := fpDecode_negate hf h4 hb hdb
    have hnc := fpDecode_negate hf h4 hc hdc
    have fused := fun np nc {v} hv h => fpFma_roundsTo (rm := m) hf hda hdb hdc hna hnc np nc (v := v) hv h
    rw [fpNegBit_of_fin hf ha hda, fpNegBit_of_fin hf hb hdb]
    exact ⟨fpAdd_roundsTo hf hda hdb, fpSub_roundsTo hf hda hdb hnb, fpMul_roundsTo hf hda hdb,
      fused false false rfl, fused false true (sub_eq_add_neg _ _),
      fused true false (by simp [v₁, v₂, v₃]), fused true true (by simp [v₁, v₂, v₃, sub_eq_add_neg]),
      fun _ => fpDiv_roundsTo hf hda hdb hb, fun h _ => fpSqrt_roundsTo hf hda h,
      fpAdd_exact_zero hda hdb h4, fpMul_exact_zero hda hdb h4, fpDiv_by_zero hda hdb, fpSqrt_of_neg hda⟩
  · intro f a b hf ha hb sn
    refine ⟨fun hna hnb => ?_, fun hna hnb => ?_, fun hna hnb => ?_, fun hna hnb => ⟨fpMinMax_below hna hnb,
      fpMinMax_above hna hnb, fun hza hfa hzb hfb => fpMinMax_zeros hf ha hb hfa hfb hza hzb⟩⟩ <;>
    simp [fpMinMax, hna, hnb, sn]

end Sys2Proof.Machine
end

section
/-! What a read that meets storage errors leaves: a check event ends runs and logs, but it changes no tile register, no byte
of the scratchpad, nothing of the vector engine and nothing of Firn (14, R350, R354). -/

namespace Sys2Proof.Machine

open Sys2Proof

/-- The tile registers, the scratchpad, the vector engine and Firn are the same. -/
structure ContentsFrame (s t : State) : Prop where
  tiles : t.tiles = s.tiles
  pad   : t.pad = s.pad
  vec   : t.vec = s.vec
  firn  : t.firn = s.firn

theorem ContentsFrame.refl (s : State) : ContentsFrame s s := ⟨rfl, rfl, rfl, rfl⟩

theorem ContentsFrame.trans {s t u : State} (a : ContentsFrame s t) (b : ContentsFrame t u) : ContentsFrame s u :=
  ⟨b.tiles.trans a.tiles, b.pad.trans a.pad, b.vec.trans a.vec, b.firn.trans a.firn⟩

theorem ContentsFrame.foldl {α : Type} {f : State → α → State} (hf : ∀ s a, ContentsFrame s (f s a)) (l : List α)
    (s : State) : ContentsFrame s (l.foldl f s) := by
  induction l generalizing s with
  | nil => exact .refl s
  | cons a l ih => exact (hf s a).trans (ih _)

theorem ContentsFrame.ite {s t u : State} {c : Prop} [Decidable c] (a : ContentsFrame s t) (b : ContentsFrame s u) :
    ContentsFrame s (if c then t else u) := by
  split
  · exact a
  · exact b

theorem contentsFrame_setInst (s : State) (uid : Nat) (f : Inst → Inst) : ContentsFrame s (setInst s uid f) :=
  ⟨rfl, rfl, rfl, rfl⟩

/-! ## The event log and withdrawal -/

theorem contentsFrame_logAdd (s : State) (e : BitVec 256) : ContentsFrame s (logAdd s e) := ⟨rfl, rfl, rfl, rfl⟩

theorem contentsFrame_logEndings (s : State) : ContentsFrame s (logEndings s) := by
  have hlog := ContentsFrame.foldl (fun s w => contentsFrame_logAdd s (entryWithdrawn w))
    (s.seq.insts.filterMap fun i => i.ending.bind (·.entry)) s
  exact ⟨hlog.tiles, hlog.pad, hlog.vec, hlog.firn⟩

theorem contentsFrame_triggerWithdraw (s : State) (src : Nat) (code : Code) :
    ContentsFrame s (triggerWithdraw s src code) := by
  have hlog := contentsFrame_logEndings s
  exact .ite (.refl s) ⟨hlog.tiles, hlog.pad, hlog.vec, hlog.firn⟩

/-! ## The ending of a run -/

theorem contentsFrame_cancelOne (s : State) (uid k : Nat) (outcome : BitVec 2) (code : Code) :
    ContentsFrame s (cancelOne s uid k outcome code) := ⟨rfl, rfl, rfl, rfl⟩

theorem contentsFrame_cancelUpds (s : State) (uid : Nat) (status : Code) : ContentsFrame s (cancelUpds s uid status) := by
  have hcommits := ContentsFrame.foldl (fun s (c : Commit) => contentsFrame_cancelOne s uid c.k 2 status)
    (s.upd.commits.filter fun c => c.uid == uid && !c.issued) s
  refine hcommits.trans ?_
  unfold cancelUpds
  dsimp only
  split
  · split
    · split <;> exact ⟨rfl, rfl, rfl, rfl⟩
    · exact ⟨rfl, rfl, rfl, rfl⟩
  · exact ⟨rfl, rfl, rfl, rfl⟩

theorem contentsFrame_stopRun (s : State) (uid : Nat) (e : Ending) : ContentsFrame s (stopRun s uid e) := by
  unfold stopRun stopUnits
  have hcancel := fun u => contentsFrame_cancelUpds u uid e.status
  exact ⟨(hcancel _).tiles, (hcancel _).pad, (hcancel _).vec, (hcancel _).firn⟩

theorem contentsFrame_sendStage (s : State) (m : StageMsg) : ContentsFrame s (sendStage s m) :=
  .ite (.ite ⟨rfl, rfl, rfl, rfl⟩ ⟨rfl, rfl, rfl, rfl⟩) (.refl s)

theorem contentsFrame_sendAbandon (s : State) (i : Inst) (status : Code) : ContentsFrame s (sendAbandon s i status) :=
  .ite (contentsFrame_sendStage s _) (.refl s)

theorem contentsFrame_passRx0 (n : Nat) (s : State) : ContentsFrame s (passRx0 n s) := by
  induction n generalizing s with
  | zero => exact .refl s
  | succ n ih =>
    unfold passRx0
    split
    · exact ⟨(ih _).tiles, (ih _).pad, (ih _).vec, (ih _).firn⟩
    · exact .refl s

theorem contentsFrame_purgeStale (s : State) : ContentsFrame s (purgeStale s) := by
  unfold purgeStale purgeRx
  have hpass := contentsFrame_passRx0 s.rev.rx0.length
  exact ⟨(hpass _).tiles, (hpass _).pad, (hpass _).vec, (hpass _).firn⟩

theorem contentsFrame_endRun (s : State) (uid : Nat) (e : Ending) (tell : Bool) : ContentsFrame s (endRun s uid e tell) := by
  unfold endRun
  split
  · exact .refl s
  · refine (contentsFrame_stopRun s uid e).trans ?_
    dsimp only
    split
    · refine .ite (.trans ?_ ((contentsFrame_setInst _ _ _).trans (contentsFrame_purgeStale _))) (.refl _)
      exact .ite (contentsFrame_sendStage _ _) (.refl _)
    · exact .ite (contentsFrame_sendAbandon _ _ _) (.refl _)

/-! ## Check events -/

theorem contentsFrame_checkEnds (s : State) (i : Inst) (code : Code) (src : Nat) (hard : Bool) (line : Nat → BitVec 256) :
    ContentsFrame s (checkEnds s i code src hard line) := by
  unfold checkEnds
  dsimp only
  refine .ite ?_ (.trans ?_ (contentsFrame_setInst _ _ _))
  · exact ((contentsFrame_logAdd _ _).trans (contentsFrame_stopRun _ _ _)).trans (contentsFrame_triggerWithdraw _ _ _)
  · exact .ite ((contentsFrame_stopRun _ _ _).trans (contentsFrame_logAdd _ _)) (contentsFrame_endRun _ _ _ _)

theorem contentsFrame_checkAgain (s : State) (i : Inst) (o : Ending) (src : Nat) (hard : Bool) (line : Nat → BitVec 256) :
    ContentsFrame s (checkAgain s i o src hard line) := by
  unfold checkAgain
  dsimp only
  have hlog := contentsFrame_logAdd s
  exact .ite ((hlog _).trans (contentsFrame_triggerWithdraw _ _ _))
    (.ite ((hlog _).trans (contentsFrame_setInst _ _ _)) (hlog _))

theorem contentsFrame_checkEvent (s : State) (code : Code) (src unit loc addr : Nat) (who : Option Nat) (key : Nat) :
    ContentsFrame s (checkEvent s code src unit loc addr who key) := by
  unfold checkEvent
  refine ContentsFrame.trans (t := { s with chk := { s.chk with
    events := s.chk.events + 1, history := s.chk.history ++ [⟨s.pwr.tickNum, src, key⟩] } }) ⟨rfl, rfl, rfl, rfl⟩ ?_
  dsimp only
  split
  · exact .ite ((contentsFrame_logAdd _ _).trans (contentsFrame_triggerWithdraw _ _ _)) (contentsFrame_logAdd _ _)
  · split
    · exact contentsFrame_checkEnds _ _ _ _ _ _
    · exact .ite (contentsFrame_checkEnds _ _ _ _ _ _) (contentsFrame_checkAgain _ _ _ _ _ _)

/-! ## Reads that meet storage errors -/

theorem contentsFrame_meetMark (s : State) (who : Option Nat) (m : Mark) : ContentsFrame s (meetMark s who m) :=
  .ite (contentsFrame_checkEvent s _ _ _ _ _ _ _)
    ⟨countCorr_tiles s _, countCorr_pad s _, countCorr_vec s _, countCorr_firn s _⟩

theorem contentsFrame_readMarks (s : State) (who : Option Nat) (at_ : Place → Bool) :
    ContentsFrame s (readMarks s who at_) :=
  .foldl (fun s m => contentsFrame_meetMark s who m) _ s

theorem contentsFrame_firnTake (s : State) (who a r : Nat) : ContentsFrame s (firnTake s who a r) :=
  contentsFrame_readMarks s _ _

@[simp] theorem getV_firnTake (s : State) (who a r : Nat) (x : BitVec 5) : getV (firnTake s who a r) x = getV s x := by
  simp only [getV, (contentsFrame_firnTake s who a r).vec]

@[simp] theorem statRow_firnTake (s : State) (who a r q : Nat) : statRow (firnTake s who a r) q = statRow s q := by
  simp only [statRow, (contentsFrame_firnTake s who a r).firn]

end Sys2Proof.Machine
end

section
/-! Row statistics: what VSRD, VSWR, VSMRG and VSCLF do to the rows, the lanes and the flags (08, R199 to R202, R208). -/

namespace Sys2Proof.Machine

open Sys2Proof

/-! ## What counting leaves -/

@[simp] theorem seq_counted (s : State) : (counted s).seq = s.seq := by simp [counted]

@[simp] theorem firnRow_counted (s : State) (a r : Nat) : firnRow (counted s) a r = firnRow s a r := by
  simp [firnRow, counted]

@[simp] theorem statRow_counted (s : State) (r : Nat) : statRow (counted s) r = statRow s r := by simp [statRow, counted]

@[simp] theorem rowVal_counted (s : State) (x : RowOp) : rowVal (counted s) x = rowVal s x := by simp [rowVal]

@[simp] theorem rngsBusy_counted (s : State) (bound : Nat) (rs : List Rng) :
    rngsBusy (counted s) bound rs = rngsBusy s bound rs := rngsBusy_perfAdd _ _ _ _ _

/-- A vector instruction that can issue and whose body answers a precise fault with its element. -/
theorem vecIssue_vecFault {s : State} {r : Run} {i : Inst} {c : Instr} {regs : List (BitVec 5)} {n : Nat} {k : Code}
    {body : State → Run → Inst → Verdict} (h : Issuable s r i .v 1 c regs)
    (hb : body (counted s) r i = .vecFault n k) :
    vecIssue s c regs body = .next (raiseFault s r ⟨s.seq.nextUid, k, r.pc, some n⟩) := by
  unfold vecIssue
  rw [issue_issuable h]
  simp only [counted] at hb
  simp only [hb]
  rfl

theorem rowBad_of_lt {row : Nat} (h : row < 2048) : rowBad (row : Int) = false := by
  simp only [rowBad, Bool.or_eq_false_iff, decide_eq_false_iff_not]
  omega

/-! ## Packed elements -/

/-- An element put after those of a list. -/
theorem pack_concat (b : Nat) (l : List Nat) (c : Nat) :
    pack b (l ++ [c]) = pack b l + c % 2 ^ b * 2 ^ (b * l.length) := by
  induction l with
  | nil => simp [pack]
  | cons a l ih => rw [List.cons_append, pack, ih, pack, List.length_cons]; ring

/-- Element `n` of packed elements. -/
theorem bvGet_pack {w : Nat} (b : Nat) (l : List Nat) (n : Nat) (hb : 0 < b) (hn : n < l.length) (hw : b * l.length ≤ w) :
    bvGet (BitVec.ofNat w (pack b l)) (b * n) b = l.getD n 0 % 2 ^ b := by
  refine Nat.eq_of_testBit_eq fun j => ?_
  rw [testBit_bvGet, BitVec.getLsbD_ofNat, testBit_pack _ _ _ hb]
  by_cases hj : j < b
  · have hlt : b * n + j < w := by
      have : b * (n + 1) ≤ b * l.length := Nat.mul_le_mul_left b hn
      rw [Nat.mul_add, Nat.mul_one] at this
      omega
    rw [Nat.mul_add_div hb, Nat.div_eq_of_lt hj, Nat.add_zero, Nat.mul_add_mod, Nat.mod_eq_of_lt hj]
    simp [hj, hlt]
  · rw [Nat.testBit_lt_two_pow (x := l.getD n 0 % 2 ^ b) (i := j)
      ((Nat.mod_lt _ (Nat.two_pow_pos b)).trans_le (Nat.pow_le_pow_right (by omega) (by omega)))]
    simp [hj]

@[simp] theorem unpack_length (b n v : Nat) : (unpack b n v).length = n := by
  induction n generalizing v with
  | zero => rfl
  | succ n ih => simp [unpack, ih]

theorem unpack_getElem? (b n v k : Nat) (hk : k < n) : (unpack b n v)[k]? = some (v / 2 ^ (b * k) % 2 ^ b) := by
  induction n generalizing v k with
  | zero => omega
  | succ n ih =>
    cases k with
    | zero => simp [unpack]
    | succ k =>
      rw [unpack, List.getElem?_cons_succ, ih _ _ (by omega), Nat.div_div_eq_div_mul, ← Nat.pow_add, Nat.mul_succ,
        Nat.add_comm b]

/-! ## The words of a statistics row (R199) -/

/-- Word `j` of a row, set or not. -/
def statBits (x : StatRow) : Nat → Word
  | 0 => x.w0
  | 1 => x.w1
  | 2 => x.w2
  | _ => x.w3

theorem statWord_eq (x : StatRow) (j : Nat) :
    statWord x j = if x.set.getLsbD j then some (statBits x j).toNat else none := by
  unfold statWord statBits
  split <;> rfl

theorem statWord_getD_lt (x : StatRow) (j : Nat) : (statWord x j).getD 0 < 2 ^ 32 := by
  rw [statWord_eq]
  split
  · exact (statBits x j).isLt
  · exact Nat.two_pow_pos 32

/-- Rows with the same SET bits whose words agree where they are set hold the same words. -/
theorem statWord_congr {x y : StatRow} {j : Nat} (hset : y.set = x.set)
    (hword : statBits y j = BitVec.ofNat 32 ((statWord x j).getD 0)) : statWord y j = statWord x j := by
  rw [statWord_eq x j] at hword ⊢
  rw [statWord_eq y j, hset, hword]
  split <;> simp

/-! ## Lanes 0 to 4 (R200, R201) -/

/-- The words of a row as lanes 0 to 3. -/
def wordLanes (x : StatRow) : List Nat := tabulate 4 fun j => (statWord x j).getD 0

@[simp] theorem wordLanes_length (x : StatRow) : (wordLanes x).length = 4 := rfl

theorem wordLanes_getD (x : StatRow) {j : Nat} (hj : j < 4) : (wordLanes x).getD j 0 = (statWord x j).getD 0 := by
  rw [wordLanes, List.getD_eq_getElem?_getD, tabulate_getElem? _ _ _ hj, Option.getD_some]

/-- SET and CNT of a row as lane 4. -/
def setCntLane (x : StatRow) : Nat := x.set.toNat + 16 * x.cnt.toNat

theorem setCntLane_lt (x : StatRow) : setCntLane x < 2 ^ 12 := by
  have := x.set.isLt
  have := x.cnt.isLt
  unfold setCntLane
  omega

/-- A register with the words of a row in lanes 0 to 3, as VSMRG leaves VD. -/
def withWords (v : VReg) (x : StatRow) : VReg := vPutElems v 32 (wordLanes x)

theorem withWords_eq (v : VReg) (x : StatRow) : withWords v x = bvPut v 0 128 (statLanes x) := rfl

theorem vElem_withWords (v : VReg) (x : StatRow) {j : Nat} (hj : j < 4) :
    vElem (withWords v x) 32 j = (statWord x j).getD 0 := by
  rw [withWords, vElem_vPutElems _ _ _ _ (by decide) hj (by simp), wordLanes_getD _ hj,
    Nat.mod_eq_of_lt (statWord_getD_lt _ _)]

theorem getLsbD_withWords (v : VReg) (x : StatRow) {j : Nat} (hj : 128 ≤ j) :
    (withWords v x).getLsbD j = v.getLsbD j := by
  rw [withWords, getLsbD_vPutElems _ _ _ _ (by decide) (by simp)]
  exact if_neg (not_lt.mpr hj)

/-- A register with a row in lanes 0 to 4, as VSRD leaves VD. -/
def withRow (v : VReg) (x : StatRow) : VReg := vPutElems v 32 (wordLanes x ++ [setCntLane x])

theorem withRow_eq (v : VReg) (x : StatRow) :
    withRow v x = bvPut v 0 160 (statLanes x + (x.cnt.toNat * 16 + x.set.toNat) * 2 ^ 128) := by
  have hlane : setCntLane x % 2 ^ 32 = x.cnt.toNat * 16 + x.set.toNat := by
    rw [Nat.mod_eq_of_lt ((setCntLane_lt x).trans (by decide)), setCntLane]
    ring
  rw [← hlane]
  exact congrArg (bvPut v 0 160) (pack_concat 32 (wordLanes x) (setCntLane x))

theorem vElem_withRow (v : VReg) (x : StatRow) {j : Nat} (hj : j < 5) :
    vElem (withRow v x) 32 j = (wordLanes x ++ [setCntLane x]).getD j 0 % 2 ^ 32 :=
  vElem_vPutElems _ _ _ _ (by decide) hj (by simp)

theorem vElem_withRow_word (v : VReg) (x : StatRow) {j : Nat} (hj : j < 4) :
    vElem (withRow v x) 32 j = (statWord x j).getD 0 := by
  rw [vElem_withRow v x (by omega), List.getD_append _ _ _ _ hj, wordLanes_getD _ hj,
    Nat.mod_eq_of_lt (statWord_getD_lt _ _)]

theorem vElem_withRow_setCnt (v : VReg) (x : StatRow) : vElem (withRow v x) 32 4 = setCntLane x := by
  rw [vElem_withRow v x (by omega)]
  exact Nat.mod_eq_of_lt ((setCntLane_lt x).trans (by decide))

theorem getLsbD_withRow (v : VReg) (x : StatRow) {j : Nat} (hj : 160 ≤ j) : (withRow v x).getLsbD j = v.getLsbD j := by
  rw [withRow, getLsbD_vPutElems _ _ _ _ (by decide) (by simp)]
  exact if_neg (not_lt.mpr hj)

theorem statBits_statOfLanes (v : VReg) {j : Nat} (hj : j < 4) :
    statBits (statOfLanes v) j = BitVec.ofNat 32 (vElem v 32 j) := by
  match j with
  | 0 | 1 | 2 | 3 => rfl

/-- What VSRD saves of SET is what VSWR takes. -/
theorem statOfLanes_withRow_set (v : VReg) (x : StatRow) : (statOfLanes (withRow v x)).set = x.set := by
  have := x.set.isLt
  refine BitVec.eq_of_toNat_eq ?_
  simp only [statOfLanes, vElem_withRow_setCnt, setCntLane, BitVec.toNat_ofNat]
  omega

/-- What VSRD saves of CNT is what VSWR takes. -/
theorem statOfLanes_withRow_cnt (v : VReg) (x : StatRow) : (statOfLanes (withRow v x)).cnt = x.cnt := by
  have := x.set.isLt
  have := x.cnt.isLt
  refine BitVec.eq_of_toNat_eq ?_
  simp only [statOfLanes, vElem_withRow_setCnt, setCntLane, BitVec.toNat_ofNat]
  omega

/-- A row saved by VSRD and written back by VSWR holds the same words (R201). -/
theorem statWord_statOfLanes_withRow (v : VReg) (x : StatRow) {j : Nat} (hj : j < 4) :
    statWord (statOfLanes (withRow v x)) j = statWord x j :=
  statWord_congr (statOfLanes_withRow_set v x) (by rw [statBits_statOfLanes _ hj, vElem_withRow_word _ _ hj])

/-! ## VSRD, VSWR and VSMRG -/

section
variable {s : State} {r : Run} {i : Inst} {w : VecWord} {x : RowOp} {row : Nat}

/-- VSRD whose count is as expected, or is not asked for. -/
theorem exec_vsrd_read {y : VsrdExt} (hrow : rowVal s x = row) (hlt : row < 2048)
    (hiss : Issuable s r i .v 1 (.vsrd w x y) (rowRegs x)) (hfree : rngsBusy s s.seq.nextUid [rFirn row 1 false] = false)
    (hcnt : y.fin = false ∨ (statRow s row).cnt = y.nb) :
    exec (.vsrd w x y) s = .next (after (setV (firnTake (counted s) i.uid 4 row) w.vd
      (withRow (getV s w.vd) (statRow s row))) r 1) := by
  have hok : (y.fin && (statRow s row).cnt != y.nb) = false := by rcases hcnt with h | h <;> simp [h]
  refine Eq.trans (b := execVsrd w x y s) rfl (vecIssue_go hiss ?_)
  simp [hrow, rowBad_of_lt hlt, hfree, hok, withRow_eq]

/-- VSRD with FIN whose count is not the expected one (R200). -/
theorem exec_vsrd_open {y : VsrdExt} (hrow : rowVal s x = row) (hlt : row < 2048)
    (hiss : Issuable s r i .v 1 (.vsrd w x y) (rowRegs x)) (hfree : rngsBusy s s.seq.nextUid [rFirn row 1 false] = false)
    (hfin : y.fin = true) (hcnt : (statRow s row).cnt ≠ y.nb) :
    exec (.vsrd w x y) s =
      .next (raiseFault s r ⟨s.seq.nextUid, eStatopen, r.pc, some (statRow s row).cnt.toNat⟩) := by
  refine Eq.trans (b := execVsrd w x y s) rfl (vecIssue_vecFault hiss ?_)
  simp [hrow, rowBad_of_lt hlt, hfree, hfin, hcnt]

theorem vecEffect_vswr (hrow : rowVal s x = row) (hlt : row < 2048)
    (hfree : rngsBusy s s.seq.nextUid [rFirn row 1 true] = false) :
    VecEffect (.vswr w x) (rowRegs x) s r i (putStatRow (counted s) row (statOfLanes (getV s w.va))) := by
  intro hiss
  refine Eq.trans (b := execVswr w x s) rfl (vecIssue_go hiss ?_)
  simp [hrow, rowBad_of_lt hlt, hfree]

/-- The row that VSMRG writes: one merge more with INC, up to 255 (R202). -/
def countMerge (inc : Bool) (x : StatRow) : StatRow :=
  if inc = true ∧ x.cnt ≠ 255 then { x with cnt := x.cnt + 1 } else x

theorem exec_vsmrg {y : VsmrgExt} {m : StatRow × Flags} (hrow : rowVal s x = row) (hlt : row < 2048)
    (hiss : Issuable s r i .v 1 (.vsmrg w x y) (rowRegs x)) (hfree : rngsBusy s s.seq.nextUid [rFirn row 1 true] = false)
    (hm : mergeRow (statRow s row) y.mode.toNat y.wi.toNat (vElem (getV s w.va) 32 0) (vElem (getV s w.va) 32 1)
      (vElem (getV s w.va) 32 2) = m) :
    exec (.vsmrg w x y) s = .next (after (raiseVec (setV (putStatRow (firnTake (counted s) i.uid 4 row) row
      (countMerge y.inc m.1)) w.vd (withWords (getV s w.vd) (countMerge y.inc m.1))) m.2) r 1) := by
  refine Eq.trans (b := execVsmrg w x y s) rfl (vecIssue_go hiss ?_)
  simp [hrow, rowBad_of_lt hlt, hfree, hm, withWords_eq, countMerge]

end

/-! ## VSCLF (R208) -/

theorem vecEffect_vsclf {s : State} {r : Run} {i : Inst} {w : VecWord} {x : RowOp} {y : VsclfExt} {base : Nat}
    (hrow : rowVal s x = base) (hlt : base + y.nr.toNat < 2048)
    (hfp : ∀ m ≤ y.nr.toNat, ∀ a < 4, y.am.getLsbD a = true →
      (firnRow s a (base + m)).zero = true ∨ (firnRow s a (base + m)).isInt = false)
    (hfree : rngsBusy s s.seq.nextUid [rFirn base (y.nr.toNat + 1) true] = false) :
    VecEffect (.vsclf w x y) (rowRegs x) s r i ((List.range (y.nr.toNat + 1)).foldl (fun s m =>
      scaleSlices s y.am (base + m) ((statWord (statRow s (base + m)) y.ws.toNat).getD 0x3F800000) i.uid)
        ((List.range (y.nr.toNat + 1)).foldl (fun s m => firnTake s i.uid 4 (base + m)) (counted s))) := by
  intro hiss
  refine Eq.trans (b := execVsclf w x y s) rfl (vecIssue_go hiss ?_)
  have hin : ¬ ((base : Int) < 0 ∨ 2047 < (base : Int) + y.nr.toNat) := by omega
  have hnone : ((List.range (y.nr.toNat + 1)).find? fun m => (List.range 4).any fun a =>
      y.am.getLsbD a && !(firnRow s a (base + m)).zero && (firnRow s a (base + m)).isInt) = none := by
    simp only [List.find?_eq_none, List.any_eq_true, List.mem_range, Bool.and_eq_true, Bool.not_eq_true',
      not_exists, not_and]
    intro m hm a ha ⟨ham, hz⟩
    simpa [hz] using hfp m (by omega) a ha ham
  simp only [rowVal_counted, hrow, if_neg hin, Int.toNat_natCast, seq_counted, rngsBusy_counted, hfree, Bool.false_eq_true,
    if_false, firnRow_counted, hnone]

/-- Word `c` of a row that is not ZERO, scaled. -/
theorem scaleRow_word {x : FirnRow} (hz : x.zero = false) (f : Nat) {c : Nat} (hc : c < 128) :
    bvGet (scaleRow x f).1.words (32 * c) 32 = (mMul (bvGet x.words (32 * c) 32) f).1 % 2 ^ 32 := by
  have hwords : (scaleRow x f).1.words
      = BitVec.ofNat 4096 (pack 32 ((unpack 32 128 x.words.toNat).map fun v => (mMul v f).1)) := by
    simp [scaleRow, rowWords, hz, Function.comp_def]
  rw [hwords, bvGet_pack _ _ _ (by decide) (by simpa using hc) (by simp), List.getD_eq_getElem?_getD, List.getElem?_map,
    unpack_getElem? _ _ _ _ hc]
  rfl

theorem scaleRow_zero {x : FirnRow} (hz : x.zero = true) (f : Nat) : scaleRow x f = (x, 0) := if_pos hz

/-- CHK, ABS, BLK and the bits of a row that is not ZERO, scaled. -/
theorem scaleRow_marks {x : FirnRow} (hz : x.zero = false) (f : Nat) :
    let y := (scaleRow x f).1
    y.chk = BitVec.ofNat 32 (mMul x.chk.toNat f).1 ∧
      y.abs = BitVec.ofNat 32 (fpMul .fp32 .rup x.abs.toNat (fpAbs .fp32 f)).1 ∧
      y.blk = blkNext x.blk ∧ y.checked = false ∧ y.zero = false ∧ y.isInt = x.isInt := by
  simp [scaleRow, hz]

/-- Settles O14: what VSRD puts into VD holds the row, so that VSWR takes it back; VSCLF scales the words one by one. -/
theorem statRows : Obligations.StatRows := by
  refine ⟨⟨?_, ?_⟩, ?_, ?_, ?_, ?_⟩
  · intro s r i w x y row hrow hlt st hiss hfree
    refine ⟨fun hcnt => ⟨withRow (getV s w.vd) st, exec_vsrd_read hrow hlt hiss hfree hcnt, ?_⟩,
      exec_vsrd_open hrow hlt hiss hfree⟩
    exact ⟨fun j hj => vElem_withRow_word _ _ hj, vElem_withRow_setCnt _ _, fun j hj => getLsbD_withRow _ _ hj,
      statOfLanes_withRow_set _ _, statOfLanes_withRow_cnt _ _, fun j hj => statWord_statOfLanes_withRow _ _ hj⟩
  · intro s r i w x row hrow hlt lane hfree
    exact vecEffect_vswr hrow hlt hfree
  · intro s r i w x y base hrow hlt hfp hfree
    exact vecEffect_vsclf hrow hlt hfp hfree
  · intro s am row f uid
    rfl
  · intro s uid a row x y hclean
    exact ⟨readMarks_clean hclean _ _, dropMarks_clean (s := setFirnRow s a row x) hclean _,
      dropMarks_clean (s := setStatRow s row y) hclean _⟩
  · intro x f
    exact ⟨fun hz => scaleRow_zero hz f, fun hz => ⟨fun c hc => scaleRow_word hz f hc, scaleRow_marks hz f⟩⟩

/-! ## The merge modes (Table 8-5) -/

section
variable {x : StatRow} {wi a0 a1 a2 u v : Nat}

/-- The correction factor of a word that the maximum `m` replaces. -/
theorem mCorrect_eq (u m : Nat) : mCorrect u m =
    if u = m then (0x3F800000, 0)
    else ((fpTrans .exp2 (mSub u m).1).1, (mSub u m).2 ||| (fpTrans .exp2 (mSub u m).1).2) := rfl

theorem mergeRow_max_unset (h : statWord x wi = none) : mergeRow x 0 wi a0 a1 a2 = (setStatWord x wi a0, 0) := by
  simp only [mergeRow, h]

theorem mergeRow_max_set (h : statWord x wi = some v) :
    mergeRow x 0 wi a0 a1 a2 = (setStatWord x wi (mMax v a0).1, (mMax v a0).2) := by
  simp only [mergeRow, h]

theorem mergeRow_sum_unset (h : statWord x wi = none) : mergeRow x 1 wi a0 a1 a2 = (setStatWord x wi a0, 0) := by
  simp only [mergeRow, h]

theorem mergeRow_sum_set (h : statWord x wi = some v) :
    mergeRow x 1 wi a0 a1 a2 = (setStatWord x wi (mAdd v a0).1, (mAdd v a0).2) := by
  simp only [mergeRow, h]

theorem mergeRow_rmax_unset (h : statWord x 0 = none) :
    mergeRow x 2 wi a0 a1 a2 = (setStatWord (setStatWord x 0 a0) 2 0x3F800000, 0) := by
  simp only [mergeRow, h]

theorem mergeRow_rmax_set (h : statWord x 0 = some v) {m c : Nat × Flags} (hm : mMax v a0 = m) (hc : mCorrect v m.1 = c) :
    mergeRow x 2 wi a0 a1 a2 = (setStatWord (setStatWord x 2 c.1) 0 m.1, m.2 ||| c.2) := by
  simp only [mergeRow, h, hm, hc]

theorem mergeRow_rsum_unset (h : statWord x 1 = none) : mergeRow x 3 wi a0 a1 a2 = (setStatWord x 1 a0, 0) := by
  simp only [mergeRow, h]

theorem mergeRow_rsum_set (h : statWord x 1 = some u) {n : Nat × Flags}
    (hn : mFma u ((statWord x 2).getD 0x3F800000) a0 = n) : mergeRow x 3 wi a0 a1 a2 = (setStatWord x 1 n.1, n.2) := by
  simp only [mergeRow, h, hn]

theorem mergeRow_lse_unset (h : statWord x 0 = none ∨ statWord x 1 = none) :
    mergeRow x 4 wi a0 a1 a2 = (setStatWord (setStatWord x 0 a0) 1 a1, 0) := by
  rcases h with h | h
  · simp only [mergeRow, h]
  · cases h0 : statWord x 0 <;> simp only [mergeRow, h0, h]

theorem mergeRow_lse_set (h0 : statWord x 0 = some v) (h1 : statWord x 1 = some u) {m c y p n : Nat × Flags}
    (hm : mMax v a0 = m) (hc : mCorrect v m.1 = c) (hy : mCorrect a0 m.1 = y) (hp : mMul a1 y.1 = p)
    (hn : mFma u c.1 p.1 = n) :
    mergeRow x 4 wi a0 a1 a2 = (setStatWord (setStatWord x 1 n.1) 0 m.1, m.2 ||| c.2 ||| y.2 ||| p.2 ||| n.2) := by
  simp [mergeRow, h0, h1, hm, hc, hy, hp, hn, orFlags]

theorem mergeRow_mv_unset (h : statWord x 0 = none) :
    mergeRow x 5 wi a0 a1 a2 = (setStatWord (setStatWord (setStatWord x 0 a0) 1 a1) 2 a2, 0) := by
  simp only [mergeRow, h]

theorem mergeRow_mv_set (h : statWord x 0 = some v) : mergeRow x 5 wi a0 a1 a2 = mergeMv x v a0 a1 a2 := by
  simp only [mergeRow, h]

theorem mergeMv_eq {n d q t dd p w1 w2 : Nat × Flags} (hn : mAdd v a0 = n) (hd : mSub a1 ((statWord x 1).getD 0) = d)
    (hq : mDiv a0 n.1 = q) (ht : mMul v q.1 = t) (hdd : mMul d.1 d.1 = dd) (hp : mAdd ((statWord x 2).getD 0) a2 = p)
    (hw1 : mFma d.1 q.1 ((statWord x 1).getD 0) = w1) (hw2 : mFma dd.1 t.1 p.1 = w2) :
    mergeMv x v a0 a1 a2 = if fpIsZero .fp32 n.1 then (x, n.2)
      else (setStatWord (setStatWord (setStatWord x 1 w1.1) 2 w2.1) 0 n.1,
        n.2 ||| d.2 ||| q.2 ||| t.2 ||| w1.2 ||| dd.2 ||| p.2 ||| w2.2) := by
  simp [mergeMv, hn, hd, hq, ht, hdd, hp, hw1, hw2, orFlags]

end

/-- Settles O15: VSMRG writes the row that the merge gives and VD takes its words; the merge is Table 8-5 mode by mode. -/
theorem statMerge : Obligations.StatMerge := by
  refine ⟨?_, ?_⟩
  · intro s r i w x y row hrow hlt a m st hiss hfree
    exact ⟨withWords (getV s w.vd) st, exec_vsmrg hrow hlt hiss hfree rfl, fun j hj => vElem_withWords _ _ hj,
      fun j hj => getLsbD_withWords _ _ hj⟩
  · intro x wi a0 a1 a2 _ set corr
    have hcorr : ∀ u m, mCorrect u m = corr u m := mCorrect_eq
    refine ⟨fun h => ⟨mergeRow_max_unset h, mergeRow_sum_unset h⟩,
      fun v h => ⟨mergeRow_max_set h, mergeRow_sum_set h⟩,
      fun h => ⟨mergeRow_rmax_unset h, mergeRow_lse_unset (.inl h), mergeRow_mv_unset h⟩,
      fun v h => ?_, mergeRow_rsum_unset, fun u h => mergeRow_rsum_set h rfl⟩
    intro m c
    refine ⟨mergeRow_rmax_set h rfl (hcorr _ _), fun h1 => mergeRow_lse_unset (.inr h1), fun u h1 => ?_, ?_⟩
    · exact mergeRow_lse_set h h1 rfl (hcorr _ _) (hcorr _ _) rfl rfl
    · exact (mergeRow_mv_set h).trans (mergeMv_eq rfl rfl rfl rfl rfl rfl rfl rfl)

end Sys2Proof.Machine
end

section
/-! Scalar instructions: the results of SALU, the values of SREAD, and where the fetch goes after BR (09, R216, R460 to
R462). -/

namespace Sys2Proof.Machine

open Sys2Proof

/-! ## SALU (R460) -/

/-- Table 9-15, with the comparisons on the values of the operands. -/
def saluTable : List (Nat × (DWord → DWord → DWord)) :=
  [(0, fun a b => a + b), (1, fun a b => a - b), (2, fun a b => a * b), (3, fun a b => a &&& b),
    (4, fun a b => a ||| b), (5, fun a b => a ^^^ b), (6, fun a b => a <<< (b.toNat % 64)),
    (7, fun a b => a >>> (b.toNat % 64)), (8, fun a b => a.sshiftRight (b.toNat % 64)),
    (9, fun a b => if a.toInt < b.toInt then 1 else 0), (10, fun a b => if a.toNat < b.toNat then 1 else 0),
    (11, fun a b => if b.toInt < a.toInt then b else a), (12, fun a b => if a.toInt < b.toInt then b else a),
    (13, fun _ b => b)]

/-- The function of an FN that the table lists is the one listed: `slt` and `ult` compare the values. -/
theorem saluFn_of_mem_saluTable {fn : BitVec 4} {f : DWord → DWord → DWord} (h : (fn.toNat, f) ∈ saluTable) :
    saluFn fn = f := by
  simp only [saluTable, List.mem_cons, List.not_mem_nil, or_false, Prod.mk.injEq] at h
  funext a b
  rcases h with h | h | h | h | h | h | h | h | h | h | h | h | h | h <;> obtain ⟨hfn, rfl⟩ := h <;>
    simp [saluFn, hfn, BitVec.slt_iff_toInt_lt, BitVec.ult_iff_toNat_lt]

theorem exec_salu {s : State} {r : Run} {i : Inst} {w : SaluWord}
    (hiss : Issuable s r i .s 1 (.salu w) (w.sd :: (if w.fn = 13 then [] else [w.sa]) ++ (if w.i then [] else [w.sb]))) :
    exec (.salu w) s =
      .next (after (setS s w.sd (saluFn w.fn (getS s w.sa) (if w.i then w.imm else getS s w.sb))) r 1) :=
  Eq.trans (b := execSalu w s) rfl (congrArg Host.Outcome.next (issue_go hiss rfl))

theorem salu_not_wf {w : SaluWord} (h : 14 ≤ w.fn.toNat) : (Instr.salu w).wf = false := by
  simp [Instr.wf, not_lt.mpr h]

/-! ## SREAD (R461) -/

section
variable {s : State} {r : Run} {i : Inst} {sel : BitVec 8}

/-- SEL names the value `v`. -/
def SreadNames (s : State) (i : Inst) (sel : BitVec 8) (v : DWord) : Prop :=
  sel = 0 ∧ v = s.boot.ties.clusterId.zeroExtend 64 ∨ sel = 1 ∧ v = s.boot.ties.dieId.zeroExtend 64 ∨
    sel = 2 ∧ v = i.tick0 ∨ sel = 3 ∧ v = s.seq.late.zeroExtend 64 ∨ sel = 4 ∧ v = s.perf.cycles ∨
    ∃ k : Fin 32, sel.toNat = 32 + k.val ∧ v = s.perf.cnt[k.val]

/-- From SEL 0x20 on, the performance counters. -/
theorem sreadVal_counter (k : Fin 32) (h : sel.toNat = 32 + k.val) : sreadVal s i sel = s.perf.cnt[k.val] := by
  have hlarge : sel.toNat = k.val + 27 + 5 := by omega
  simp [sreadVal, hlarge, Nat.mod_eq_of_lt k.isLt]

theorem sreadVal_of_names {v : DWord} (h : SreadNames s i sel v) : sreadVal s i sel = v := by
  rcases h with ⟨rfl, rfl⟩ | ⟨rfl, rfl⟩ | ⟨rfl, rfl⟩ | ⟨rfl, rfl⟩ | ⟨rfl, rfl⟩ | ⟨k, hsel, rfl⟩
  on_goal 6 => exact sreadVal_counter k hsel
  all_goals rfl

theorem exec_sread {sd : BitVec 5} (hiss : Issuable s r i .s 1 (.sread sel sd) [sd]) :
    exec (.sread sel sd) s = .next (after (setS s sd (sreadVal s i sel)) r 1) :=
  Eq.trans (b := execSread sel sd s) rfl (congrArg Host.Outcome.next (issue_go hiss rfl))

end

/-! ## BR (R216, R462) -/

/-- What COND says of the operands. -/
def BrCondition (cond : BitVec 3) (a b : DWord) (p : Prop) : Prop :=
  cond = 0 ∧ p = True ∨ cond = 1 ∧ p = (a = b) ∨ cond = 2 ∧ p = (a ≠ b) ∨ cond = 3 ∧ p = (a.toInt < b.toInt) ∨
    cond = 4 ∧ p = (b.toInt ≤ a.toInt) ∨ cond = 5 ∧ p = (a.toNat < b.toNat) ∨ cond = 6 ∧ p = (b.toNat ≤ a.toNat)

theorem brTaken_iff {cond : BitVec 3} {a b : DWord} {p : Prop} (h : BrCondition cond a b p) :
    brTaken cond a b = true ↔ p := by
  rcases h with h | h | h | h | h | h | h <;> obtain ⟨rfl, rfl⟩ := h <;>
    simp [brTaken, BitVec.slt_eq_decide, BitVec.ult_eq_decide]

/-- The code offset that BR names: its scalar register, or the immediate from the branch on. -/
def brTarget (s : State) (r : Run) (w : BrWord) : Int :=
  if w.rt then (getS s w.st).toNat else r.pc + w.tgt.toInt

/-- BR names a word of the code. An immediate of a well-formed word is a multiple of 16. -/
def BrInside (s : State) (r : Run) (i : Inst) (w : BrWord) : Prop :=
  0 ≤ brTarget s r w ∧ brTarget s r w < codeLen s i ∧ (w.rt = true → brTarget s r w % 16 = 0)

section
variable {s : State} {r : Run} {i : Inst} {w : BrWord}

theorem brInside_register (hrt : w.rt = true) :
    BrInside s r i w ↔ targetCheck (codeLen s i) (getS s w.st).toNat = none := by
  simp only [BrInside, brTarget, targetCheck, hrt, if_true, ite_eq_right_iff, reduceCtorEq, imp_false, forall_const]
  omega

theorem brInside_immediate (hrt : w.rt = false) :
    BrInside s r i w ↔ ¬ (r.pc + w.tgt.toInt < 0 ∨ (codeLen s i : Int) ≤ r.pc + w.tgt.toInt) := by
  simp only [BrInside, brTarget, hrt, Bool.false_eq_true, if_false, false_implies, and_true]
  omega

theorem targetCheck_eq_some {bytes pc : Nat} (h : targetCheck bytes pc ≠ none) :
    targetCheck bytes pc = some eCoderange := by
  unfold targetCheck at h ⊢
  exact if_pos (of_not_not fun hok => h (if_neg hok))

theorem brBody_jump (htaken : brTaken w.cond (getS s w.sa) (getS s w.sb) = true) (hin : BrInside s r i w) :
    brBody w s r i = .jump s (brTarget s r w).toNat := by
  cases hrt : w.rt with
  | true => simp [brBody, brTarget, hrt, htaken, (brInside_register hrt).mp hin]
  | false => simp [brBody, brTarget, hrt, htaken, (brInside_immediate hrt).mp hin]

/-- A register target is checked only where the branch is taken. -/
theorem brBody_go (htaken : brTaken w.cond (getS s w.sa) (getS s w.sb) = false) (hin : w.rt = true ∨ BrInside s r i w) :
    brBody w s r i = .go s := by
  cases hrt : w.rt with
  | true => simp [brBody, hrt, htaken]
  | false =>
    have hin : BrInside s r i w := hin.resolve_left (by simp [hrt])
    simp [brBody, hrt, htaken, (brInside_immediate hrt).mp hin]

theorem brBody_immediate_outside (hrt : w.rt = false) (hout : ¬ BrInside s r i w) : brBody w s r i = .fault eBadval := by
  rw [brInside_immediate hrt, not_not] at hout
  simp [brBody, hrt, hout]

theorem brBody_register_outside (hrt : w.rt = true) (htaken : brTaken w.cond (getS s w.sa) (getS s w.sb) = true)
    (hout : ¬ BrInside s r i w) : brBody w s r i = .fetchFault (brTarget s r w).toNat eCoderange := by
  have hcheck := targetCheck_eq_some (mt (brInside_register hrt).mpr hout)
  simp [brBody, brTarget, hrt, htaken, hcheck]

/-- The scalar registers that BR reads. -/
def brRegs (w : BrWord) : List (BitVec 5) := (if w.cond = 0 then [] else [w.sa, w.sb]) ++ (if w.rt then [w.st] else [])

/-- A BR that can issue does what its body answers. -/
theorem exec_br {v : Verdict} (hiss : Issuable s r i .s 1 (.br w) (brRegs w)) (hv : brBody w s r i = v) :
    exec (.br w) s = .next (issued s r (fetchedAt s r .s 1 (.br w) (brRegs w)) v) := by
  rw [← hv]
  exact Eq.trans (b := execBr w s) rfl (congrArg Host.Outcome.next (issue_issuable hiss _))

end

/-- Settles O16: SALU by its table, SREAD by its values, and BR by whether it is taken and names a word of the code. -/
theorem scalarOps : Obligations.ScalarOps := by
  refine ⟨?_, fun _ => salu_not_wf, ?_, ?_⟩
  · intro s r i w f hf hiss
    rw [exec_salu hiss, saluFn_of_mem_saluTable hf]
  · intro s r i sel sd v hv hiss
    rw [exec_sread hiss, sreadVal_of_names hv]
  · intro s r i w p a b hp hiss tgt inside
    have htaken : brTaken w.cond a b = true ↔ p := brTaken_iff hp
    refine ⟨fun h hin => ?_, fun h hin => ?_, fun hrt hout => ?_, fun hrt h hout => ?_⟩
    · exact exec_br hiss (brBody_jump (htaken.mpr h) hin)
    · exact exec_br hiss (brBody_go (Bool.eq_false_iff.mpr (mt htaken.mp h)) hin)
    · exact exec_br hiss (brBody_immediate_outside hrt hout)
    · exact exec_br hiss (brBody_register_outside hrt (htaken.mpr h) hout)

end Sys2Proof.Machine
end
